-- ==== Sys2Proof/Word.lean ====
section
/-! DEFINITION. The word types of the Lugpera LP4820: the byte of its two serial ports, and the keyed
table in which the part keeps its numbered records. -/

namespace Sys2Proof

/-- A byte of a frame on either port (section 10.1). -/
abbrev Byte := BitVec 8

/-- A table of numbered records: pairs of a number and a record, numbers strictly rising. A number that is
not listed has no record: an absent unit (R1), a site or group that is not configured (R88, R109), an
identifier that no call holds (R128), a site with no status in a call's map. -/
abbrev Table (α : Type) := List (Nat × α)

end Sys2Proof
end

