-- ==== Sys2Proof/Syntax.lean ====
section
/-! DEFINITION. The commands of the LP4820: one constructor for each row of spec/opcode_table.json, in the
table's order. A report, answer or request row has no operand of its own: it takes the frame at the head of
its port's inbound queue, and that frame carries the fields (R26, R151, R186; log entry 5). A deadline row names the
record, site or call whose deadline is reached. -/

namespace Sys2Proof

/-- One step of the part, "each whole and indivisible" (95_what_each_step_holds). -/
inductive Instr where
  /-- Bytes clocked into the Site Port, the frames they complete being treated by R181 and R182. -/
  | siteFrameReceived (bytes : List Byte)
  /-- Bytes clocked into the Dispatch Port, the frames they end being treated by R150 and R179. -/
  | dispatchFrameReceived (bytes : List Byte)
  /-- The last byte of the frame in transmission at the Site Port is clocked out (R183). -/
  | outboundEntrySent
  /-- The last byte of the head answer is clocked out at the Dispatch Port (R151). -/
  | answerSent
  /-- Power-on reset ends (R190). -/
  | powerOnReset
  /-- A REG report is taken (R26 to R35). -/
  | reg
  /-- A HEARD report is taken. -/
  | heard
  /-- An EMERG report is taken. -/
  | emerg
  /-- A DEREG report is taken (R36). -/
  | dereg
  /-- A READY answer is taken (R70). -/
  | ready
  /-- A QUIESCED answer is taken (R71). -/
  | quiesced
  /-- A DECLINE answer is taken (R73). -/
  | decline
  /-- A SITE-STATUS is taken (R91). -/
  | siteStatus
  /-- A CALL-REQUEST is taken (R130). -/
  | callRequest
  /-- A CALL-END is taken (R143). -/
  | callEnd
  /-- The settle deadline of the unit's open burst is reached (R33). -/
  | settleExpiry (unit : Nat)
  /-- The handover deadline of the unit's record is reached (R77). -/
  | handoverDeadlineExpiry (unit : Nat)
  /-- The lease of the unit's record expires (R11, R12). -/
  | leaseExpiry (unit : Nat)
  /-- The presume hold of the unit's record expires (R16). -/
  | presumeHoldExpiry (unit : Nat)
  /-- The retire hold of the unit's record expires (R22). -/
  | retireHoldExpiry (unit : Nat)
  /-- The heartbeat deadline of the site is reached (R92). -/
  | heartbeatExpiry (site : Nat)
  /-- The hang deadline of the call is reached (R143). -/
  | hangExpiry (call : Nat)
  /-- The queue-hold deadline of the call's entry at the site is reached (R138). -/
  | queueHoldExpiry (site call : Nat)
  /-- The Bulk Engine takes one step (R167). -/
  | bulkStep
  /-- A rejected, unrecognised or misfitting request is taken (R152). -/
  | rejectedRequest
  | defineSite
  | setSite
  | setNeighbours
  | undefineSite
  | defineGroup
  | setGroup
  | undefineGroup
  | setParameter
  /-- OPEN (R189). -/
  | openService
  /-- RESTART (R191). The operand says whether the site clock has already moved a byte of the frame at the
  head of the outbound queue: such a frame is sent to its end. -/
  | restart (headPartlySent : Bool)
  | locate
  | siteQuery
  | groupQuery
  | callQuery
  | bulkStatus
  | nextNotice
  | portStatus
  | forceRelease
  | clearEmergency
  | clearLost
  | setGroups
  | clearRegroup
  | forceEnd
  | roster
  | recallGroup
  | cancelRecall
  | evacuate
  | resync
  | purge
  | bulkSuspend
  | bulkResume
  | bulkAbort
deriving DecidableEq, Repr

end Sys2Proof
end

