-- ==== Sys2Proof/Decode.lean ====
section
/-! DEFINITION. The command that a word spells by the bits of spec/opcode_table.json. No row of the table
gives bits: the commands are events of the block, and the frames that carry their fields are read by
Sys2Proof/Machine/Frames.lean (log entry 19). -/

namespace Sys2Proof

/-- The command spelt by a word of nbits bits: none, since no row of the table has bits. -/
def decodeTableWord (_nbits _w : Nat) : Option Instr := none

end Sys2Proof
end

