-- ==== Sys2Proof/Config.lean ====
section
/-! DEFINITION. The capacities the manual fixes ("Capacities and parameters at a glance") and the values it
leaves open. -/

namespace Sys2Proof.Config

/-- Largest unit number (Numbers and identifiers). -/
abbrev maxUnit : Nat := 16777215
/-- Largest site number. -/
abbrev maxSite : Nat := 48
/-- Largest group number. -/
abbrev maxGroup : Nat := 128
/-- Calls, and the largest call identifier (R128). -/
abbrev maxCalls : Nat := 32
/-- Radio records (R1). -/
abbrev maxRecords : Nat := 2048
/-- Group memberships of one radio (R118). -/
abbrev maxMemberships : Nat := 4
/-- Hearing entries of one radio (R39). -/
abbrev maxHearing : Nat := 4
/-- Neighbours of one site (R106). -/
abbrev maxNeighbours : Nat := 6
/-- The hard limit of registrations at one site (R59). -/
abbrev maxRegistrations : Nat := 255
/-- Calls in one site's channel queue (R134). -/
abbrev maxChannelQueue : Nat := 8
/-- Site Port inbound queue (R182). -/
abbrev maxSiteIn : Nat := 128
/-- Site Port outbound queue (R183). -/
abbrev maxOutbound : Nat := 512
/-- The ordinary limit of the outbound queue (R184). -/
abbrev ordinaryLimit : Nat := 448
/-- Dispatch Port inbound request queue (R150). -/
abbrev maxRequests : Nat := 16
/-- Answer queue (R151). -/
abbrev maxAnswers : Nat := 32
/-- Notice queue (R160). -/
abbrev maxNotices : Nat := 64
/-- Roster page (R173). -/
abbrev maxRoster : Nat := 32
/-- The span of part time (R187). -/
abbrev timeSpan : Nat := 4294967296

/-- FREE VALUE (log entry 3): which of several deadlines reached at one part time the part takes first. The
manual lets either order occur. Applied to the state's count of choices, and reduced below the number of
deadlines that are due. -/
opaque firstTaken : Nat → Nat

/-- FREE VALUE (log entry 2): part time after its largest value, which R187 says is not passed in the part's
service life. Applied to the state's count of choices. -/
opaque timeBeyond : Nat → BitVec 32

end Sys2Proof.Config
end

