-- ==== Sys2Proof/Machine/State.lean ====
section
/-! DEFINITION. The state of the LP4820 as plain data: the thirteen blocks' records, queues, counters and
indications, and the state after power-on reset. Times are points in part time, in tenths of a second. -/

namespace Sys2Proof.Machine

/-! ### Why a step can stop -/

/-- There is no fault: the manual has no condition that stops the part. -/
inductive Fault
deriving DecidableEq, Repr

/-- Why a command has no meaning. -/
inductive Refusal where
  /-- Raised by an arm of exec whose command has not been given its meaning. No arm of this model raises it.
  Safe: the machine stops where the part goes on. -/
  | notModelled (mnemonic : String)
deriving DecidableEq, Repr

/-! ### Radio records (section 1.2) -/

/-- Why a record is PRESUMED. -/
inductive PresumeCause where
  | lease
  | siteDark
deriving DecidableEq, Repr

/-- The handover context of a MOVING record (R64). Its from site and to site are the record's serving and
pending sites, which R64 says they equal throughout. -/
structure Handover where
  tag : Nat
  readySeen : Bool
  quiescedSeen : Bool
  deadline : Nat
deriving DecidableEq, Repr

/-- The record's state together with the fields that R2 gives only to that state: serving, pending and last
site, presume cause, handover context, the one deadline under its meaning, and the retired-at time. -/
inductive RecordState where
  | joining
  | registered (serving lease : Nat)
  | moving (serving pending lease : Nat) (ctx : Handover)
  | presumed (serving : Nat) (cause : PresumeCause) (hold : Nat)
  | lost (last : Nat)
  | retired (last retiredAt hold : Nat)
deriving DecidableEq, Repr

/-- One entry of a record's group list: the group and its recall-pending flag (R122). -/
structure Membership where
  group : Nat
  pending : Bool
deriving DecidableEq, Repr

/-- The regroup state (R119 to R121). -/
inductive Regroup where
  | none
  | ordered
  | confirmed
deriving DecidableEq, Repr

/-- The open burst (section 2.3). The emergency flag is set exactly when `emergency` holds the site whose copy
set it; the reported list is absent until a REG copy supplies one. -/
structure Burst where
  seq : Nat
  emergency : Option Nat
  first : Bool
  reported : Option (List Nat)
  openedAt : Nat
  sites : List Nat
  settle : Nat
deriving DecidableEq, Repr

/-- The previous burst set. R34 and R42 read the closed burst's opened-at time, so it is kept with the set
(DEDUCED, log entry 13). -/
structure PrevBurst where
  seq : Nat
  sites : List Nat
  openedAt : Nat
deriving DecidableEq, Repr

/-- One entry of the hearing list (section 2.5). -/
structure Hearing where
  site : Nat
  quality : Nat
  heard : Nat
  confirmed : Bool
  backoff : Option Nat
deriving DecidableEq, Repr

/-- How a handover ended (R87). NONE is the absence of an end. -/
inductive HandoverEnd where
  | completed
  | declined
  | timedOut
  | aborted
deriving DecidableEq, Repr

/-- An active emergency: its since-time and reporting site (R23). -/
structure Emergency where
  since : Nat
  site : Nat
deriving DecidableEq, Repr

/-- A radio record. Its unit number is its key in the Radio Table. -/
structure Radio where
  state : RecordState
  groups : List Membership
  regroup : Regroup
  lastSeq : Nat
  burst : Option Burst
  prev : Option PrevBurst
  hearing : List Hearing
  lastHandover : Option (HandoverEnd × Nat)
  emergency : Option Emergency
deriving DecidableEq, Repr

/-- The six record states without their fields, as notices and roster entries carry them. -/
inductive StateName where
  | joining
  | registered
  | moving
  | presumed
  | lost
  | retired
deriving DecidableEq, Repr

/-! ### Site records (section 5.1) -/

/-- The condition a SITE-STATUS carries. -/
inductive Condition where
  | good
  | strained
  | failing
deriving DecidableEq, Repr

/-- The site state (R89). The heartbeat deadline is present in UP and DEGRADED. -/
inductive SiteState where
  | down
  | up (heartbeat : Nat)
  | degraded (heartbeat : Nat)
  | dark
deriving DecidableEq, Repr

/-- The four site states without the heartbeat deadline. -/
inductive SiteStateName where
  | down
  | up
  | degraded
  | dark
deriving DecidableEq, Repr

/-- The record of a configured site. A site that is not configured has no entry in the Site Table (R88). The
channel pool is read from the calls' maps, "the same facts seen from the site's side" (section 7.1); the
channel queue is kept in the order in which the calls joined it, and R137's order is formed from that (DESIGN
CHOICE, log entry 14). -/
structure Site where
  state : SiteState
  condition : Option Condition
  capacity : Nat
  count : Nat
  voice : Nat
  bias : Int
  hysteresis : Nat
  neighbours : List Nat
  acceptIn : Bool
  releaseOut : Bool
  overFlag : Bool
  syncLost : Bool
  queue : List Nat
deriving DecidableEq, Repr

/-! ### Group records (section 6.1) -/

/-- Priorities, ranked upward. EMERGENCY is a priority of calls only. -/
inductive Priority where
  | routine
  | tactical
  | command
  | emergency
deriving DecidableEq, Repr

/-- The recall state of a group. -/
inductive RecallState where
  | off
  | active
  | cancelling
deriving DecidableEq, Repr

/-- The record of a configured group. `counts` lists the sites whose member count is above 0. -/
structure Group where
  priority : Priority
  fixed : List Nat
  counts : Table Nat
  total : Nat
  recallState : RecallState
  unreached : Nat
  activeCall : Option Nat
deriving DecidableEq, Repr

/-! ### Calls (section 7.1) -/

/-- The call state; the hang deadline is present in HANG. -/
inductive CallState where
  | active
  | hang (deadline : Nat)
deriving DecidableEq, Repr

/-- The status of a call at a site. -/
inductive CallStatus where
  | granted (channel since : Nat)
  | queued (since hold : Nat)
  | busyOut
deriving DecidableEq, Repr

/-- A call record. Its identifier is its key in the Call Table; `map` is the per-site map. -/
structure Call where
  group : Nat
  priority : Priority
  state : CallState
  origin : Nat
  talker : Nat
  map : Table CallStatus
  created : Nat
deriving DecidableEq, Repr

/-! ### Global parameters (R188) -/

/-- The ten global timing parameters: settle time in tenths, the others in seconds. -/
structure Params where
  lease : Nat
  presumeHold : Nat
  retireHold : Nat
  settleTime : Nat
  handoverTimeout : Nat
  declineBackoff : Nat
  heartbeatTimeout : Nat
  ageDecay : Nat
  callHang : Nat
  queueHold : Nat
deriving DecidableEq, Repr

/-- The defaults of R188. -/
def Params.default : Params :=
  { lease := 300, presumeHold := 180, retireHold := 600, settleTime := 5, handoverTimeout := 5,
    declineBackoff := 30, heartbeatTimeout := 20, ageDecay := 10, callHang := 3, queueHold := 10 }

/-- The two phases (section 10.8). -/
inductive Phase where
  | config
  | service
deriving DecidableEq, Repr

/-! ### The Bulk Engine (section 9.1) -/

/-- The classes of a ROSTER filter (R173). -/
inductive RosterClass where
  | inState (n : StateName)
  | counted
  | emergency
  | all
deriving DecidableEq, Repr

/-- The filter of a ROSTER. -/
inductive RosterFilter where
  | site (n : Nat)
  | group (g : Nat)
  | cls (c : RosterClass)
deriving DecidableEq, Repr

/-- A bulk request: its kind and its parameters as R166 treats them. -/
inductive BulkOp where
  | roster (filter : RosterFilter) (start limit : Nat)
  | recallGroup (g : Nat)
  | cancelRecall (g : Nat)
  | evacuate (n : Nat)
  | resync (n : Nat)
  | purge
deriving DecidableEq, Repr

/-- One entry of a roster page: the site is 0 in JOINING. -/
structure RosterEntry where
  unit : Nat
  state : StateName
  site : Nat
  emergency : Bool
deriving DecidableEq, Repr

/-- The four result counters, in the order of the bulk account (section 10.2). -/
structure Counters where
  c1 : Nat
  c2 : Nat
  c3 : Nat
  c4 : Nat
deriving DecidableEq, Repr

/-- The operation that is RUNNING or SUSPENDED. -/
structure BulkRun where
  op : BulkOp
  suspended : Bool
  cursor : Nat
  visited : Nat
  counters : Counters
  page : List RosterEntry
  more : Bool
  roomWait : Bool
  gap : Bool
deriving DecidableEq, Repr

/-- A bulk account (section 10.2). -/
structure BulkAccount where
  op : BulkOp
  completed : Bool
  visited : Nat
  counters : Counters
deriving DecidableEq, Repr

/-! ### Site Port messages (section 10.2) -/

/-- A frame from a site that fits its kind (R181). The first field is the site number that the link
concentrator adds. -/
inductive SiteMsg where
  | reg (site unit seq : Nat) (first : Bool) (quality : Nat) (groups : List Nat)
  | heard (site unit seq quality : Nat)
  | emerg (site unit seq quality : Nat)
  | dereg (site unit seq : Nat)
  | ready (site unit tag : Nat)
  | quiesced (site unit tag : Nat)
  | decline (site unit tag reason : Nat)
  | status (site condition : Nat)
  | callRequest (site group unit : Nat)
  | callEnd (site call : Nat)
deriving DecidableEq, Repr

/-- Receipt codes (section 2.7). -/
inductive ReceiptCode where
  | taken
  | merged
  | late
  | duplicate
  | stale
  | unknown
  | refusedFull
  | refusedSite
  | notReady
  | held
deriving DecidableEq, Repr

/-- CALL-ANSWER codes. -/
inductive CallCode where
  | accepted
  | notReady
  | refusedSite
  | noSuch
  | refusedFull
deriving DecidableEq, Repr

/-- A frame for a site: one entry of the outbound queue. The first field is the site it is for. -/
inductive SiteOut where
  | receipt (site unit seq : Nat) (code : ReceiptCode) (recalled : List Nat) (regroup : Option (List Nat))
  | callAnswer (site : Nat) (code : CallCode) (call granted : Nat)
  | adopt (site unit : Nat) (groups : List Nat)
  | drop (site unit : Nat)
  | regroup (site unit : Nat) (groups : List Nat)
  | prepare (site unit tag : Nat) (groups : List Nat)
  | quiesce (site unit tag : Nat)
  | commit (site unit tag : Nat)
  | cancel (site unit tag : Nat)
  | callGrant (site call group channel : Nat)
  | callDrop (site call channel : Nat)
deriving DecidableEq, Repr

/-- A port's receiver (R179): hunting for a start byte, or within a frame, with the bytes after the start byte
received so far. -/
inductive Receiver where
  | hunting
  | inFrame (got : List Byte)
deriving DecidableEq, Repr

/-! ### Dispatch Port messages (chapter 8, section 10.2) -/

/-- A request as its body gives it. Values are tested by each request's own rules, not at reception. -/
inductive Request where
  | defineSite (site : Nat) (c v : Option Nat) (b : Option Int) (h : Option Nat) (acceptIn releaseOut : Bool)
  | setSite (site : Nat) (c v : Option Nat) (b : Option Int) (h : Option Nat) (acceptIn releaseOut : Option Bool)
  | setNeighbours (site : Nat) (list : List Nat)
  | undefineSite (site : Nat)
  | defineGroup (group priority : Nat) (fixed : List Nat)
  | setGroup (group : Nat) (priority : Option Nat) (fixed : Option (List Nat))
  | undefineGroup (group : Nat)
  | setParameter (parameter value : Nat)
  | openService
  | restart
  | locate (unit : Nat)
  | siteQuery (site : Nat)
  | groupQuery (group : Nat)
  | callQuery (call : Nat)
  | bulkStatus
  | nextNotice
  | portStatus
  | forceRelease (unit : Nat)
  | clearEmergency (unit : Nat)
  | clearLost (unit : Nat)
  | setGroups (unit : Nat) (list : List Nat)
  | clearRegroup (unit : Nat)
  | forceEnd (call : Nat)
  | roster (wait : Bool) (form value start limit : Nat)
  | recallGroup (wait : Bool) (group : Nat)
  | cancelRecall (wait : Bool) (group : Nat)
  | evacuate (wait : Bool) (site : Nat)
  | resync (wait : Bool) (site : Nat)
  | purge (wait : Bool)
  | bulkSuspend
  | bulkResume
  | bulkAbort (scope kind : Nat)
deriving DecidableEq, Repr

/-- An entry of the inbound request queue: a frame as received, and whether it is marked rejected (R150). -/
structure RequestEntry where
  rejected : Bool
  kind : Byte
  body : List Byte
deriving DecidableEq, Repr

/-- Answer codes (R153). -/
inductive Code where
  | done
  | doneClamped
  | doneWaiting
  | busy
  | wrongPhase
  | wrongState
  | noSuch
  | full
  | frameReject
  | none
deriving DecidableEq, Repr

/-- Notices, with what each carries besides its time (section 8.4). The roster result of BULK-DONE is the more
flag, the remaining count and the page. -/
inductive NoticeBody where
  | lost (unit last : Nat) (emergency : Bool)
  | found (unit serving : Nat)
  | emergency (unit site : Nat) (state : StateName)
  | siteDark (site : Nat) (failing : Bool) (count : Nat)
  | siteUp (site : Nat) (state : SiteStateName) (restored : Nat)
  | siteOver (site count capacity : Nat)
  | syncLost (site : Nat)
  | recallComplete (group : Nat)
  | callPreempted (call group site by_ : Nat)
  | bulkDone (account : BulkAccount) (roster : Option (Bool × Nat × List RosterEntry))
deriving DecidableEq, Repr

/-- A notice and the part time at which it was raised. -/
structure Notice where
  time : Nat
  body : NoticeBody
deriving DecidableEq, Repr

/-- The meaning of a record's deadline, as LOCATE reports it, with the seconds remaining. -/
inductive DeadlineReply where
  | none
  | lease (seconds : Nat)
  | presumeHold (seconds : Nat)
  | retireHold (seconds : Nat)
deriving DecidableEq, Repr

/-- A hearing entry as LOCATE reports it: age in seconds, and the seconds to a backoff time that lies ahead. -/
structure HearingReply where
  site : Nat
  quality : Nat
  age : Nat
  confirmed : Bool
  backoff : Option Nat
deriving DecidableEq, Repr

/-- The handover context as LOCATE reports it (R64). -/
structure HandoverReply where
  tag : Nat
  fromSite : Nat
  toSite : Nat
  readySeen : Bool
  quiescedSeen : Bool
  seconds : Nat
deriving DecidableEq, Repr

/-- The content of a LOCATE answer (R154). -/
structure LocateReply where
  unit : Nat
  state : StateName
  serving : Option Nat
  pending : Option Nat
  last : Option Nat
  cause : Option PresumeCause
  deadline : DeadlineReply
  retiredFor : Option Nat
  lastSeq : Nat
  burstOpen : Bool
  regroup : Regroup
  emergency : Option (Nat × Nat)
  lastHandover : Option (HandoverEnd × Nat)
  handover : Option HandoverReply
  groups : List Membership
  hearing : List HearingReply
deriving DecidableEq, Repr

/-- The content of a SITE-QUERY answer (R155). -/
structure SiteReply where
  site : Nat
  state : SiteStateName
  condition : Option Condition
  count : Nat
  capacity : Nat
  voice : Nat
  bias : Int
  hysteresis : Nat
  acceptIn : Bool
  releaseOut : Bool
  overFlag : Bool
  syncLost : Bool
  heartbeat : Option Nat
  channelsHeld : Nat
  queueLength : Nat
  neighbours : List Nat
deriving DecidableEq, Repr

/-- The content of a GROUP-QUERY answer (R156). -/
structure GroupReply where
  group : Nat
  priority : Priority
  recallState : RecallState
  unreached : Nat
  total : Nat
  activeCall : Option Nat
  fixed : List Nat
  counts : Table Nat
  carry : List Nat
deriving DecidableEq, Repr

/-- One map entry of a CALL-QUERY answer (R157). -/
inductive MapReply where
  | granted (site channel seconds : Nat)
  | queued (site place seconds : Nat)
  | busyOut (site : Nat)
deriving DecidableEq, Repr

/-- The content of a CALL-QUERY answer (R157). -/
structure CallReply where
  call : Nat
  group : Nat
  priority : Priority
  hang : Option Nat
  origin : Nat
  talker : Nat
  createdFor : Nat
  map : List MapReply
deriving DecidableEq, Repr

/-- The content of a BULK-STATUS answer (R172). -/
structure BulkReply where
  present : Nat
  waiting : Option BulkOp
  current : Option BulkRun
  last : Option (BulkAccount × Nat)
deriving DecidableEq, Repr

/-- The content of a PORT-STATUS answer (R163). -/
structure PortReply where
  phase : Phase
  partTime : Nat
  siteIn : Nat
  hold : Bool
  outbound : Nat
  requests : Nat
  answers : Nat
  notices : Nat
  overflow : Bool
  answerLost : Bool
deriving DecidableEq, Repr

/-- What an answer carries after its code. -/
inductive Content where
  | none
  | value (v : Nat)
  | locate (r : LocateReply)
  | site (r : SiteReply)
  | group (r : GroupReply)
  | call (r : CallReply)
  | bulk (r : BulkReply)
  | notice (left : Nat) (n : Notice)
  | port (r : PortReply)
deriving DecidableEq, Repr

/-- An answer: the request number and kind of its request, a code, and its content (R153). -/
structure Answer where
  number : Byte
  kind : Byte
  code : Code
  content : Content
deriving DecidableEq, Repr

/-! ### The machine -/

/-- The state of the part. -/
structure State where
  /-- CONFIG or SERVICE (section 10.8). -/
  phase : Phase
  /-- Part time, in tenths of a second (R187). -/
  partTime : Nat
  /-- The handover tag counter (R65). -/
  tagCounter : Nat
  /-- The global parameters (R188). -/
  params : Params
  /-- The Radio Table under its Directory: the records present, in ascending unit order (R1). -/
  radios : Table Radio
  /-- The Site Table: the configured sites (R88). -/
  sites : Table Site
  /-- The Group Table: the configured groups (R109). -/
  groups : Table Group
  /-- The Call Table (R128). -/
  calls : Table Call
  /-- The Bulk Engine's operation; absent when the engine is IDLE (R165). -/
  bulk : Option BulkRun
  /-- The waiting slot (R165). -/
  bulkWaiting : Option BulkOp
  /-- The last result, with the part time of the ending (R171). -/
  bulkLast : Option (BulkAccount × Nat)
  /-- The Site Port's receiver (R179). -/
  siteRx : Receiver
  /-- The Site Port inbound queue, oldest first (R182). -/
  siteIn : List SiteMsg
  /-- The Site Port outbound queue, head first (R183). -/
  outbound : List SiteOut
  /-- A frame that a RESTART found partly clocked out; it is outside the queue (R191; log entry 8). -/
  siteResidue : Option SiteOut
  /-- The model's view of the Site transmit data pin: the frame clocked out last, or the fill byte
  (log entry 7). -/
  siteSent : List Byte
  /-- The Dispatch Port's receiver (R179). -/
  dispatchRx : Receiver
  /-- The inbound request queue, oldest first (R150). -/
  requests : List RequestEntry
  /-- The answer queue, head first (R151). -/
  answers : List Answer
  /-- The model's view of the Dispatch transmit data pin: the frame clocked out last, or the fill byte
  (log entry 7). -/
  dispatchSent : List Byte
  /-- The notice queue, oldest first (R160). -/
  notices : List Notice
  /-- The notice overflow indication (R160). -/
  noticeOverflow : Bool
  /-- The answer-lost indication (R150). -/
  answerLost : Bool
  /-- The model's own field: the commands that wait, first in, first out (log entry 6). -/
  pending : List Instr
  /-- The model's own field: how many free choices have been made (log entry 3). -/
  choices : Nat
deriving DecidableEq, Repr

/-- The fill byte (R179). -/
def fillByte : Byte := 0x00#8

/-- The machine right after power-on reset (R190, and R25, R65, R108, R127, R149, R164, R178, R182 for each
block). -/
def State.reset : State :=
  { phase := .config, partTime := 0, tagCounter := 0, params := Params.default,
    radios := [], sites := [], groups := [], calls := [],
    bulk := none, bulkWaiting := none, bulkLast := none,
    siteRx := .hunting, siteIn := [], outbound := [], siteResidue := none, siteSent := [fillByte],
    dispatchRx := .hunting, requests := [], answers := [], dispatchSent := [fillByte],
    notices := [], noticeOverflow := false, answerLost := false,
    pending := [], choices := 0 }

end Sys2Proof.Machine
end

