-- ==== Sys2Proof/Machine/Table.lean ====
section
/-! DEFINITION. The operations of keyed tables: lookup, entry and removal in ascending order (R1). -/

namespace Sys2Proof.Machine

/-- The record numbered k, if the table holds one. -/
def tget {α : Type} : Table α → Nat → Option α
  | [], _ => none
  | (k', v) :: rest, k => if k = k' then some v else tget rest k

/-- Enter the record numbered k, or replace it, keeping the numbers ascending. -/
def tput {α : Type} : Table α → Nat → α → Table α
  | [], k, v => [(k, v)]
  | (k', v') :: rest, k, v =>
    if k < k' then (k, v) :: (k', v') :: rest
    else if k = k' then (k, v) :: rest
    else (k', v') :: tput rest k v

/-- Remove the record numbered k. -/
def tdel {α : Type} : Table α → Nat → Table α
  | [], _ => []
  | (k', v') :: rest, k => if k = k' then rest else (k', v') :: tdel rest k

/-- Change the record numbered k, where the table holds one. -/
def tmod {α : Type} (t : Table α) (k : Nat) (f : α → α) : Table α :=
  match tget t k with
  | some v => tput t k (f v)
  | none => t

/-- The numbers present. -/
def tkeys {α : Type} (t : Table α) : List Nat := t.map Prod.fst

/-- The lowest number above k (R1, R167). -/
def tnext {α : Type} : Table α → Nat → Option Nat
  | [], _ => none
  | (k', _) :: rest, k => if k < k' then some k' else tnext rest k

/-- The canonical form: numbers strictly rising. -/
abbrev Ascending {α : Type} (t : Table α) : Prop := (tkeys t).Pairwise (· < ·)

end Sys2Proof.Machine
end

