-- ==== Sys2Proof/WellFormed.lean ====
section
/-! DEFINITION. Well-formed commands: the ranges of "Numbers and identifiers". A command with an operand out
of range names no record of the part. -/

namespace Sys2Proof

/-- A unit number that may stand in the Directory (R1). -/
def wfUnit (u : Nat) : Bool := 1 ≤ u && u ≤ Config.maxUnit

/-- A site number (R88). -/
def wfSite (n : Nat) : Bool := 1 ≤ n && n ≤ Config.maxSite

/-- A group number (R109). -/
def wfGroup (g : Nat) : Bool := 1 ≤ g && g ≤ Config.maxGroup

/-- A call identifier (R128). -/
def wfCall (c : Nat) : Bool := 1 ≤ c && c ≤ Config.maxCalls

/-- Well-formed commands. Bytes are bytes by their type. -/
def Instr.wf : Instr → Bool
  | .settleExpiry u => wfUnit u
  | .handoverDeadlineExpiry u => wfUnit u
  | .leaseExpiry u => wfUnit u
  | .presumeHoldExpiry u => wfUnit u
  | .retireHoldExpiry u => wfUnit u
  | .heartbeatExpiry n => wfSite n
  | .hangExpiry c => wfCall c
  | .queueHoldExpiry n c => wfSite n && wfCall c
  | .siteFrameReceived _ | .dispatchFrameReceived _ | .outboundEntrySent | .answerSent | .powerOnReset
  | .reg | .heard | .emerg | .dereg | .ready | .quiesced | .decline | .siteStatus | .callRequest | .callEnd
  | .bulkStep | .rejectedRequest | .defineSite | .setSite | .setNeighbours | .undefineSite | .defineGroup
  | .setGroup | .undefineGroup | .setParameter | .openService | .restart _ | .locate | .siteQuery
  | .groupQuery | .callQuery | .bulkStatus | .nextNotice | .portStatus | .forceRelease | .clearEmergency
  | .clearLost | .setGroups | .clearRegroup | .forceEnd | .roster | .recallGroup | .cancelRecall | .evacuate
  | .resync | .purge | .bulkSuspend | .bulkResume | .bulkAbort => true

end Sys2Proof
end

