-- ==== Sys2Proof/Machine/Flags.lean ====
section
/-! DEFINITION. The lines and flags that follow from other state: the hold line, the notice-pending line, the
phase, site and queue conditions, and the over flag's rule. -/

namespace Sys2Proof.Machine

/-- The hold line: asserted while the inbound queue holds 128 frames (R182). -/
def holdLine (s : State) : Bool := decide (Config.maxSiteIn ≤ s.siteIn.length)

/-- The notice-pending line: asserted while the notice queue holds a notice (R161). -/
def noticePendingLine (s : State) : Bool := !s.notices.isEmpty

/-- Whether a site state is UP or DEGRADED. -/
def working : SiteState → Bool
  | .up _ => true
  | .degraded _ => true
  | .down => false
  | .dark => false

/-- Whether a site is configured and UP or DEGRADED. A directive to a DARK or DOWN site is not formed (R67,
R89, R93). -/
def siteWorks (s : State) (n : Nat) : Bool :=
  match tget s.sites n with
  | some x => working x.state
  | none => false

/-- The record of site n, where n is in range and configured (R88). -/
def findSite (s : State) (n : Nat) : Option Site := if wfSite n then tget s.sites n else none

/-- The record of group g, where g is in range and configured (R109). -/
def findGroup (s : State) (g : Nat) : Option Group := if wfGroup g then tget s.groups g else none

/-- The record of call c, where c is in range and a call holds it (R145). -/
def findCall (s : State) (c : Nat) : Option Call := if wfCall c then tget s.calls c else none

/-- The record of unit u, where u is in range and the Directory holds it (R158). -/
def findRadio (s : State) (u : Nat) : Option Radio := if wfUnit u then tget s.radios u else none

/-- Whether site n is in range and configured. -/
def siteConfigured (s : State) (n : Nat) : Bool := (findSite s n).isSome

/-- Whether group g is in range and configured. -/
def groupConfigured (s : State) (g : Nat) : Bool := (findGroup s g).isSome

/-- The name of a site state. -/
def siteStateName : SiteState → SiteStateName
  | .down => .down
  | .up _ => .up
  | .degraded _ => .degraded
  | .dark => .dark

/-- The name of a record state. -/
def stateName : RecordState → StateName
  | .joining => .joining
  | .registered _ _ => .registered
  | .moving _ _ _ _ => .moving
  | .presumed _ _ _ => .presumed
  | .lost _ => .lost
  | .retired _ _ _ => .retired

/-- Whether a record state is MOVING. -/
def isMoving : RecordState → Bool
  | .moving _ _ _ _ => true
  | _ => false

/-- The serving site of a record, in REGISTERED, MOVING and PRESUMED (R2). -/
def servingSite : RecordState → Option Nat
  | .registered a _ => some a
  | .moving a _ _ _ => some a
  | .presumed a _ _ => some a
  | _ => none

/-- The pending site of a record, in MOVING (R2). -/
def pendingSite : RecordState → Option Nat
  | .moving _ p _ _ => some p
  | _ => none

/-- The last site of a record, in LOST and RETIRED (R2). -/
def lastSite : RecordState → Option Nat
  | .lost n => some n
  | .retired n _ _ => some n
  | _ => none

/-- The sites at which a record adds to the counts: none outside the counted states (R5). -/
def countedSites (st : RecordState) : List Nat := (servingSite st).toList ++ (pendingSite st).toList

/-- Whether a RECALL of group g is running or suspended (R124). -/
def recallRunning (s : State) (g : Nat) : Bool :=
  match s.bulk with
  | some b => b.op == .recallGroup g
  | none => false

/-- Whether a RESYNC of site n is running or suspended (R176). -/
def resyncRunning (s : State) (n : Nat) : Bool :=
  match s.bulk with
  | some b => b.op == .resync n
  | none => false

/-- The over flag clears whenever an event leaves the count below the capacity (R98). -/
def clearOver (x : Site) : Site := if x.count < x.capacity then { x with overFlag := false } else x

/-- The rank of a priority. -/
def priorityRank : Priority → Nat
  | .routine => 0
  | .tactical => 1
  | .command => 2
  | .emergency => 3

/-- Whether the answer of a RESTART is still in the answer queue: no request is taken until it has left (R191).
Only a RESTART's answer has kind 1A hex and code DONE (DEDUCED, log entry 17). -/
def restartAnswerWaits (s : State) : Bool := s.answers.any fun a => a.kind == 0x1A#8 && a.code == .done

/-- Whether the Dispatch Port may take a request: room for its answer (R151), and no RESTART's answer left. -/
def canTakeRequest (s : State) : Bool :=
  decide (s.answers.length < Config.maxAnswers) && !restartAnswerWaits s

end Sys2Proof.Machine
end

