-- ==== Sys2Proof/Machine/Clock.lean ====
section
/-! DEFINITION. What time brings when no command waits: the deadlines that are due, the free choice among them, and the
tick of the Time Base (R187). -/

namespace Sys2Proof.Machine

/-- The deadlines of one record that part time has reached, as the commands they bring about. -/
def dueOfRadio (now : Nat) (p : Nat × Radio) : List Instr :=
  (match p.2.burst with
    | some b => if b.settle ≤ now then [.settleExpiry p.1] else []
    | none => []) ++
  (match p.2.state with
    | .registered _ lease => if lease ≤ now then [.leaseExpiry p.1] else []
    | .moving _ _ lease c =>
      (if c.deadline ≤ now then [.handoverDeadlineExpiry p.1] else []) ++
      (if lease ≤ now then [.leaseExpiry p.1] else [])
    | .presumed _ _ hold => if hold ≤ now then [.presumeHoldExpiry p.1] else []
    | .retired _ _ hold => if hold ≤ now then [.retireHoldExpiry p.1] else []
    | .joining => []
    | .lost _ => [])

/-- The heartbeat of one site, when part time has reached it. -/
def dueOfSite (now : Nat) (p : Nat × Site) : List Instr :=
  match p.2.state with
  | .up d => if d ≤ now then [.heartbeatExpiry p.1] else []
  | .degraded d => if d ≤ now then [.heartbeatExpiry p.1] else []
  | .down => []
  | .dark => []

/-- The hang deadline and the queue holds of one call that part time has reached. -/
def dueOfCall (now : Nat) (p : Nat × Call) : List Instr :=
  (match p.2.state with
    | .hang d => if d ≤ now then [.hangExpiry p.1] else []
    | .active => []) ++
  p.2.map.flatMap fun (q : Nat × CallStatus) =>
    match q.2 with
    | .queued _ hold => if hold ≤ now then [.queueHoldExpiry q.1 p.1] else []
    | _ => []

/-- Every deadline of the part that part time has reached. -/
def dueCommands (s : State) : List Instr :=
  s.radios.flatMap (dueOfRadio s.partTime) ++ s.sites.flatMap (dueOfSite s.partTime) ++
    s.calls.flatMap (dueOfCall s.partTime)

/-- The deadline that expires first: where several are due at one part time the manual lets any order occur, and which
is first is a free choice (log entry 3). -/
def chosenDue (s : State) : Option Instr :=
  match dueCommands s with
  | [] => none
  | [d] => some d
  | d :: rest => some ((d :: rest).getD (Config.firstTaken s.choices % (d :: rest).length) d)

/-- A free choice has been made. -/
def countChoice (s : State) : State := { s with choices := s.choices + 1 }

/-- Part time rises by one tenth of a second (R187). Past its largest value it is free (log entry 2). -/
def tick (s : State) : State :=
  if s.partTime + 1 < Config.timeSpan then { s with partTime := s.partTime + 1 }
  else { s with partTime := (Config.timeBeyond s.choices).toNat, choices := s.choices + 1 }

end Sys2Proof.Machine
end

