-- ==== Sys2Proof/Machine/Ops.lean ====
section
/-! DEFINITION. The named operations that every block shares: changing one record, the notice queue, the
outbound queue with its measures, the counts, and time. -/

namespace Sys2Proof.Machine

/-! ### Changing one record -/

/-- Enter or replace the record of unit u. -/
def putRadio (s : State) (u : Nat) (r : Radio) : State := { s with radios := tput s.radios u r }

/-- Remove the record of unit u and its place in the Directory. -/
def delRadio (s : State) (u : Nat) : State := { s with radios := tdel s.radios u }

/-- Change the record of unit u, where there is one. -/
def modRadio (s : State) (u : Nat) (f : Radio → Radio) : State := { s with radios := tmod s.radios u f }

/-- Change the record of site n, where it is configured. -/
def modSite (s : State) (n : Nat) (f : Site → Site) : State := { s with sites := tmod s.sites n f }

/-- Change the record of group g, where it is configured. -/
def modGroup (s : State) (g : Nat) (f : Group → Group) : State := { s with groups := tmod s.groups g f }

/-- Change the record of call c, where there is one. -/
def modCall (s : State) (c : Nat) (f : Call → Call) : State := { s with calls := tmod s.calls c f }

/-- Set the state of the record of unit u. -/
def setRecordState (s : State) (u : Nat) (st : RecordState) : State := modRadio s u fun r => { r with state := st }

/-! ### Time -/

/-- Seconds as tenths of a second. -/
def tenths (seconds : Nat) : Nat := seconds * 10

/-- Tenths as whole seconds, saturating at 65,535 ("Time" in the conventions, section 8.2). -/
def secondsOf (t : Nat) : Nat := min 65535 (t / 10)

/-- Seconds remaining to a deadline. -/
def remaining (s : State) (deadline : Nat) : Nat := secondsOf (deadline - s.partTime)

/-- Seconds elapsed since a time. -/
def elapsed (s : State) (since : Nat) : Nat := secondsOf (s.partTime - since)

/-- A count that saturates at 65,535 (section 9.1). -/
def bump16 (n : Nat) : Nat := min 65535 (n + 1)

/-! ### Notices (R160) -/

/-- Raise a notice: it enters the tail of the queue, or is dropped at a full queue with the overflow
indication set. -/
def raise (s : State) (body : NoticeBody) : State :=
  if s.notices.length < Config.maxNotices then
    { s with notices := s.notices ++ [{ time := s.partTime, body := body }] }
  else { s with noticeOverflow := true }

/-! ### The outbound queue (R183 to R185) -/

/-- The number of records in MOVING. -/
def movingCount (s : State) : Nat := s.radios.countP fun p => isMoving p.2.state

/-- The occupancy O. -/
def occupancy (s : State) : Nat := s.outbound.length

/-- The handover reserve W: two places for each handover in flight (R184). -/
def handoverReserve (s : State) : Nat := 2 * movingCount s

/-- Whether n more places are free beside the reserve: O + W + n ≤ 512 (R185). -/
def hasRoom (s : State) (n : Nat) : Bool := decide (occupancy s + handoverReserve s + n ≤ Config.maxOutbound)

/-- The measure for one ordinary directive (R185). -/
def hasOrdinaryRoom (s : State) : Bool := decide (occupancy s + 1 ≤ Config.ordinaryLimit) && hasRoom s 1

/-- Queue a frame at the tail of the outbound queue. -/
def pushOut (s : State) (f : SiteOut) : State := { s with outbound := s.outbound ++ [f] }

/-- Whether a frame is an ADOPT. -/
def isAdopt : SiteOut → Bool
  | .adopt _ _ _ => true
  | _ => false

/-- The sync-lost flag of site n is set, with SYNC-LOST where it was clear (R102). -/
def setSyncLost (s : State) (n : Nat) : State :=
  match tget s.sites n with
  | some x =>
    if x.syncLost then s else raise (modSite s n fun y => { y with syncLost := true }) (.syncLost n)
  | none => s

/-- The gap marker is set (R176). -/
def setGap (s : State) : State := { s with bulk := s.bulk.map fun b => { b with gap := true } }

/-- An ordinary directive for site n: not formed where n does not work (R89, R93; DEDUCED, log entry 12), queued where the ordinary
measure has room, and otherwise dropped with the site's sync-lost flag set (R102). A dropped ADOPT also sets
the gap marker of a RESYNC of n (R176). -/
def sendOrdinary (s : State) (n : Nat) (f : SiteOut) : State :=
  if siteWorks s n then
    if hasOrdinaryRoom s then pushOut s f
    else
      let s := if isAdopt f && resyncRunning s n then setGap s else s
      setSyncLost s n
  else s

/-- A handover directive for site n: not formed where n does not work, and otherwise queued in a place its
handover holds (R67, R184). -/
def sendHandover (s : State) (n : Nat) (f : SiteOut) : State := if siteWorks s n then pushOut s f else s

/-! ### Registration counts (R5, R97, R98) -/

/-- The registration count of site n rises by one. -/
def addReg (s : State) (n : Nat) : State := modSite s n fun x => { x with count := x.count + 1 }

/-- The registration count of site n falls by one; below the capacity the over flag clears. -/
def subReg (s : State) (n : Nat) : State := modSite s n fun x => clearOver { x with count := x.count - 1 }

/-- The over flag of site n is set, with SITE-OVER where it was clear (R98). -/
def setOver (s : State) (n : Nat) : State :=
  match tget s.sites n with
  | some x =>
    if x.overFlag then s
    else raise (modSite s n fun y => { y with overFlag := true }) (.siteOver n x.count x.capacity)
  | none => s

/-! ### Group member counts (R114) -/

/-- count[g][n]. -/
def memberCount (s : State) (g n : Nat) : Nat :=
  match tget s.groups g with
  | some x => (tget x.counts n).getD 0
  | none => 0

/-- Set one member count, keeping counts of 0 unlisted. -/
def setCount (counts : Table Nat) (n v : Nat) : Table Nat := if v = 0 then tdel counts n else tput counts n v

/-- count[g][n] rises by one. -/
def addMember (s : State) (g n : Nat) : State :=
  modGroup s g fun x => { x with counts := setCount x.counts n ((tget x.counts n).getD 0 + 1) }

/-- count[g][n] falls by one. -/
def subMember (s : State) (g n : Nat) : State :=
  modGroup s g fun x => { x with counts := setCount x.counts n ((tget x.counts n).getD 0 - 1) }

/-- The member total of g rises by one. -/
def addTotal (s : State) (g : Nat) : State := modGroup s g fun x => { x with total := x.total + 1 }

/-- The member total of g falls by one. -/
def subTotal (s : State) (g : Nat) : State := modGroup s g fun x => { x with total := x.total - 1 }

/-- Each listed group gains a member at site n. -/
def addMembers (s : State) (gs : List Nat) (n : Nat) : State := gs.foldl (fun s g => addMember s g n) s

/-- Each listed group loses a member at site n. -/
def subMembers (s : State) (gs : List Nat) (n : Nat) : State := gs.foldl (fun s g => subMember s g n) s

/-- The total of each listed group rises. -/
def addTotals (s : State) (gs : List Nat) : State := gs.foldl addTotal s

/-- The total of each listed group falls. -/
def subTotals (s : State) (gs : List Nat) : State := gs.foldl subTotal s

/-- The groups of a group list, without their flags. -/
def groupNumbers (l : List Membership) : List Nat := l.map Membership.group

/-- The passes that a gain of groups gs at site n causes: the groups whose count there rises from 0 (R116). -/
def risenAt (s : State) (gs : List Nat) (n : Nat) : List (Nat × Nat) :=
  (gs.filter fun g => memberCount s g n == 0).map fun g => (g, n)

/-! ### Unreached counts (R122, R124) -/

/-- The unreached count of g rises by one. -/
def raiseUnreached (s : State) (g : Nat) : State := modGroup s g fun x => { x with unreached := x.unreached + 1 }

/-- The unreached count of g falls by one; at 0, with the recall ACTIVE and no RECALL of g running or
suspended, RECALL-COMPLETE is raised (R124). -/
def lowerUnreached (s : State) (g : Nat) : State :=
  match tget s.groups g with
  | some x =>
    let s' := modGroup s g fun y => { y with unreached := y.unreached - 1 }
    if x.unreached = 1 ∧ x.recallState = .active ∧ recallRunning s g = false then raise s' (.recallComplete g)
    else s'
  | none => s

/-- Clear every recall-pending flag of the record of unit u, each clear lowering its group's count (R4, R20, R21, R44). The
groups are cleared in the order of the group list, and RECALL-COMPLETE notices of one such event stand in that order;
the manual gives none (DESIGN CHOICE, log entry 26). -/
def clearFlags (s : State) (u : Nat) : State :=
  match tget s.radios u with
  | some r =>
    let flagged := groupNumbers (r.groups.filter Membership.pending)
    flagged.foldl lowerUnreached (modRadio s u fun r => { r with groups := r.groups.map fun m => { m with pending := false } })
  | none => s

/-- Free the record of unit u (R4): its flags are cleared, and it ends with its open burst and its place in the
Directory. -/
def freeRecord (s : State) (u : Nat) : State := delRadio (clearFlags s u) u

end Sys2Proof.Machine
end

