-- ==== Sys2Proof/Machine/Calls.lean ====
section
/-! DEFINITION. The Channel Arbiter and the Call Table (chapter 7): grants, preemption, channel queues,
hand-on, late entry, creation and end of calls. -/

namespace Sys2Proof.Machine

/-! ### The pool and the queue of a site -/

/-- The status of call c at site n. -/
def callStatus (s : State) (c n : Nat) : Option CallStatus :=
  match tget s.calls c with
  | some x => tget x.map n
  | none => none

/-- Set the status of call c at site n. -/
def setStatus (s : State) (c n : Nat) (st : CallStatus) : State :=
  modCall s c fun x => { x with map := tput x.map n st }

/-- Take the status of call c at site n away. -/
def clearStatus (s : State) (c n : Nat) : State := modCall s c fun x => { x with map := tdel x.map n }

/-- The channel a status holds. -/
def heldChannel : Option CallStatus → Option Nat
  | some (.granted ch _) => some ch
  | _ => none

/-- The channels of site n that calls hold (R134). -/
def channelsHeld (s : State) (n : Nat) : List Nat := s.calls.filterMap fun (p : Nat × Call) => heldChannel (tget p.2.map n)

/-- The number of voice channels of site n. -/
def voiceChannels (s : State) (n : Nat) : Nat :=
  match tget s.sites n with
  | some x => x.voice
  | none => 0

/-- The lowest-numbered free channel of site n (R135). -/
def freeChannel (s : State) (n : Nat) : Option Nat :=
  ((List.range (voiceChannels s n)).map (· + 1)).find? fun ch => !(channelsHeld s n).contains ch

/-- The priority of call c. -/
def callPriority (s : State) (c : Nat) : Priority :=
  match tget s.calls c with
  | some x => x.priority
  | none => .routine

/-- The calls queued at site n, in the order they joined. -/
def joinedQueue (s : State) (n : Nat) : List Nat :=
  match tget s.sites n with
  | some x => x.queue
  | none => []

/-- The calls of a list that have a priority, in the list's order. -/
def ofPriority (s : State) (q : List Nat) (p : Priority) : List Nat := q.filter fun c => callPriority s c == p

/-- The channel queue of site n, head first: by priority, highest first, and among equal priorities the one that
joined earlier first (R137). -/
def channelQueue (s : State) (n : Nat) : List Nat :=
  let q := joinedQueue s n
  ofPriority s q .emergency ++ ofPriority s q .command ++ ofPriority s q .tactical ++ ofPriority s q .routine

/-- A call leaves the channel queue of site n. -/
def leaveQueue (s : State) (n c : Nat) : State := modSite s n fun x => { x with queue := x.queue.erase c }

/-- A call joins the channel queue of site n. -/
def joinQueue (s : State) (n c : Nat) : State := modSite s n fun x => { x with queue := x.queue ++ [c] }

/-! ### Arbitration (R135 to R137) -/

/-- A CALL-GRANT or CALL-DROP enters the outbound queue. Its caller has tested the room (R141, R185). -/
def grantChannel (s : State) (c n ch : Nat) : State :=
  let g := match tget s.calls c with | some x => x.group | none => 0
  pushOut (setStatus s c n (.granted ch s.partTime)) (.callGrant n c g ch)

/-- A candidate for preemption at a site. -/
structure Victim where
  call : Nat
  priority : Priority
  channel : Nat
  since : Nat
deriving DecidableEq, Repr

/-- The calls GRANTED at site n whose priority is below EMERGENCY. -/
def victims (s : State) (n : Nat) : List Victim :=
  s.calls.filterMap fun (p : Nat × Call) =>
    match tget p.2.map n with
    | some (.granted ch since) =>
      if p.2.priority = .emergency then none
      else some { call := p.1, priority := p.2.priority, channel := ch, since := since }
    | _ => none

/-- Whether a is preempted before b: lower priority, then later granted-at time, then higher channel (R136). -/
def preemptedBefore (a b : Victim) : Bool :=
  decide (priorityRank a.priority < priorityRank b.priority) ||
  (a.priority == b.priority &&
    (decide (b.since < a.since) || (a.since == b.since && decide (b.channel < a.channel))))

/-- The best of a list under an order that says when the first of two is preferred; the earlier stands on ties. -/
def bestOf {α : Type} (before : α → α → Bool) : List α → Option α
  | [] => none
  | a :: rest =>
    match bestOf before rest with
    | some b => if before b a then some b else some a
    | none => some a

/-- A call arbitrated at a site with no channel free is queued there, displaces the last entry, or is BUSY-OUT
(R137). -/
def queueCall (s : State) (c n : Nat) : State :=
  let queued := CallStatus.queued s.partTime (s.partTime + tenths s.params.queueHold)
  if (joinedQueue s n).length < Config.maxChannelQueue then setStatus (joinQueue s n c) c n queued
  else
    match (channelQueue s n).getLast? with
    | some last =>
      if priorityRank (callPriority s last) < priorityRank (callPriority s c) then
        setStatus (joinQueue (setStatus (leaveQueue s n last) last n .busyOut) n c) c n queued
      else setStatus s c n .busyOut
    | none => setStatus s c n .busyOut

/-- An EMERGENCY call with no channel free at a site preempts the victim, is BUSY-OUT for want of room, or is
queued (R136). -/
def preempt (s : State) (c n : Nat) : State :=
  match bestOf preemptedBefore (victims s n) with
  | some v =>
    if hasRoom s 2 then
      let vg := match tget s.calls v.call with | some x => x.group | none => 0
      let s1 := pushOut (setStatus s v.call n .busyOut) (.callDrop n v.call v.channel)
      raise (grantChannel s1 c n v.channel) (.callPreempted v.call vg n c)
    else setStatus s c n .busyOut
  | none => queueCall s c n

/-- A call is arbitrated at a site (R135). -/
def arbitrate (s : State) (c n : Nat) : State :=
  match freeChannel s n with
  | some ch => if hasRoom s 1 then grantChannel s c n ch else setStatus s c n .busyOut
  | none => if callPriority s c = .emergency then preempt s c n else queueCall s c n

/-! ### Late entry (R116, R142) -/

/-- A call is arbitrated at a site by late entry: where the site works and the call has no status there. -/
def lateEntry (s : State) (c n : Nat) : State :=
  if siteWorks s n && (callStatus s c n).isNone then arbitrate s c n else s

/-- A group and a site are passed to the Call Table: late entry of the group's call, where it has one. -/
def passToCalls (s : State) (p : Nat × Nat) : State :=
  match tget s.groups p.1 with
  | some g =>
    match g.activeCall with
    | some c => lateEntry s c p.2
    | none => s
  | none => s

/-- Passes in the order in which the counts rose. -/
def passAll (s : State) (ps : List (Nat × Nat)) : State := ps.foldl passToCalls s

/-! ### Freeing of channels and the end of a call (R140, R144) -/

/-- A freed channel is handed along a queue, head first: the first call whose CALL-GRANT has room is granted, and
a call that the outbound queue has no room for is BUSY-OUT. -/
def handOnTo (s : State) (n ch : Nat) : List Nat → State
  | [] => s
  | c :: rest =>
    let s1 := leaveQueue s n c
    if hasRoom s1 1 then grantChannel s1 c n ch else handOnTo (setStatus s1 c n .busyOut) n ch rest

/-- A freed channel of site n is handed on (R140). -/
def handOn (s : State) (n ch : Nat) : State := handOnTo s n ch (channelQueue s n)

/-- The call's queue entry at one site is removed (R144, step 1). -/
def dropQueued (c : Nat) (s : State) (p : Nat × CallStatus) : State :=
  match p.2 with
  | .queued _ _ => clearStatus (leaveQueue s p.1 c) c p.1
  | _ => s

/-- The call's channel at one site is dropped and handed on (R144, step 2). -/
def dropGranted (c : Nat) (s : State) (p : Nat × CallStatus) : State :=
  match p.2 with
  | .granted ch _ =>
    let s1 := if hasRoom s 1 && siteWorks s p.1 then pushOut s (.callDrop p.1 c ch) else s
    handOn (clearStatus s1 c p.1) p.1 ch
  | _ => s

/-- A call ends (R144). -/
def endCall (s : State) (c : Nat) : State :=
  match tget s.calls c with
  | some x =>
    let s1 := x.map.foldl (dropQueued c) s
    let s2 := x.map.foldl (dropGranted c) s1
    let s3 := modGroup s2 x.group fun g => { g with activeCall := none }
    { s3 with calls := tdel s3.calls c }
  | none => s

/-! ### Call set-up (R117, R128 to R133) -/

/-- The carry set of group g, in ascending site order: working sites that are fixed or have members (R117). -/
def carrySet (s : State) (g : Nat) : List Nat :=
  match tget s.groups g with
  | some x => (tkeys s.sites).filter fun n => siteWorks s n && (x.fixed.contains n || decide (0 < memberCount s g n))
  | none => []

/-- The carry set with the origin site added, in ascending site order (R131). -/
def carryWithOrigin (s : State) (g origin : Nat) : List Nat :=
  (tkeys s.sites).filter fun n => (carrySet s g).contains n || (n == origin && siteWorks s n)

/-- The lowest identifier that no call holds (R128). -/
def lowestFreeCall (s : State) : Nat :=
  (((List.range Config.maxCalls).map (· + 1)).find? fun c => (tget s.calls c).isNone).getD 0

/-- Whether the Directory holds unit u with its emergency active. -/
def unitInEmergency (s : State) (u : Nat) : Bool :=
  match tget s.radios u with
  | some r => r.emergency.isSome
  | none => false

/-- The priority a new call for group g requested by unit u would have (R129). -/
def requestPriority (s : State) (g u : Nat) : Priority :=
  if unitInEmergency s u then .emergency
  else match tget s.groups g with
    | some x => x.priority
    | none => .routine

/-- The number of sites at which call c is GRANTED. -/
def grantedCount (s : State) (c : Nat) : Nat :=
  match tget s.calls c with
  | some x => x.map.countP fun p => (heldChannel (some p.2)).isSome
  | none => 0

/-- A call is created and arbitrated at each site of its carry set, in ascending site order (R131). -/
def createCall (s : State) (origin g u : Nat) : State × Nat :=
  let c := lowestFreeCall s
  let call : Call :=
    { group := g, priority := requestPriority s g u, state := .active, origin := origin, talker := u, map := [],
      created := s.partTime }
  let s1 := modGroup { s with calls := tput s.calls c call } g fun x => { x with activeCall := some c }
  ((carryWithOrigin s g origin).foldl (fun s n => arbitrate s c n) s1, c)

/-- A request joins the group's call (R132). -/
def joinCall (s : State) (c origin u : Nat) : State :=
  let up := unitInEmergency s u
  let s1 := modCall s c fun x =>
    { x with talker := u, origin := origin, state := .active, priority := if up then .emergency else x.priority }
  lateEntry s1 c origin

/-- A candidate to be ended for want of a call record. -/
structure Endable where
  call : Nat
  priority : Priority
  created : Nat
deriving DecidableEq, Repr

/-- The calls below EMERGENCY (R133). -/
def endables (s : State) : List Endable :=
  s.calls.filterMap fun (p : Nat × Call) =>
    if p.2.priority = .emergency then none
    else some { call := p.1, priority := p.2.priority, created := p.2.created }

/-- Whether a is ended before b: lower priority, then earlier created, then lower identifier (R133). -/
def endedBefore (a b : Endable) : Bool :=
  decide (priorityRank a.priority < priorityRank b.priority) ||
  (a.priority == b.priority &&
    (decide (a.created < b.created) || (a.created == b.created && decide (a.call < b.call))))

/-- A call request that passed R130's admission tests is dealt with: JOIN, a new call, or table exhaustion. The
second part is the answer's code, identifier and granted count. -/
def dealCallRequest (s : State) (origin g u : Nat) : State × CallCode × Nat × Nat :=
  match (tget s.groups g).bind Group.activeCall with
  | some c =>
    let s1 := joinCall s c origin u
    (s1, .accepted, c, grantedCount s1 c)
  | none =>
    if s.calls.length < Config.maxCalls then
      let (s1, c) := createCall s origin g u
      (s1, .accepted, c, grantedCount s1 c)
    else if requestPriority s g u = .emergency then
      match bestOf endedBefore (endables s) with
      | some e =>
        let eg := match tget s.calls e.call with | some x => x.group | none => 0
        let s0 := endCall s e.call
        let s1 := raise s0 (.callPreempted e.call eg 0 (lowestFreeCall s0))
        let (s2, c) := createCall s1 origin g u
        (s2, .accepted, c, grantedCount s2 c)
      | none => (s, .refusedFull, 0, 0)
    else (s, .refusedFull, 0, 0)

/-! ### A darkened site's calls (R94) -/

/-- Every call loses its status at site n, and the channel queue of n is empty. -/
def loseSiteCalls (s : State) (n : Nat) : State :=
  modSite { s with calls := s.calls.map fun (p : Nat × Call) => (p.1, { p.2 with map := tdel p.2.map n }) } n
    fun x => { x with queue := [] }

end Sys2Proof.Machine
end

