-- ==== Sys2Proof/Machine/Groups.lean ====
section
/-! DEFINITION. Group lists (chapter 6): trimming, change of a record's list with its counts and flags, the
list a burst reports, and the flags that recall sweeps set and clear. -/

namespace Sys2Proof.Machine

/-- Keep the first occurrences of a list's items that pass a test, in order, up to a size (R106, R110, R118). -/
def keepFirst (ok : Nat → Bool) : Nat → List Nat → List Nat → List Nat
  | _, kept, [] => kept
  | size, kept, x :: rest =>
    if ok x && !kept.contains x && decide (kept.length < size) then keepFirst ok size (kept ++ [x]) rest
    else keepFirst ok size kept rest

/-- A group list trimmed: configured groups, each once, at most 4 (R118). -/
def trimGroups (s : State) (l : List Nat) : List Nat :=
  keepFirst (groupConfigured s) Config.maxMemberships [] l

/-- The recall state of group g. -/
def recallStateOf (s : State) (g : Nat) : RecallState :=
  match tget s.groups g with
  | some x => x.recallState
  | none => .off

/-- A membership is lost: its flag, the member counts at the record's sites and the total (R115). -/
def loseMembership (at_ : List Nat) (s : State) (m : Membership) : State :=
  let s1 := if m.pending then lowerUnreached s m.group else s
  let s2 := at_.foldl (fun s n => subMember s m.group n) s1
  if at_.isEmpty then s2 else subTotal s2 m.group

/-- A group is gained: its flag while its recall is ACTIVE, the member counts and the total (R115). -/
def gainMembership (at_ : List Nat) (s : State) (g : Nat) : State :=
  let s1 := if recallStateOf s g = .active then raiseUnreached s g else s
  let s2 := at_.foldl (fun s n => addMember s g n) s1
  if at_.isEmpty then s2 else addTotal s2 g

/-- The entry that group g has in the new list: the old entry where there is one, otherwise a new entry whose
flag is set while the group's recall is ACTIVE. -/
def newEntry (s : State) (old : List Membership) (g : Nat) : Membership :=
  match old.find? fun m => m.group == g with
  | some m => m
  | none => { group := g, pending := recallStateOf s g == .active }

/-- The group list of unit u is changed to a trimmed list (R115), and each count that rose from 0 is passed to
the Call Table (R116). -/
def changeGroupList (s : State) (u : Nat) (new : List Nat) : State :=
  match tget s.radios u with
  | some r =>
    let at_ := countedSites r.state
    let lost := r.groups.filter fun m => !new.contains m.group
    let gained := new.filter fun g => !(groupNumbers r.groups).contains g
    let passes := gained.flatMap fun g => (at_.filter fun n => memberCount s g n == 0).map fun n => (g, n)
    let s1 := lost.foldl (loseMembership at_) s
    let s2 := gained.foldl (gainMembership at_) s1
    let s3 := modRadio s2 u fun r' => { r' with groups := new.map (newEntry s r.groups) }
    passAll s3 passes
  | none => s

/-- A burst's reported list is applied according to the regroup state (R119). -/
def applyReported (s : State) (u : Nat) (reported : List Nat) : State :=
  match tget s.radios u with
  | some r =>
    let new := trimGroups s reported
    let equal := new == groupNumbers r.groups
    match r.regroup with
    | .none => if equal then s else changeGroupList s u new
    | .ordered => if equal then modRadio s u fun r => { r with regroup := .confirmed } else s
    | .confirmed =>
      if equal then s else modRadio (changeGroupList s u new) u fun r => { r with regroup := .none }
  | none => s

/-- Set or clear the flag of group g in a group list. -/
def setFlag (l : List Membership) (g : Nat) (v : Bool) : List Membership :=
  l.map fun m => if m.group = g then { m with pending := v } else m

/-- Whether a group list holds g with its flag at v. -/
def hasFlag (l : List Membership) (g : Nat) (v : Bool) : Bool := l.any fun m => m.group == g && m.pending == v

end Sys2Proof.Machine
end

