-- ==== Sys2Proof/Machine/Handover.lean ====
section
/-! DEFINITION. The Handover Controller (chapter 4): start, commit, unwinding, and the aborts from the record's
side. -/

namespace Sys2Proof.Machine

/-- The numbers of the groups in the list of unit u. -/
def groupsOf (s : State) (u : Nat) : List Nat :=
  match tget s.radios u with
  | some r => groupNumbers r.groups
  | none => []

/-- The next handover tag (R65). -/
def nextTag (t : Nat) : Nat := (t + 1) % 65536

/-- A handover starts for unit u, REGISTERED at a with the lease given, toward p, at time t (R66). -/
def startHandover (s : State) (u a lease p t : Nat) : State :=
  let gs := groupsOf s u
  let tag := s.tagCounter
  let ctx : Handover :=
    { tag := tag, readySeen := false, quiescedSeen := false, deadline := t + tenths s.params.handoverTimeout }
  let s1 := setRecordState { s with tagCounter := nextTag tag } u (.moving a p lease ctx)
  let passes := risenAt s1 gs p
  let s2 := addMembers (addReg s1 p) gs p
  let s3 := sendHandover (sendHandover s2 p (.prepare p u tag gs)) a (.quiesce a u tag)
  passAll s3 passes

/-- The counts of a record with groups gs are removed at site n (R5). -/
def removeCounts (s : State) (gs : List Nat) (n : Nat) : State := subMembers (subReg s n) gs n

/-- The handover of unit u from a to p commits (R72). -/
def commitHandover (s : State) (u a p lease tag : Nat) : State :=
  let gs := groupsOf s u
  let s1 := sendHandover (sendHandover s p (.commit p u tag)) a (.commit a u tag)
  let s2 := removeCounts s1 gs a
  modRadio s2 u fun r => { r with state := .registered p lease, lastHandover := some (.completed, p) }

/-- The handover of unit u from a to p is unwound with the outcome given (R75). -/
def unwindHandover (s : State) (u a p lease tag : Nat) (how : HandoverEnd) : State :=
  let gs := groupsOf s u
  let s1 := sendHandover (sendHandover s p (.cancel p u tag)) a (.cancel a u tag)
  let s2 := removeCounts s1 gs p
  let st := if siteWorks s2 a then RecordState.registered a lease
    else .presumed a .siteDark (s2.partTime + tenths s2.params.presumeHold)
  modRadio s2 u fun r => { r with state := st, lastHandover := some (how, p) }

/-- The handover of unit u from a to p is aborted by the expiry of its lease (R12, R80). -/
def abortByLease (s : State) (u a p tag : Nat) : State :=
  let gs := groupsOf s u
  let s1 := sendHandover (sendHandover s p (.cancel p u tag)) a (.cancel a u tag)
  let s2 := removeCounts s1 gs p
  modRadio s2 u fun r =>
    { r with state := .presumed a .lease (s2.partTime + tenths s2.params.presumeHold), lastHandover := some (.aborted, p) }

/-- The state RETIRED entered now with last site n (R20). -/
def retiredNow (s : State) (n : Nat) : RecordState :=
  .retired n s.partTime (s.partTime + tenths s.params.retireHold)

/-- The RETIRED record of unit u has its recall-pending flags cleared (R20). The counts of a record that was
counted at the sites `at_` are removed first. -/
def leaveCounted (s : State) (u : Nat) (at_ : List Nat) : State :=
  let gs := groupsOf s u
  let s1 := at_.foldl (fun s n => removeCounts s gs n) s
  let s2 := if at_.isEmpty then s1 else subTotals s1 gs
  clearFlags s2 u

/-- Whether the two flags of a handover are both set. -/
def bothSeen (c : Handover) : Bool := c.readySeen && c.quiescedSeen

/-- The handover of a MOVING record takes new flags, and commits when both are set (R70, R71, R78). -/
def seeFlags (s : State) (u a p lease : Nat) (c : Handover) : State :=
  if bothSeen c then commitHandover s u a p lease c.tag else setRecordState s u (.moving a p lease c)

end Sys2Proof.Machine
end

