-- ==== Sys2Proof/Machine/Selection.lean ====
section
/-! DEFINITION. The Site Selector (chapter 3): scores, the handover decision, adoption and the evacuation
choice. The Site Selector has no state of its own (R48). -/

namespace Sys2Proof.Machine

/-- The age a of a hearing entry at decision time t, where `inSet` is the closing burst's set of sites (R49). -/
def hearingAge (t : Nat) (inSet : List Nat) (h : Hearing) : Nat :=
  if inSet.contains h.site then 0 else secondsOf (t - h.heard)

/-- The age penalty A (R49). -/
def agePenalty (a d : Nat) : Nat := min 16 (a / d)

/-- The count n' used for a site: n at the record's serving site, n + 1 elsewhere (R50). -/
def placedCount (x : Site) (isServing : Bool) : Nat := if isServing then x.count else x.count + 1

/-- The occupancy o (R50). -/
def siteOccupancy (n' c : Nat) : Nat := min 16 (16 * n' / c)

/-- The load penalty L (R50). -/
def loadPenalty (o : Nat) : Nat := 2 * (o - 12)

/-- The degraded penalty G (R51). -/
def degradedPenalty : SiteState → Nat
  | .degraded _ => 8
  | _ => 0

/-- The raw score q + b − A − L − G (R51). -/
def rawScore (q : Nat) (b : Int) (ageP loadP degP : Nat) : Int := (q : Int) + b - ageP - loadP - degP

/-- The score: the raw score clamped to 0 to 63 (R51). -/
def clampScore (raw : Int) : Nat := min 63 raw.toNat

/-- The score of a hearing entry for site x at decision time t (R49 to R51). -/
def score (s : State) (t : Nat) (inSet : List Nat) (isServing : Bool) (x : Site) (h : Hearing) : Nat :=
  clampScore (rawScore h.quality x.bias (agePenalty (hearingAge t inSet h) s.params.ageDecay)
    (loadPenalty (siteOccupancy (placedCount x isServing) x.capacity)) (degradedPenalty x.state))

/-- Whether an entry is in backoff at decision time t (R53). -/
def inBackoff (t : Nat) (h : Hearing) : Bool :=
  match h.backoff with
  | some b => decide (t < b)
  | none => false

/-- A site with its score. -/
structure Scored where
  site : Nat
  score : Nat
deriving DecidableEq, Repr

/-- Whether an entry is an eligible handover target of a record served at a (R53). -/
def eligibleTarget (t a : Nat) (x : Site) (h : Hearing) : Bool :=
  h.site != a && working x.state && h.confirmed && !inBackoff t h && x.acceptIn && decide (x.count < x.capacity)

/-- The eligible handover targets of a record served at a, with their scores (R53). -/
def eligibleTargets (s : State) (t : Nat) (inSet : List Nat) (a : Nat) (l : List Hearing) : List Scored :=
  l.filterMap fun h =>
    match tget s.sites h.site with
    | some x =>
      if eligibleTarget t a x h then some { site := h.site, score := score s t inSet false x h } else none
    | none => none

/-- The higher score, and on a tie the lower site number (R54). -/
def betterTarget (a b : Scored) : Bool := decide (b.score < a.score) || (a.score == b.score && decide (a.site < b.site))

/-- The best target (R54). -/
def bestTarget (s : State) (t : Nat) (inSet : List Nat) (a : Nat) (l : List Hearing) : Option Scored :=
  bestOf betterTarget (eligibleTargets s t inSet a l)

/-- The serving score Ss of a record served at a, where a works and its entry is present (R52; DEDUCED, log entry 22). -/
def servingScore (s : State) (t : Nat) (inSet : List Nat) (a : Nat) (l : List Hearing) : Option Nat :=
  match tget s.sites a, l.find? fun h => h.site == a with
  | some x, some h => if working x.state then some (score s t inSet true x h) else none
  | _, _ => none

/-- The handover decision of a REGISTERED record served at a: the target to hand over to, or stay (R52 to R55). -/
def handoverDecision (s : State) (t : Nat) (inSet : List Nat) (a : Nat) (l : List Hearing) : Option Nat :=
  match servingScore s t inSet a l, bestTarget s t inSet a l, tget s.sites a with
  | some ss, some b, some x =>
    if ss + x.hysteresis ≤ b.score ∧ x.releaseOut = true ∧ hasRoom s 4 = true then some b.site else none
  | _, _, _ => none

/-- The evacuation choice for a record served at a, at part time (R62). -/
def evacuationChoice (s : State) (a : Nat) (l : List Hearing) : Option Nat :=
  (bestTarget s s.partTime [] a l).map Scored.site

/-! ### Adoption (R58 to R60) -/

/-- A candidate for adoption. -/
structure Candidate where
  site : Nat
  tier : Nat
  score : Nat
deriving DecidableEq, Repr

/-- The tier of a candidate with count n' (R59). -/
def adoptionTier (x : Site) (n' : Nat) : Option Nat :=
  if x.acceptIn = true ∧ n' ≤ x.capacity then some 1
  else if x.acceptIn = true ∧ n' ≤ Config.maxRegistrations then some 2
  else if n' ≤ Config.maxRegistrations then some 3
  else none

/-- The candidates of a record whose serving site, if it has one, is `serving` (R58, R59). -/
def candidates (s : State) (t : Nat) (inSet : List Nat) (serving : Option Nat) (l : List Hearing) : List Candidate :=
  l.filterMap fun h =>
    match tget s.sites h.site with
    | some x =>
      let isServing := serving == some h.site
      if working x.state && h.confirmed then
        (adoptionTier x (placedCount x isServing)).map fun tier =>
          { site := h.site, tier := tier, score := score s t inSet isServing x h }
      else none
    | none => none

/-- The lower tier, then the higher score, then the record's own site, then the lower site number (R60). -/
def betterCandidate (own : Option Nat) (a b : Candidate) : Bool :=
  decide (a.tier < b.tier) ||
  (a.tier == b.tier &&
    (decide (b.score < a.score) ||
      (a.score == b.score &&
        (own == some a.site || (own != some b.site && decide (a.site < b.site))))))

/-- The site that adoption chooses for a record, if any: `own` is the serving site of a PRESUMED record or the
last site of a LOST one (R60). -/
def adoptionChoice (s : State) (t : Nat) (inSet : List Nat) (st : RecordState) (l : List Hearing) : Option Nat :=
  let own := match st with
    | .presumed a _ _ => some a
    | .lost n => some n
    | _ => none
  (bestOf (betterCandidate own) (candidates s t inSet (servingSite st) l)).map Candidate.site

end Sys2Proof.Machine
end

