-- ==== Sys2Proof/Machine/Records.lean ====
section
/-! DEFINITION. Transitions of radio records (chapter 1) and the close of a burst (section 2.4): placement by
adoption, emergency, retirement, release, and the deadline expiries. -/

namespace Sys2Proof.Machine

/-- The lease running from time t. -/
def leaseFrom (s : State) (t : Nat) : Nat := t + tenths s.params.lease

/-- The presume hold running from part time. -/
def presumeFrom (s : State) : Nat := s.partTime + tenths s.params.presumeHold

/-! ### Adoption (R9, R15, R17, R61) -/

/-- The counts of a record with groups gs are added at site b, and the counts that rose from 0 are passed (R5,
R116) before the directives that follow (DEDUCED, log entry 11). -/
def addCounts (s : State) (gs : List Nat) (b : Nat) : State :=
  passAll (addMembers (addReg s b) gs b) (risenAt s gs b)

/-- Adoption of unit u at site b, where the record's serving site (of a PRESUMED record) is `from_` and its last
site makes it LOST when `wasLost` holds (R61). Lease from the close time t. -/
def adoptAt (s : State) (u b t : Nat) (from_ : Option Nat) (wasLost : Bool) : State :=
  let gs := groupsOf s u
  let atCapacity := match tget s.sites b with
    | some x => decide (x.capacity ≤ x.count)
    | none => false
  let lease := leaseFrom s t
  let s1 := setRecordState s u (.registered b lease)
  if from_ = some b then sendOrdinary s1 b (.adopt b u gs)
  else
    let s2 := match from_ with
      | some a => removeCounts s1 gs a
      | none => addTotals s1 gs
    let s3 := addCounts s2 gs b
    let s4 := if atCapacity then setOver s3 b else s3
    let s5 := match from_ with
      | some a => sendOrdinary s4 a (.drop a u)
      | none => s4
    let s6 := sendOrdinary s5 b (.adopt b u gs)
    if wasLost then raise s6 (.found u b) else s6

/-! ### Emergency (R23, R34) -/

/-- The emergency of unit u becomes active, if it was not, with the notice EMERGENCY (R23). -/
def activateEmergency (s : State) (u t site : Nat) : State :=
  match tget s.radios u with
  | some r =>
    if r.emergency.isSome then s
    else raise (modRadio s u fun r => { r with emergency := some { since := t, site := site } })
      (.emergency u site (stateName r.state))
  | none => s

/-! ### Burst close (R37, R38) -/

/-- Step 1 of a close: the lease of a REGISTERED or MOVING record (R10). -/
def renewLease (s : State) (u t : Nat) : State :=
  modRadio s u fun r => match r.state with
    | .registered a _ => { r with state := .registered a (leaseFrom s t) }
    | .moving a p _ c => { r with state := .moving a p (leaseFrom s t) c }
    | _ => r

/-- Step 4 of a close: site selection for the record's state (R48). -/
def selectSite (s : State) (u t : Nat) (inSet : List Nat) : State :=
  match tget s.radios u with
  | some r =>
    match r.state with
    | .registered a lease =>
      match handoverDecision s t inSet a r.hearing with
      | some p => startHandover s u a lease p t
      | none => s
    | .moving _ _ _ _ => s
    | .joining =>
      match adoptionChoice s t inSet r.state r.hearing with
      | some b => adoptAt s u b t none false
      | none => if r.emergency.isSome then s else freeRecord s u
    | .presumed a _ _ =>
      match adoptionChoice s t inSet r.state r.hearing with
      | some b => adoptAt s u b t (some a) false
      | none => s
    | .lost _ =>
      match adoptionChoice s t inSet r.state r.hearing with
      | some b => adoptAt s u b t none true
      | none => s
    | .retired _ _ _ => s
  | none => s

/-- Whether the record of unit u is REGISTERED. -/
def isRegistered (s : State) (u : Nat) : Bool :=
  match tget s.radios u with
  | some r => stateName r.state == .registered
  | none => false

/-- The close of a first-flagged burst tells an unchanged serving site again (R38). -/
def repeatAdopt (s : State) (u : Nat) : State :=
  match tget s.radios u with
  | some r =>
    match r.state with
    | .registered a _ => sendOrdinary s a (.adopt a u (groupNumbers r.groups))
    | _ => s
  | none => s

/-- The burst b of unit u closes at time t (R37). -/
def closeWork (s : State) (u t : Nat) (b : Burst) : State :=
  let s1 := renewLease s u t
  let s2 := match b.reported with
    | some l => applyReported s1 u l
    | none => s1
  let s3 := match b.emergency with
    | some site => activateEmergency s2 u t site
    | none => s2
  let s4 := selectSite s3 u t b.sites
  let s5 := if b.first && isRegistered s u && isRegistered s4 u then repeatAdopt s4 u else s4
  modRadio s5 u fun r => { r with burst := none, prev := some { seq := b.seq, sites := b.sites, openedAt := b.openedAt } }

/-- The open burst of unit u, if one is open, closes at time t. -/
def closeBurst (s : State) (u t : Nat) : State :=
  match (tget s.radios u).bind Radio.burst with
  | some b => closeWork s u t b
  | none => s

/-! ### Deadlines of a record (R11, R12, R16, R22) -/

/-- The lease of a REGISTERED record expires (R11). -/
def leaseToPresumed (s : State) (u a : Nat) : State := setRecordState s u (.presumed a .lease (presumeFrom s))

/-- The presume hold of unit u, PRESUMED at a, expires (R16). -/
def toLost (s : State) (u a : Nat) : State :=
  let gs := groupsOf s u
  let inEmergency := unitInEmergency s u
  let s1 := sendOrdinary s a (.drop a u)
  let s2 := subTotals (removeCounts s1 gs a) gs
  raise (setRecordState s2 u (.lost a)) (.lost u a inEmergency)

/-! ### Deregistration and release (R20, R21, R80) -/

/-- A DEREG acts on the record of unit u, whose emergency is inactive (R20). -/
def deregister (s : State) (u : Nat) : State :=
  match tget s.radios u with
  | some r =>
    match r.state with
    | .registered a _ => leaveCounted (setRecordState s u (retiredNow s a)) u [a]
    | .presumed a _ _ => leaveCounted (setRecordState s u (retiredNow s a)) u [a]
    | .moving a p _ c =>
      let s1 := sendHandover (sendHandover s p (.cancel p u c.tag)) a (.cancel a u c.tag)
      let s2 := modRadio s1 u fun r => { r with state := retiredNow s a, lastHandover := some (.aborted, p) }
      leaveCounted s2 u [a, p]
    | .lost n => leaveCounted (setRecordState s u (retiredNow s n)) u []
    | .joining => s
    | .retired _ _ _ => s
  | none => s

/-- FORCE-RELEASE of unit u (R21, R80). A handover gives up its two reserved places before the DROP is tested (DEDUCED, log
entry 10). -/
def forceRelease (s : State) (u : Nat) : State :=
  let s0 := modRadio s u fun r => { r with emergency := none, burst := none }
  match tget s.radios u with
  | some r =>
    match r.state with
    | .joining => freeRecord s0 u
    | .registered a _ =>
      leaveCounted (sendOrdinary (setRecordState s0 u (retiredNow s a)) a (.drop a u)) u [a]
    | .presumed a _ _ =>
      leaveCounted (sendOrdinary (setRecordState s0 u (retiredNow s a)) a (.drop a u)) u [a]
    | .moving a p _ c =>
      let s1 := sendHandover s0 p (.cancel p u c.tag)
      let s2 := modRadio s1 u fun r => { r with state := retiredNow s a, lastHandover := some (.aborted, p) }
      leaveCounted (sendOrdinary s2 a (.drop a u)) u [a, p]
    | .lost n => leaveCounted (setRecordState s0 u (retiredNow s n)) u []
    | .retired _ _ _ => s0
  | none => s

end Sys2Proof.Machine
end

