-- ==== Sys2Proof/Machine/Reports.lean ====
section
/-! DEFINITION. The Report Merger (chapter 2): sequence classes, the hearing list, bursts and their copies,
creation and revival, and receipts. -/

namespace Sys2Proof.Machine

/-! ### Sequence arithmetic (R28) -/

/-- The class of a copy. -/
inductive SeqClass where
  | newer
  | same
  | older
deriving DecidableEq, Repr

/-- The distance d = (r − p) mod 16. -/
def seqDistance (p r : Nat) : Nat := (r + 16 - p) % 16

/-- The class of a copy with sequence r against last sequence p. -/
def seqClass (p r : Nat) : SeqClass :=
  if seqDistance p r = 0 then .same else if seqDistance p r ≤ 8 then .newer else .older

/-- Whether a first-flagged copy at distance 0 belongs to the burst the record has or has just had (R28). -/
def firstIsSame (rec : Radio) (r : Nat) : Bool :=
  match rec.burst with
  | some b => b.first
  | none => match rec.prev with
    | some p => p.seq == r
    | none => false

/-- The class of a copy of a record that is not RETIRED; `first` holds for a REG with the first flag set. -/
def copyClass (rec : Radio) (r : Nat) (first : Bool) : SeqClass :=
  if first then (if seqDistance rec.lastSeq r = 0 ∧ firstIsSame rec r = true then .same else .newer)
  else seqClass rec.lastSeq r

/-! ### The hearing list (R39 to R42) -/

/-- Whether a new entry for site n is created unconfirmed (R41). -/
def startsUnconfirmed (s : State) (st : RecordState) (n : Nat) : Bool :=
  let checked := match st with
    | .registered _ _ => true
    | .moving _ _ _ _ => true
    | _ => false
  let neighbours := match (servingSite st).bind (tget s.sites) with
    | some x => x.neighbours
    | none => []
  checked && !(countedSites st).contains n && !neighbours.contains n

/-- Whether an entry for site n may be evicted: it is neither the serving nor the pending site's (R40). -/
def evictable (st : RecordState) (h : Hearing) : Bool := !(countedSites st).contains h.site

/-- Whether a is evicted before b: older, then the higher site number (R40). -/
def evictedBefore (a b : Hearing) : Bool := decide (a.heard < b.heard) || (a.heard == b.heard && decide (b.site < a.site))

/-- Room for a new entry is made in a full list (R40). -/
def makeRoom (st : RecordState) (l : List Hearing) : List Hearing :=
  if l.length < Config.maxHearing then l
  else match bestOf evictedBefore (l.filter (evictable st)) with
    | some h => l.filter fun x => x.site != h.site
    | none => l

/-- An entry enters before every entry whose heard time is equal to or older than its own (R39). -/
def insertHeard (e : Hearing) : List Hearing → List Hearing
  | [] => [e]
  | x :: rest => if x.heard ≤ e.heard then e :: x :: rest else x :: insertHeard e rest

/-- The hearing-list update for site n, with the opened-at time of the burst the copy belongs to (R39 to R42). -/
def updateHearing (s : State) (st : RecordState) (l : List Hearing) (n q heard openedAt : Nat) : List Hearing :=
  match l.find? fun h => h.site == n with
  | some old =>
    insertHeard { old with quality := q, heard := heard, confirmed := old.confirmed || decide (old.heard < openedAt) }
      (l.filter fun h => h.site != n)
  | none =>
    insertHeard { site := n, quality := q, heard := heard, confirmed := !startsUnconfirmed s st n, backoff := none }
      (makeRoom st l)

/-! ### Copies -/

/-- A copy of a burst: the fields of a REG, HEARD or EMERG report. `groups` is the list of a REG. -/
structure Copy where
  site : Nat
  unit : Nat
  seq : Nat
  quality : Nat
  first : Bool
  groups : Option (List Nat)
  emerg : Bool
deriving DecidableEq, Repr

/-- Whether the copy may create or revive a record: REG or EMERG (R29). -/
def createsRecord (c : Copy) : Bool := c.groups.isSome || c.emerg

/-- The burst that a copy opens (R30). -/
def openedBurst (s : State) (c : Copy) : Burst :=
  { seq := c.seq, emergency := if c.emerg then some c.site else none, first := c.first, reported := c.groups,
    openedAt := s.partTime, sites := [c.site], settle := s.partTime + s.params.settleTime }

/-- The record that a copy creates or revives, with its first burst open (R3). -/
def freshRecord (s : State) (c : Copy) : Radio :=
  { state := .joining, groups := [], regroup := .none, lastSeq := c.seq, burst := some (openedBurst s c), prev := none,
    hearing := [{ site := c.site, quality := c.quality, heard := s.partTime, confirmed := true, backoff := none }],
    lastHandover := none, emergency := none }

/-- A RETIRED record: its unit and retired-at time. -/
structure Retiree where
  unit : Nat
  retiredAt : Nat
deriving DecidableEq, Repr

/-- The RETIRED records. -/
def retirees (s : State) : List Retiree :=
  s.radios.filterMap fun (p : Nat × Radio) =>
    match p.2.state with
    | .retired _ at_ _ => some { unit := p.1, retiredAt := at_ }
    | _ => none

/-- Whether a is reclaimed before b: earlier retired-at time, then lower unit (R7). -/
def reclaimedBefore (a b : Retiree) : Bool :=
  decide (a.retiredAt < b.retiredAt) || (a.retiredAt == b.retiredAt && decide (a.unit < b.unit))

/-- A REG or EMERG copy for an absent unit (R6, R7). -/
def createRecord (s : State) (c : Copy) : State × ReceiptCode :=
  if s.radios.length < Config.maxRecords then (putRadio s c.unit (freshRecord s c), .taken)
  else match bestOf reclaimedBefore (retirees s) with
    | some r => (putRadio (freeRecord s r.unit) c.unit (freshRecord s c), .taken)
    | none => (s, .refusedFull)

/-- A copy for a unit absent from the Directory (R29). -/
def copyAbsent (s : State) (c : Copy) : State × ReceiptCode :=
  if createsRecord c then createRecord s c else (s, .unknown)

/-- A copy for a RETIRED record (R8, R29). -/
def copyRetired (s : State) (c : Copy) (rec : Radio) : State × ReceiptCode :=
  if createsRecord c then
    if c.first || seqClass rec.lastSeq c.seq == .newer then (putRadio s c.unit (freshRecord s c), .taken)
    else if seqClass rec.lastSeq c.seq = .same then (s, .duplicate)
    else (s, .stale)
  else (s, .unknown)

/-- A newer copy opens a burst on the record of its unit (R30). -/
def openBurst (s : State) (c : Copy) : State :=
  modRadio s c.unit fun r =>
    { r with lastSeq := c.seq, burst := some (openedBurst s c), prev := none,
             hearing := updateHearing s r.state r.hearing c.site c.quality s.partTime s.partTime }

/-- A copy merged into the open burst (R32). -/
def mergedBurst (b : Burst) (c : Copy) : Burst :=
  { b with sites := b.sites ++ [c.site],
           emergency := if c.emerg && b.emergency.isNone then some c.site else b.emergency,
           first := b.first || c.first,
           reported := if b.reported.isNone then c.groups else b.reported }

/-- A same-sequence copy while burst b is open (R32). -/
def copyOpen (s : State) (c : Copy) (b : Burst) : State × ReceiptCode :=
  if b.sites.contains c.site then (s, .duplicate)
  else
    (modRadio s c.unit fun r =>
      { r with burst := some (mergedBurst b c),
               hearing := updateHearing s r.state r.hearing c.site c.quality s.partTime b.openedAt }, .merged)

/-- A same-sequence copy with no burst open (R34). -/
def copyClosed (s : State) (c : Copy) (rec : Radio) : State × ReceiptCode :=
  match rec.prev with
  | some p =>
    if p.seq = c.seq ∧ p.sites.contains c.site = false then
      let s1 := modRadio s c.unit fun r =>
        { r with prev := some { p with sites := p.sites ++ [c.site] },
                 hearing := updateHearing s r.state r.hearing c.site c.quality p.openedAt p.openedAt }
      (if c.emerg then activateEmergency s1 c.unit s.partTime c.site else s1, .late)
    else (s, .duplicate)
  | none => (s, .duplicate)

/-- A newer copy: an open burst is closed first, at the copy's arrival (R30, R31). -/
def copyNewer (s : State) (c : Copy) : State × ReceiptCode :=
  let s1 := closeBurst s c.unit s.partTime
  match tget s1.radios c.unit with
  | some _ => (openBurst s1 c, .taken)
  | none => copyAbsent s1 c

/-- An admitted copy of kind REG, HEARD or EMERG (R29 to R35). -/
def takeCopy (s : State) (c : Copy) : State × ReceiptCode :=
  if c.unit = 0 then (s, .unknown)
  else match tget s.radios c.unit with
    | none => copyAbsent s c
    | some rec =>
      match rec.state with
      | .retired _ _ _ => copyRetired s c rec
      | _ =>
        match copyClass rec c.seq c.first with
        | .newer => copyNewer s c
        | .older => (s, .stale)
        | .same =>
          match rec.burst with
          | some b => copyOpen s c b
          | none => copyClosed s c rec

/-- A newer DEREG acts on the record that the close of its burst left (R36, R20). -/
def deregNewer (s : State) (u seq : Nat) : State × ReceiptCode :=
  let s1 := closeBurst s u s.partTime
  match tget s1.radios u with
  | some r =>
    let s2 := modRadio s1 u fun r => { r with lastSeq := seq }
    if r.emergency.isSome then (s2, .held) else (deregister s2 u, .taken)
  | none => (s1, .taken)

/-- An admitted DEREG (R29, R35, R36). -/
def takeDereg (s : State) (u seq : Nat) : State × ReceiptCode :=
  if u = 0 then (s, .unknown)
  else match tget s.radios u with
    | none => (s, .unknown)
    | some rec =>
      match seqClass rec.lastSeq seq with
      | .newer => deregNewer s u seq
      | .same => (s, .merged)
      | .older => (s, .stale)

/-! ### Admission and receipts (R26, R27, R43 to R45) -/

/-- What admission says of a message from site n: none when admitted, or the code of the refusal (R27). -/
def refusal (s : State) (n : Nat) : Option ReceiptCode :=
  if s.phase = .config then some .notReady
  else if siteConfigured s n = false then some .refusedSite
  else if siteWorks s n then none
  else some .notReady

/-- The groups whose recall-pending flag is set in the record of unit u (R44). -/
def recallInstruction (s : State) (u : Nat) : List Nat :=
  match tget s.radios u with
  | some r => groupNumbers (r.groups.filter Membership.pending)
  | none => []

/-- The regroup list for a copy's receipt (R45): `reported` is the list of a REG copy, absent for an EMERG. -/
def regroupList (s : State) (u : Nat) (reported : Option (List Nat)) : Option (List Nat) :=
  match tget s.radios u with
  | some r =>
    if r.regroup = .ordered then
      match reported with
      | some l => if trimGroups s l = groupNumbers r.groups then none else some (groupNumbers r.groups)
      | none => some (groupNumbers r.groups)
    else none
  | none => none

/-- Replace the frame that stands at a place of the outbound queue. -/
def setOut (s : State) (place : Nat) (f : SiteOut) : State := { s with outbound := s.outbound.set place f }

/-- An event that takes a frame whose answer enters the outbound queue ahead of every directive the event
causes: the answer's place is taken first, and its content is formed after the event's whole effect (R26, R43,
R130). The first argument forms the frame that holds the place meanwhile. -/
def withAnswer (s : State) (placeholder : SiteOut) (act : State → State × SiteOut) : State :=
  let (s1, f) := act (pushOut s placeholder)
  setOut s1 s.outbound.length f

/-- The receipt's optional parts are formed, and a recall instruction that is carried is delivered (R43 to R45). -/
def formReceipt (s : State) (site unit seq : Nat) (code : ReceiptCode) (carries : Bool)
    (reported : Option (List Nat)) : State × SiteOut :=
  if carries && (code == .taken || code == .merged) then
    let recalled := recallInstruction s unit
    let regroup := regroupList s unit reported
    (clearFlags s unit, .receipt site unit seq code recalled regroup)
  else (s, .receipt site unit seq code [] none)

/-- A REG, HEARD or EMERG report is taken: admitted or refused, worked, and answered by one receipt (R26). -/
def takeReport (s : State) (c : Copy) : State :=
  withAnswer s (.receipt c.site c.unit c.seq .notReady [] none) fun s0 =>
    match refusal s0 c.site with
    | some code => (s0, .receipt c.site c.unit c.seq code [] none)
    | none =>
      let (s1, code) := takeCopy s0 c
      formReceipt s1 c.site c.unit c.seq code (createsRecord c) c.groups

/-- A DEREG report is taken (R26, R36). -/
def takeDeregReport (s : State) (site u seq : Nat) : State :=
  withAnswer s (.receipt site u seq .notReady [] none) fun s0 =>
    match refusal s0 site with
    | some code => (s0, .receipt site u seq code [] none)
    | none =>
      let (s1, code) := takeDereg s0 u seq
      formReceipt s1 site u seq code false none

end Sys2Proof.Machine
end

