-- ==== Sys2Proof/Machine/Sites.lean ====
section
/-! DEFINITION. Site events (chapter 5): going dark, coming up, and SITE-STATUS. -/

namespace Sys2Proof.Machine

/-! ### Going dark (R92 to R94) -/

/-- Step 2 of a darkening of site n for the record of unit u (R13, R78, R79, R93). -/
def darkenRecord (n : Nat) (s : State) (u : Nat) : State :=
  match tget s.radios u with
  | some r =>
    match r.state with
    | .registered a _ => if a = n then setRecordState s u (.presumed a .siteDark (presumeFrom s)) else s
    | .moving a p lease c =>
      if a = n then seeFlags s u a p lease { c with quiescedSeen := true }
      else if p = n then unwindHandover s u a p lease c.tag .aborted
      else s
    | _ => s
  | none => s

/-- Site n goes DARK (R93). -/
def goDark (s : State) (n : Nat) (failing : Bool) : State :=
  let s1 := modSite s n fun x => { x with state := .dark }
  let s2 := (tkeys s1.radios).foldl (darkenRecord n) s1
  let s3 := loseSiteCalls s2 n
  let count := match tget s3.sites n with
    | some x => x.count
    | none => 0
  raise s3 (.siteDark n failing count)

/-! ### Coming up (R14, R95) -/

/-- Whether a record is PRESUMED with cause SITE-DARK at site n. -/
def awaitsSite (n : Nat) (r : Radio) : Bool :=
  match r.state with
  | .presumed a .siteDark _ => a == n
  | _ => false

/-- Step 2 of a coming up of site n for the record of unit u (R14). -/
def restoreRecord (n : Nat) (s : State) (u : Nat) : State :=
  match tget s.radios u with
  | some r =>
    if awaitsSite n r then
      sendOrdinary (setRecordState s u (.registered n (leaseFrom s s.partTime))) n (.adopt n u (groupNumbers r.groups))
    else s
  | none => s

/-- The state a working site takes from a condition, with the heartbeat deadline given (R91, R92). -/
def workingState (degraded : Bool) (deadline : Nat) : SiteState := if degraded then .degraded deadline else .up deadline

/-- The heartbeat deadline set now (R92). -/
def heartbeatFrom (s : State) : Nat := s.partTime + tenths s.params.heartbeatTimeout

/-- Site n comes up from DOWN or DARK (R95). -/
def comeUp (s : State) (n : Nat) (degraded wasDark : Bool) : State :=
  let s1 := modSite s n fun x => { x with state := workingState degraded (heartbeatFrom s) }
  let restored := if wasDark then s1.radios.countP fun (p : Nat × Radio) => awaitsSite n p.2 else 0
  let s2 := if wasDark then (tkeys s1.radios).foldl (restoreRecord n) s1 else s1
  raise s2 (.siteUp n (if degraded then .degraded else .up) restored)

/-! ### SITE-STATUS (R90, R91) -/

/-- The condition a SITE-STATUS carries, where it is one of the three. -/
def conditionOf : Nat → Option Condition
  | 1 => some .good
  | 2 => some .strained
  | 3 => some .failing
  | _ => none

/-- An admitted SITE-STATUS acts on the site's state (R91). -/
def statusActs (s : State) (n : Nat) (st : SiteState) (c : Condition) : State :=
  match c, st with
  | .failing, .down => s
  | .failing, .dark => s
  | .failing, .up _ => goDark s n true
  | .failing, .degraded _ => goDark s n true
  | .good, .down => comeUp s n false false
  | .good, .dark => comeUp s n false true
  | .good, .up _ => modSite s n fun x => { x with state := .up (heartbeatFrom s) }
  | .good, .degraded _ => modSite s n fun x => { x with state := .up (heartbeatFrom s) }
  | .strained, .down => comeUp s n true false
  | .strained, .dark => comeUp s n true true
  | .strained, .up _ => modSite s n fun x => { x with state := .degraded (heartbeatFrom s) }
  | .strained, .degraded _ => modSite s n fun x => { x with state := .degraded (heartbeatFrom s) }

/-- A SITE-STATUS from site n is taken (R90, R91). -/
def takeStatus (s : State) (n condition : Nat) : State :=
  if s.phase = .config then s
  else match findSite s n, conditionOf condition with
    | some x, some c => statusActs (modSite s n fun y => { y with condition := some c }) n x.state c
    | _, _ => s

/-! ### Handover answers (R68 to R74) -/

/-- Whether a message from site n is admitted: SERVICE phase, and a configured site that is UP or DEGRADED. -/
def admits (s : State) (n : Nat) : Bool := (refusal s n).isNone

/-- The handover of unit u that an answer with a tag matches (R69): its from site, to site, lease and context. -/
def matching (s : State) (u tag : Nat) : Option (Nat × Nat × Nat × Handover) :=
  match tget s.radios u with
  | some r =>
    match r.state with
    | .moving a p lease c => if c.tag = tag then some (a, p, lease, c) else none
    | _ => none
  | none => none

/-- A READY from site n is taken (R70, R74). -/
def takeReady (s : State) (n u tag : Nat) : State :=
  if admits s n then
    match matching s u tag with
    | some (a, p, lease, c) =>
      if n = p then seeFlags s u a p lease { c with readySeen := true } else pushOut s (.cancel n u tag)
    | none => pushOut s (.cancel n u tag)
  else s

/-- A QUIESCED from site n is taken (R71, R74). -/
def takeQuiesced (s : State) (n u tag : Nat) : State :=
  if admits s n then
    match matching s u tag with
    | some (a, p, lease, c) => if n = a then seeFlags s u a p lease { c with quiescedSeen := true } else s
    | none => s
  else s

/-- The hearing entry for site p is put in backoff (R73). -/
def setBackoff (s : State) (u p : Nat) : State :=
  modRadio s u fun r =>
    { r with hearing := r.hearing.map fun h =>
        if h.site = p then { h with backoff := some (s.partTime + tenths s.params.declineBackoff) } else h }

/-- A DECLINE from site n is taken (R73, R74). -/
def takeDecline (s : State) (n u tag : Nat) : State :=
  if admits s n then
    match matching s u tag with
    | some (a, p, lease, c) => if n = p then unwindHandover (setBackoff s u p) u a p lease c.tag .declined else s
    | none => s
  else s

/-! ### Calls from sites (R130, R143) -/

/-- A CALL-REQUEST from site n is taken (R130). -/
def takeCallRequest (s : State) (n g u : Nat) : State :=
  withAnswer s (.callAnswer n .notReady 0 0) fun s0 =>
    if s0.phase = .config then (s0, .callAnswer n .notReady 0 0)
    else if siteConfigured s0 n = false then (s0, .callAnswer n .refusedSite 0 0)
    else if siteWorks s0 n = false then (s0, .callAnswer n .notReady 0 0)
    else if groupConfigured s0 g = false then (s0, .callAnswer n .noSuch 0 0)
    else
      let (s1, code, c, granted) := dealCallRequest s0 n g u
      (s1, .callAnswer n code c granted)

/-- Whether a CALL-END from site n acts on a call: the call is ACTIVE, and n is its origin or a site where it is
GRANTED (R130). -/
def callEndActs (x : Call) (n : Nat) : Bool :=
  x.state == .active && (x.origin == n || (heldChannel (tget x.map n)).isSome)

/-- A CALL-END from site n is taken (R130, R143). -/
def takeCallEnd (s : State) (n c : Nat) : State :=
  if admits s n then
    match findCall s c with
    | some x =>
      if callEndActs x n then
        if s.params.callHang = 0 then endCall s c
        else modCall s c fun x => { x with state := .hang (s.partTime + tenths s.params.callHang) }
      else s
    | none => s
  else s

end Sys2Proof.Machine
end

