-- ==== Sys2Proof/Machine/Bulk.lean ====
section
/-! DEFINITION. The Bulk Engine (chapter 9): start, the steps of a sweep with each kind's visit action, ending,
and the waiting slot. -/

namespace Sys2Proof.Machine

/-- Counters at 0. -/
def noCounters : Counters := { c1 := 0, c2 := 0, c3 := 0, c4 := 0 }

/-- The cursor at which an operation starts (R166, R173). -/
def startCursor : BulkOp → Nat
  | .roster _ start _ => start
  | _ => 0

/-- The start effects of a kind (R174, R175). -/
def startEffects (s : State) : BulkOp → State
  | .recallGroup g => modGroup s g fun x => { x with recallState := .active }
  | .cancelRecall g => modGroup s g fun x => { x with recallState := .cancelling }
  | .evacuate n => modSite s n fun x => { x with acceptIn := false }
  | .roster _ _ _ => s
  | .resync _ => s
  | .purge => s

/-- An operation as it starts (R166). -/
def freshRun (op : BulkOp) : BulkRun :=
  { op := op, suspended := false, cursor := startCursor op, visited := 0, counters := noCounters, page := [],
    more := false, roomWait := false, gap := false }

/-- An operation starts (R166). -/
def startBulk (s : State) (op : BulkOp) : State := startEffects { s with bulk := some (freshRun op) } op

/-- The account of an operation (R171). -/
def accountOf (b : BulkRun) (completed : Bool) : BulkAccount :=
  { op := b.op, completed := completed, visited := b.visited, counters := b.counters }

/-- The roster result that BULK-DONE carries; an aborted ROSTER reports its more flag clear (R173). -/
def rosterResult (b : BulkRun) (completed : Bool) : Option (Bool × Nat × List RosterEntry) :=
  match b.op with
  | .roster _ _ limit => some (completed && b.more, limit - b.page.length, b.page)
  | _ => none

/-- The completion work of a kind (R171 step 1, R174, R176). -/
def completionWork (s : State) (b : BulkRun) : State :=
  match b.op with
  | .recallGroup g =>
    match tget s.groups g with
    | some x => if x.unreached = 0 then raise s (.recallComplete g) else s
    | none => s
  | .cancelRecall g => modGroup s g fun x => { x with recallState := .off }
  | .resync n => if b.gap then s else modSite s n fun x => { x with syncLost := false }
  | .roster _ _ _ => s
  | .evacuate _ => s
  | .purge => s

/-- The waiting request, if there is one, starts (R171 step 5). -/
def startWaiting (s : State) : State :=
  match s.bulkWaiting with
  | some op => startBulk { s with bulkWaiting := none } op
  | none => s

/-- Operation b ends by completion or by abort (R171). -/
def endBulk (s : State) (b : BulkRun) (completed : Bool) : State :=
  let s1 := if completed then completionWork s b else s
  let s2 := raise s1 (.bulkDone (accountOf b completed) (rosterResult b completed))
  startWaiting { s2 with bulkLast := some (accountOf b completed, s2.partTime), bulk := none }

/-! ### Visits -/

/-- Whether a record matches a ROSTER filter (R173). -/
def rosterMatch (f : RosterFilter) (r : Radio) : Bool :=
  match f with
  | .site n => servingSite r.state == some n
  | .group g => (groupNumbers r.groups).contains g
  | .cls (.inState n) => stateName r.state == n
  | .cls .counted => (servingSite r.state).isSome
  | .cls .emergency => r.emergency.isSome
  | .cls .all => true

/-- A record as a roster entry (R173). -/
def rosterEntry (u : Nat) (r : Radio) : RosterEntry :=
  { unit := u, state := stateName r.state, site := ((servingSite r.state).or (lastSite r.state)).getD 0,
    emergency := r.emergency.isSome }

/-- Change the operation in hand. -/
def modBulk (s : State) (f : BulkRun → BulkRun) : State := { s with bulk := s.bulk.map f }

/-- Raise the first result counter. -/
def count1 (b : BulkRun) : BulkRun := { b with counters := { b.counters with c1 := bump16 b.counters.c1 } }

/-- Raise the second result counter. -/
def count2 (b : BulkRun) : BulkRun := { b with counters := { b.counters with c2 := bump16 b.counters.c2 } }

/-- Raise the third result counter. -/
def count3 (b : BulkRun) : BulkRun := { b with counters := { b.counters with c3 := bump16 b.counters.c3 } }

/-- Raise the fourth result counter. -/
def count4 (b : BulkRun) : BulkRun := { b with counters := { b.counters with c4 := bump16 b.counters.c4 } }

/-- A ROSTER visit of unit u (R173). -/
def visitRoster (s : State) (f : RosterFilter) (limit : Nat) (u : Nat) (r : Radio) : State :=
  if rosterMatch f r then
    if limit = 0 then modBulk s count2
    else match s.bulk with
      | some b =>
        if b.page.length < limit then modBulk s fun b => count1 { b with page := b.page ++ [rosterEntry u r] }
        else
          let b' := { b with more := true }
          endBulk { s with bulk := some b' } b' true
      | none => s
  else s

/-- Whether a RECALL visit may flag a record: REGISTERED, MOVING, PRESUMED or LOST (R123). -/
def recallVisits (st : RecordState) : Bool :=
  match st with
  | .registered _ _ => true
  | .moving _ _ _ _ => true
  | .presumed _ _ _ => true
  | .lost _ => true
  | .joining => false
  | .retired _ _ _ => false

/-- A RECALL visit (R123, R174). -/
def visitRecall (s : State) (g u : Nat) (r : Radio) : State :=
  if recallVisits r.state && hasFlag r.groups g false then
    modBulk (raiseUnreached (modRadio s u fun r => { r with groups := setFlag r.groups g true }) g) count1
  else s

/-- A CANCEL-RECALL visit (R125, R174). -/
def visitCancel (s : State) (g u : Nat) (r : Radio) : State :=
  if hasFlag r.groups g true then
    modBulk (lowerUnreached (modRadio s u fun r => { r with groups := setFlag r.groups g false }) g) count1
  else s

/-- An EVACUATE visit (R175). -/
def visitEvacuate (s : State) (n u : Nat) (r : Radio) : State :=
  match r.state with
  | .registered a lease =>
    if a = n then
      match evacuationChoice s a r.hearing with
      | some p => if hasRoom s 4 then modBulk (startHandover s u a lease p s.partTime) count1 else modBulk s count2
      | none => modBulk s count3
    else s
  | .moving a p _ _ => if a = n ∨ p = n then modBulk s count4 else s
  | _ => s

/-- The ADOPT of a RESYNC visit (R176). -/
def resyncAdopt (s : State) (n u : Nat) (r : Radio) : State :=
  if siteWorks s n then modBulk (pushOut s (.adopt n u (groupNumbers r.groups))) count1
  else modBulk s fun b => count2 { b with gap := true }

/-- A RESYNC visit (R176). -/
def visitResync (s : State) (n u : Nat) (r : Radio) : State :=
  match r.state with
  | .registered a _ => if a = n then resyncAdopt s n u r else s
  | .presumed a _ _ => if a = n then resyncAdopt s n u r else s
  | .moving a p _ _ => if a = n ∨ p = n then modBulk s count3 else s
  | _ => s

/-- A PURGE visit (R177). -/
def visitPurge (s : State) (u : Nat) (r : Radio) : State :=
  match r.state with
  | .retired _ _ _ => modBulk (freeRecord s u) count1
  | _ => s

/-- The visit action of an operation on the record r of unit u. -/
def visit (s : State) (op : BulkOp) (u : Nat) (r : Radio) : State :=
  match op with
  | .roster f _ limit => visitRoster s f limit u r
  | .recallGroup g => visitRecall s g u r
  | .cancelRecall g => visitCancel s g u r
  | .evacuate n => visitEvacuate s n u r
  | .resync n => visitResync s n u r
  | .purge => visitPurge s u r

/-! ### The step (R167) -/

/-- Whether an operation is a RESYNC. -/
def isResync : BulkOp → Bool
  | .resync _ => true
  | _ => false

/-- One step of operation b, which is RUNNING and has the room it needs (R167). -/
def advance (s : State) (b : BulkRun) : State :=
  let b0 := { b with roomWait := false }
  match tnext s.radios b.cursor with
  | some u =>
    let b1 := { b0 with cursor := u, visited := bump16 b.visited }
    let s1 := { s with bulk := some b1 }
    match tget s.radios u with
    | some r => visit s1 b.op u r
    | none => s1
  | none => endBulk { s with bulk := some b0 } b0 true

/-- The Bulk Engine takes a step while RUNNING; a RESYNC's step is held, with the room wait set, until the
outbound queue has room for one ordinary directive (R167, R176). The room wait becomes set at the attempt that finds no room,
not at the moment the room is lost (DESIGN CHOICE, log entry 29). -/
def stepBulk (s : State) : State :=
  match s.bulk with
  | some b =>
    if b.suspended then s
    else if isResync b.op && !hasOrdinaryRoom s then modBulk s fun b => { b with roomWait := true }
    else advance s b
  | none => s

/-! ### Admission and control (R166, R169, R170) -/

/-- A bulk request whose parameters passed their tests meets the engine's state (R166). -/
def admitBulk (s : State) (op : BulkOp) (wait clamped : Bool) : State × Code :=
  match s.bulk with
  | none => (startBulk s op, if clamped then .doneClamped else .done)
  | some _ => if wait && s.bulkWaiting.isNone then ({ s with bulkWaiting := some op }, .doneWaiting) else (s, .busy)

/-- The class a ROSTER's filter value names (section 10.2). -/
def classOf : Nat → Option RosterClass
  | 1 => some (.inState .joining)
  | 2 => some (.inState .registered)
  | 3 => some (.inState .moving)
  | 4 => some (.inState .presumed)
  | 5 => some (.inState .lost)
  | 6 => some (.inState .retired)
  | 7 => some .counted
  | 8 => some .emergency
  | 9 => some .all
  | _ => none

/-- The filter a ROSTER's form and value name, where it exists (R173). -/
def filterOf (s : State) (form value : Nat) : Option RosterFilter :=
  match form with
  | 1 => if siteConfigured s value then some (.site value) else none
  | 2 => if groupConfigured s value then some (.group value) else none
  | 3 => (classOf value).map .cls
  | _ => none

end Sys2Proof.Machine
end

