-- ==== Sys2Proof/Machine/DeadlineCommands.lean ====
section
/-! DEFINITION. The commands that a deadline brings about, and the Bulk Engine's step. A deadline expires when
part time reaches it (R187): before that, or where no such deadline runs, the command does not come about and the
state stays as it is (DESIGN CHOICE, log entry 4). The time of an expiry is part time (DEDUCED, log entry 21). -/

namespace Sys2Proof.Machine

open Host (Outcome)

/-- The settle deadline of the open burst of unit u: the close time is the deadline (R33). -/
def execSettleExpiry (u : Nat) (s : State) : Outcome State Fault Refusal :=
  match (tget s.radios u).bind Radio.burst with
  | some b => if b.settle ≤ s.partTime then .next (closeWork s u b.settle b) else .next s
  | none => .next s

/-- The handover deadline of unit u (R77). -/
def execHandoverDeadlineExpiry (u : Nat) (s : State) : Outcome State Fault Refusal :=
  match (tget s.radios u).map Radio.state with
  | some (.moving a p lease c) =>
    if c.deadline ≤ s.partTime then .next (unwindHandover s u a p lease c.tag .timedOut) else .next s
  | _ => .next s

/-- The lease of unit u (R11, R12). -/
def execLeaseExpiry (u : Nat) (s : State) : Outcome State Fault Refusal :=
  match (tget s.radios u).map Radio.state with
  | some (.registered a lease) => if lease ≤ s.partTime then .next (leaseToPresumed s u a) else .next s
  | some (.moving a p lease c) => if lease ≤ s.partTime then .next (abortByLease s u a p c.tag) else .next s
  | _ => .next s

/-- The presume hold of unit u (R16). -/
def execPresumeHoldExpiry (u : Nat) (s : State) : Outcome State Fault Refusal :=
  match (tget s.radios u).map Radio.state with
  | some (.presumed a _ hold) => if hold ≤ s.partTime then .next (toLost s u a) else .next s
  | _ => .next s

/-- The retire hold of unit u (R22). -/
def execRetireHoldExpiry (u : Nat) (s : State) : Outcome State Fault Refusal :=
  match (tget s.radios u).map Radio.state with
  | some (.retired _ _ hold) => if hold ≤ s.partTime then .next (freeRecord s u) else .next s
  | _ => .next s

/-- The heartbeat deadline of site n (R92). -/
def execHeartbeatExpiry (n : Nat) (s : State) : Outcome State Fault Refusal :=
  match (tget s.sites n).map Site.state with
  | some (.up d) => if d ≤ s.partTime then .next (goDark s n false) else .next s
  | some (.degraded d) => if d ≤ s.partTime then .next (goDark s n false) else .next s
  | _ => .next s

/-- The hang deadline of call c (R143). -/
def execHangExpiry (c : Nat) (s : State) : Outcome State Fault Refusal :=
  match (tget s.calls c).map Call.state with
  | some (.hang d) => if d ≤ s.partTime then .next (endCall s c) else .next s
  | _ => .next s

/-- The queue-hold deadline of call c at site n (R138). -/
def execQueueHoldExpiry (n c : Nat) (s : State) : Outcome State Fault Refusal :=
  match callStatus s c n with
  | some (.queued _ hold) =>
    if hold ≤ s.partTime then .next (setStatus (leaveQueue s n c) c n .busyOut) else .next s
  | _ => .next s

/-- The Bulk Engine takes one step (R167). -/
def execBulkStep (s : State) : Outcome State Fault Refusal := .next (stepBulk s)

end Sys2Proof.Machine
end

