-- ==== Sys2Proof/Machine/Frames.lean ====
section
/-! DEFINITION. Frames (sections 10.1 and 10.2): the receiver and the frame check, the reading of site frames
and of dispatch requests, and the layouts of the frames that the part sends. -/

namespace Sys2Proof.Machine

/-! ### Numbers in frames: multi-byte numbers are sent high byte first -/

/-- One byte holding n. -/
def byte (n : Nat) : Byte := BitVec.ofNat 8 n

/-- Two bytes holding n. -/
def be16 (n : Nat) : List Byte := [byte (n / 256), byte n]

/-- Three bytes holding n. -/
def be24 (n : Nat) : List Byte := [byte (n / 65536), byte (n / 256), byte n]

/-- Four bytes holding n. -/
def be32 (n : Nat) : List Byte := [byte (n / 16777216), byte (n / 65536), byte (n / 256), byte n]

/-- The number two bytes hold. -/
def num16 (a b : Byte) : Nat := a.toNat * 256 + b.toNat

/-- The number three bytes hold. -/
def num24 (a b c : Byte) : Nat := a.toNat * 65536 + b.toNat * 256 + c.toNat

/-- A flag as a byte. -/
def flagByte (b : Bool) : Byte := if b then 1#8 else 0#8

/-! ### The frame check (R180) -/

/-- One bit fed to the check register: generator x^16 + x^12 + x^5 + 1. -/
def crcBit (reg : BitVec 16) (b : Bool) : BitVec 16 :=
  if reg.msb != b then (reg <<< 1) ^^^ 0x1021#16 else reg <<< 1

/-- One byte fed to the check register, most significant bit first. -/
def crcByte (reg : BitVec 16) (b : Byte) : BitVec 16 :=
  [7, 6, 5, 4, 3, 2, 1, 0].foldl (fun r i => crcBit r (b.getLsbD i)) reg

/-- The frame check over the length, kind and body bytes, from FFFF hex, with no final inversion. -/
def crc (bytes : List Byte) : BitVec 16 := bytes.foldl crcByte 0xFFFF#16

/-- The check as sent, high byte first. -/
def checkBytes (bytes : List Byte) : List Byte :=
  [(crc bytes).extractLsb' 8 8, (crc bytes).extractLsb' 0 8]

/-- The start byte. -/
def startByte : Byte := 0xA5#8

/-- A whole frame on the line (section 10.1). -/
def frameBytes (kind : Byte) (body : List Byte) : List Byte :=
  let covered := byte body.length :: kind :: body
  startByte :: covered ++ checkBytes covered

/-! ### The receiver (R179) -/

/-- How a frame ends at the receiver. -/
inductive Received where
  /-- The length lay outside 2 to 250. -/
  | impossible
  /-- The frame is complete; `passed` says whether it passes its check. -/
  | frame (kind : Byte) (body : List Byte) (passed : Bool)
deriving DecidableEq, Repr

/-- The end of a complete frame whose bytes after the start byte are `got`. -/
def finishFrame (len : Byte) (kind : Byte) (rest : List Byte) : Received :=
  let body := rest.take len.toNat
  .frame kind body (rest.drop len.toNat == checkBytes (len :: kind :: body))

/-- One byte received (R179). -/
def receiveByte (rx : Receiver) (b : Byte) : Receiver × Option Received :=
  match rx with
  | .hunting => if b = startByte then (.inFrame [], none) else (.hunting, none)
  | .inFrame [] =>
    if 2 ≤ b.toNat ∧ b.toNat ≤ 250 then (.inFrame [b], none) else (.hunting, some .impossible)
  | .inFrame [len] => (.inFrame [len, b], none)
  | .inFrame (len :: kind :: rest) =>
    if rest.length + 1 = len.toNat + 2 then (.hunting, some (finishFrame len kind (rest ++ [b])))
    else (.inFrame (len :: kind :: rest ++ [b]), none)

/-- A run of bytes received: the receiver after it, and the frames that ended, in order. -/
def receiveBytes (rx : Receiver) : List Byte → Receiver × List Received
  | [] => (rx, [])
  | b :: rest =>
    let (rx', ended) := receiveByte rx b
    let (rx'', more) := receiveBytes rx' rest
    (rx'', ended.toList ++ more)

/-! ### Frames from sites -/

/-- The message of a site frame, where its kind is one taken from sites and its body fits its kind (R181). A
first-flag byte other than 0 and 1 does not fit (DEDUCED, log entry 15), nor does a DECLINE whose reason is none of 1, 2
and 3 (DEDUCED, log entry 28). -/
def siteMessage (kind : Byte) (body : List Byte) : Option SiteMsg :=
  match kind.toNat, body with
  | 0x01, site :: u1 :: u2 :: u3 :: seq :: first :: q :: k :: groups =>
    if seq.toNat ≤ 15 ∧ first.toNat ≤ 1 ∧ q.toNat ≤ 63 ∧ k.toNat ≤ 16 ∧ groups.length = k.toNat then
      some (.reg site.toNat (num24 u1 u2 u3) seq.toNat (first.toNat == 1) q.toNat (groups.map BitVec.toNat))
    else none
  | 0x02, [site, u1, u2, u3, seq, q] =>
    if seq.toNat ≤ 15 ∧ q.toNat ≤ 63 then some (.heard site.toNat (num24 u1 u2 u3) seq.toNat q.toNat) else none
  | 0x03, [site, u1, u2, u3, seq, q] =>
    if seq.toNat ≤ 15 ∧ q.toNat ≤ 63 then some (.emerg site.toNat (num24 u1 u2 u3) seq.toNat q.toNat) else none
  | 0x04, [site, u1, u2, u3, seq] =>
    if seq.toNat ≤ 15 then some (.dereg site.toNat (num24 u1 u2 u3) seq.toNat) else none
  | 0x05, [site, u1, u2, u3, t1, t2] => some (.ready site.toNat (num24 u1 u2 u3) (num16 t1 t2))
  | 0x06, [site, u1, u2, u3, t1, t2] => some (.quiesced site.toNat (num24 u1 u2 u3) (num16 t1 t2))
  | 0x07, [site, u1, u2, u3, t1, t2, reason] =>
    if 1 ≤ reason.toNat ∧ reason.toNat ≤ 3 then
      some (.decline site.toNat (num24 u1 u2 u3) (num16 t1 t2) reason.toNat)
    else none
  | 0x08, [site, condition] => some (.status site.toNat condition.toNat)
  | 0x09, [site, group, u1, u2, u3] => some (.callRequest site.toNat group.toNat (num24 u1 u2 u3))
  | 0x0A, [site, call] => some (.callEnd site.toNat call.toNat)
  | _, _ => none

/-! ### Requests from dispatch -/

/-- An optional field of a request: present when its bit of the presence byte is set. -/
def ifPresent {α : Type} (presence : Byte) (bit : Nat) (v : α) : Option α :=
  if presence.getLsbD bit then some v else none

/-- The request of a dispatch frame, where its kind is recognised and its body's length fits its kind. The
first body byte is the request number. -/
def requestOf (kind : Byte) (body : List Byte) : Option Request :=
  match kind.toNat, body with
  | 0x11, [_, site, p, c, v, b, h, policy] =>
    some (.defineSite site.toNat (ifPresent p 0 c.toNat) (ifPresent p 1 v.toNat) (ifPresent p 2 b.toInt)
      (ifPresent p 3 h.toNat) (policy.getLsbD 0) (policy.getLsbD 1))
  | 0x12, [_, site, p, c, v, b, h, policy] =>
    some (.setSite site.toNat (ifPresent p 0 c.toNat) (ifPresent p 1 v.toNat) (ifPresent p 2 b.toInt)
      (ifPresent p 3 h.toNat) (ifPresent p 4 (policy.getLsbD 0)) (ifPresent p 5 (policy.getLsbD 1)))
  | 0x13, _ :: site :: k :: list =>
    if list.length = k.toNat then some (.setNeighbours site.toNat (list.map BitVec.toNat)) else none
  | 0x14, [_, site] => some (.undefineSite site.toNat)
  | 0x15, _ :: group :: priority :: k :: list =>
    if list.length = k.toNat then
      some (.defineGroup group.toNat priority.toNat (list.map BitVec.toNat))
    else none
  | 0x16, _ :: group :: p :: priority :: k :: list =>
    if list.length = k.toNat then
      some (.setGroup group.toNat (ifPresent p 0 priority.toNat) (ifPresent p 1 (list.map BitVec.toNat)))
    else none
  | 0x17, [_, group] => some (.undefineGroup group.toNat)
  | 0x18, [_, parameter, v1, v2] => some (.setParameter parameter.toNat (num16 v1 v2))
  | 0x19, [_, _] => some .openService
  | 0x1A, [_, _] => some .restart
  | 0x21, [_, u1, u2, u3] => some (.locate (num24 u1 u2 u3))
  | 0x22, [_, site] => some (.siteQuery site.toNat)
  | 0x23, [_, group] => some (.groupQuery group.toNat)
  | 0x24, [_, call] => some (.callQuery call.toNat)
  | 0x25, [_, _] => some .bulkStatus
  | 0x26, [_, _] => some .nextNotice
  | 0x27, [_, _] => some .portStatus
  | 0x31, [_, u1, u2, u3] => some (.forceRelease (num24 u1 u2 u3))
  | 0x32, [_, u1, u2, u3] => some (.clearEmergency (num24 u1 u2 u3))
  | 0x33, [_, u1, u2, u3] => some (.clearLost (num24 u1 u2 u3))
  | 0x34, _ :: u1 :: u2 :: u3 :: k :: list =>
    if list.length = k.toNat then some (.setGroups (num24 u1 u2 u3) (list.map BitVec.toNat)) else none
  | 0x35, [_, u1, u2, u3] => some (.clearRegroup (num24 u1 u2 u3))
  | 0x36, [_, call] => some (.forceEnd call.toNat)
  | 0x51, [_, wait, form, value, k1, k2, k3, limit] =>
    some (.roster (wait != 0#8) form.toNat value.toNat (num24 k1 k2 k3) limit.toNat)
  | 0x52, [_, wait, group] => some (.recallGroup (wait != 0#8) group.toNat)
  | 0x53, [_, wait, group] => some (.cancelRecall (wait != 0#8) group.toNat)
  | 0x54, [_, wait, site] => some (.evacuate (wait != 0#8) site.toNat)
  | 0x55, [_, wait, site] => some (.resync (wait != 0#8) site.toNat)
  | 0x56, [_, wait] => some (.purge (wait != 0#8))
  | 0x57, [_, _] => some .bulkSuspend
  | 0x58, [_, _] => some .bulkResume
  | 0x59, [_, scope, k] => some (.bulkAbort scope.toNat k.toNat)
  | _, _ => none

/-- The request an entry of the inbound request queue holds: none where it is rejected, of a kind not
recognised, or misfitting, so that it is answered FRAME-REJECT (R152). -/
def entryRequest (e : RequestEntry) : Option Request :=
  if e.rejected then none else requestOf e.kind e.body

/-- The request number an entry carries, or 0 where the frame was too short to hold one (R150). -/
def entryNumber (e : RequestEntry) : Byte := e.body.headD 0#8

/-! ### Codes -/

/-- Receipt codes as the RECEIPT layout numbers them. -/
def receiptCodeByte : ReceiptCode → Byte
  | .taken => 1#8 | .merged => 2#8 | .late => 3#8 | .duplicate => 4#8 | .stale => 5#8 | .unknown => 6#8
  | .refusedFull => 7#8 | .refusedSite => 8#8 | .notReady => 9#8 | .held => 10#8

/-- CALL-ANSWER codes. -/
def callCodeByte : CallCode → Byte
  | .accepted => 1#8 | .notReady => 2#8 | .refusedSite => 3#8 | .noSuch => 4#8 | .refusedFull => 5#8

/-- Answer codes as the LOCATE layout numbers them. -/
def codeByte : Code → Byte
  | .done => 1#8 | .doneClamped => 2#8 | .doneWaiting => 3#8 | .busy => 4#8 | .wrongPhase => 5#8
  | .wrongState => 6#8 | .noSuch => 7#8 | .full => 8#8 | .frameReject => 9#8 | .none => 10#8

/-- Record states. -/
def stateByte : StateName → Byte
  | .joining => 1#8 | .registered => 2#8 | .moving => 3#8 | .presumed => 4#8 | .lost => 5#8 | .retired => 6#8

/-- Site states. -/
def siteStateByte : SiteStateName → Byte
  | .down => 1#8 | .up => 2#8 | .degraded => 3#8 | .dark => 4#8

/-- Conditions; 0 when absent. -/
def conditionByte : Option Condition → Byte
  | none => 0#8 | some .good => 1#8 | some .strained => 2#8 | some .failing => 3#8

/-- Priorities. -/
def priorityByte : Priority → Byte
  | .routine => 1#8 | .tactical => 2#8 | .command => 3#8 | .emergency => 4#8

/-- Recall states. -/
def recallByte : RecallState → Byte
  | .off => 0#8 | .active => 1#8 | .cancelling => 2#8

/-- Regroup states. -/
def regroupByte : Regroup → Byte
  | .none => 0#8 | .ordered => 1#8 | .confirmed => 2#8

/-- Handover outcomes; 0 is NONE. -/
def outcomeByte : Option (HandoverEnd × Nat) → Byte
  | none => 0#8 | some (.completed, _) => 1#8 | some (.declined, _) => 2#8 | some (.timedOut, _) => 3#8
  | some (.aborted, _) => 4#8

/-- Presume causes; 0 when absent. -/
def causeByte : Option PresumeCause → Byte
  | none => 0#8 | some .lease => 1#8 | some .siteDark => 2#8

/-! ### Frames to sites -/

/-- A number or a site that may be absent, as one byte: 0 when absent. -/
def optByte (o : Option Nat) : Byte := byte (o.getD 0)

/-- A list with its count byte before it. -/
def counted (l : List Nat) : List Byte := byte l.length :: l.map byte

/-- The kind and body of a frame to a site (section 10.2). -/
def siteFrame : SiteOut → Byte × List Byte
  | .receipt site unit seq code recalled regroup =>
    (0x41#8, byte site :: be24 unit ++ [byte seq, receiptCodeByte code] ++ counted recalled ++
      (match regroup with | none => [0xFF#8] | some l => counted l))
  | .adopt site unit groups => (0x42#8, byte site :: be24 unit ++ counted groups)
  | .drop site unit => (0x43#8, byte site :: be24 unit)
  | .regroup site unit groups => (0x44#8, byte site :: be24 unit ++ counted groups)
  | .prepare site unit tag groups => (0x45#8, byte site :: be24 unit ++ be16 tag ++ counted groups)
  | .quiesce site unit tag => (0x46#8, byte site :: be24 unit ++ be16 tag)
  | .commit site unit tag => (0x47#8, byte site :: be24 unit ++ be16 tag)
  | .cancel site unit tag => (0x48#8, byte site :: be24 unit ++ be16 tag)
  | .callAnswer site code call granted => (0x49#8, [byte site, callCodeByte code, byte call, byte granted])
  | .callGrant site call group channel => (0x4A#8, [byte site, byte call, byte group, byte channel])
  | .callDrop site call channel => (0x4B#8, [byte site, byte call, byte channel])

/-- The bytes of a frame to a site on the line. -/
def siteLine (f : SiteOut) : List Byte := frameBytes (siteFrame f).1 (siteFrame f).2

/-! ### Bulk accounts and notices -/

/-- The request kind of a bulk operation. -/
def bulkKind : BulkOp → Nat
  | .roster _ _ _ => 0x51
  | .recallGroup _ => 0x52
  | .cancelRecall _ => 0x53
  | .evacuate _ => 0x54
  | .resync _ => 0x55
  | .purge => 0x56

/-- The number of a ROSTER class. -/
def classByte : RosterClass → Byte
  | .inState n => stateByte n | .counted => 7#8 | .emergency => 8#8 | .all => 9#8

/-- The filter form and value of a ROSTER. -/
def filterBytes : RosterFilter → List Byte
  | .site n => [1#8, byte n]
  | .group g => [2#8, byte g]
  | .cls c => [3#8, classByte c]

/-- The six parameter bytes of a bulk operation. -/
def bulkParams : BulkOp → List Byte
  | .roster filter start limit => filterBytes filter ++ be24 start ++ [byte limit]
  | .recallGroup n => byte n :: List.replicate 5 0#8
  | .cancelRecall n => byte n :: List.replicate 5 0#8
  | .evacuate n => byte n :: List.replicate 5 0#8
  | .resync n => byte n :: List.replicate 5 0#8
  | .purge => List.replicate 6 0#8

/-- The four result counters. -/
def counterBytes (c : Counters) : List Byte := be16 c.c1 ++ be16 c.c2 ++ be16 c.c3 ++ be16 c.c4

/-- A bulk account: 18 bytes. -/
def accountBytes (a : BulkAccount) : List Byte :=
  byte (bulkKind a.op) :: bulkParams a.op ++ [if a.completed then 1#8 else 2#8] ++ be16 a.visited ++
    counterBytes a.counters

/-- A roster entry: 6 bytes. -/
def rosterBytes (e : RosterEntry) : List Byte :=
  be24 e.unit ++ [stateByte e.state, byte e.site, flagByte e.emergency]

/-- The code of a notice. -/
def noticeCode : NoticeBody → Byte
  | .lost _ _ _ => 1#8 | .found _ _ => 2#8 | .emergency _ _ _ => 3#8 | .siteDark _ _ _ => 4#8
  | .siteUp _ _ _ => 5#8 | .siteOver _ _ _ => 6#8 | .syncLost _ => 7#8 | .recallComplete _ => 8#8
  | .callPreempted _ _ _ _ => 9#8 | .bulkDone _ _ => 10#8

/-- The fields of a notice; a field without a stated width takes one byte (DEDUCED, log entry 16). -/
def noticeFields : NoticeBody → List Byte
  | .lost unit last e => be24 unit ++ [byte last, flagByte e]
  | .found unit serving => be24 unit ++ [byte serving]
  | .emergency unit site st => be24 unit ++ [byte site, stateByte st]
  | .siteDark site failing count => [byte site, if failing then 2#8 else 1#8, byte count]
  | .siteUp site st restored => [byte site, siteStateByte st, byte restored]
  | .siteOver site count capacity => [byte site, byte count, byte capacity]
  | .syncLost site => [byte site]
  | .recallComplete group => [byte group]
  | .callPreempted call group site by_ => [byte call, byte group, byte site, byte by_]
  | .bulkDone account none => accountBytes account
  | .bulkDone account (some (more, remaining, page)) =>
    accountBytes account ++ [flagByte more, byte remaining, byte page.length] ++ page.flatMap rosterBytes

/-- A notice as sent. -/
def noticeBytes (n : Notice) : List Byte := noticeCode n.body :: be32 n.time ++ noticeFields n.body

/-! ### Answers -/

/-- Content of a LOCATE answer from offset 3. -/
def locateBytes (r : LocateReply) : List Byte :=
  be24 r.unit ++ [stateByte r.state, optByte r.serving, optByte r.pending, optByte r.last, causeByte r.cause] ++
  (match r.deadline with
    | .none => 0#8 :: be16 0
    | .lease n => 1#8 :: be16 n
    | .presumeHold n => 2#8 :: be16 n
    | .retireHold n => 3#8 :: be16 n) ++
  be16 (r.retiredFor.getD 0) ++
  [byte r.lastSeq, flagByte r.burstOpen, regroupByte r.regroup] ++
  (match r.emergency with
    | none => 0#8 :: 0#8 :: be16 0
    | some (age, site) => 1#8 :: byte site :: be16 age) ++
  [outcomeByte r.lastHandover, optByte (r.lastHandover.map Prod.snd)] ++
  (match r.handover with
    | none => List.replicate 9 0#8
    | some h => 1#8 :: be16 h.tag ++ [byte h.fromSite, byte h.toSite, flagByte h.readySeen, flagByte h.quiescedSeen] ++
        be16 h.seconds) ++
  byte r.groups.length :: (r.groups.flatMap fun m => [byte m.group, flagByte m.pending]) ++
  byte r.hearing.length :: (r.hearing.flatMap fun h =>
    byte h.site :: byte h.quality :: be16 h.age ++ [flagByte h.confirmed, flagByte h.backoff.isSome, optByte h.backoff])

/-- The flag byte of a SITE-QUERY answer. -/
def siteFlagByte (r : SiteReply) : Byte :=
  byte ((if r.acceptIn then 1 else 0) + (if r.releaseOut then 2 else 0) + (if r.overFlag then 4 else 0) +
    (if r.syncLost then 8 else 0))

/-- Content of a SITE-QUERY answer from offset 3. -/
def siteReplyBytes (r : SiteReply) : List Byte :=
  [byte r.site, siteStateByte r.state, conditionByte r.condition, byte r.count, byte r.capacity, byte r.voice,
    BitVec.ofInt 8 r.bias, byte r.hysteresis, siteFlagByte r] ++ be16 (r.heartbeat.getD 0) ++
  [byte r.channelsHeld, byte r.queueLength] ++ counted r.neighbours

/-- Content of a GROUP-QUERY answer from offset 3. -/
def groupReplyBytes (r : GroupReply) : List Byte :=
  [byte r.group, priorityByte r.priority, recallByte r.recallState] ++ be16 r.unreached ++ be16 r.total ++
  optByte r.activeCall :: counted r.fixed ++
  byte r.counts.length :: (r.counts.flatMap fun p => [byte p.1, byte p.2]) ++ counted r.carry

/-- A map entry of a CALL-QUERY answer: the site in the low six bits, the status in the high two. -/
def mapBytes : MapReply → List Byte
  | .granted site channel secs => byte (64 + site) :: byte channel :: be16 secs
  | .queued site place secs => byte (128 + site) :: byte place :: be16 secs
  | .busyOut site => byte (192 + site) :: 0#8 :: be16 0

/-- Content of a CALL-QUERY answer from offset 3. -/
def callReplyBytes (r : CallReply) : List Byte :=
  [byte r.call, byte r.group, priorityByte r.priority, if r.hang.isSome then 2#8 else 1#8, byte r.origin] ++
  be24 r.talker ++ be16 r.createdFor ++ be16 (r.hang.getD 0) ++
  byte r.map.length :: r.map.flatMap mapBytes

/-- Content of a BULK-STATUS answer from offset 3. -/
def bulkReplyBytes (r : BulkReply) : List Byte :=
  (match r.current with | none => 1#8 | some b => if b.suspended then 3#8 else 2#8) :: be16 r.present ++
  (match r.waiting with | none => List.replicate 7 0#8 | some op => byte (bulkKind op) :: bulkParams op) ++
  (match r.current with
    | none => List.replicate 23 0#8
    | some b => byte (bulkKind b.op) :: bulkParams b.op ++ be24 b.cursor ++ be16 b.visited ++
        counterBytes b.counters ++ [byte b.page.length, flagByte b.roomWait, flagByte b.gap]) ++
  (match r.last with
    | none => List.replicate 23 0#8
    | some (a, t) => 1#8 :: accountBytes a ++ be32 t)

/-- Content of a PORT-STATUS answer from offset 3. -/
def portReplyBytes (r : PortReply) : List Byte :=
  (match r.phase with | .config => 1#8 | .service => 2#8) :: be32 r.partTime ++ [byte r.siteIn, flagByte r.hold] ++
  be16 r.outbound ++
  [byte r.requests, byte r.answers, byte r.notices, flagByte r.overflow, flagByte r.answerLost]

/-- Content of an answer from offset 3. -/
def contentBytes : Content → List Byte
  | .none => []
  | .value v => be16 v
  | .locate r => locateBytes r
  | .site r => siteReplyBytes r
  | .group r => groupReplyBytes r
  | .call r => callReplyBytes r
  | .bulk r => bulkReplyBytes r
  | .notice left n => byte left :: noticeBytes n
  | .port r => portReplyBytes r

/-- The body of an answer frame, whose kind is 80 hex. -/
def answerBody (a : Answer) : List Byte := a.number :: a.kind :: codeByte a.code :: contentBytes a.content

/-- The bytes of an answer on the line. -/
def answerLine (a : Answer) : List Byte := frameBytes 0x80#8 (answerBody a)

end Sys2Proof.Machine
end

