-- ==== Sys2Proof/Machine/PortCommands.lean ====
section
/-! DEFINITION. The ports' own commands: frames received, frames sent, and power-on reset. -/

namespace Sys2Proof.Machine

open Host (Outcome)

/-- An answer to a request entry enters the tail of the answer queue (R153). -/
def pushAnswer (s : State) (e : RequestEntry) (code : Code) (content : Content) : State :=
  { s with answers := s.answers ++ [{ number := entryNumber e, kind := e.kind, code := code, content := content }] }

/-- What the Site Port does with a frame that ended (R181, R182): a frame that fits enters the tail of the inbound
queue while the queue holds fewer than 128, and any other is discarded. -/
def acceptSite (s : State) (r : Received) : State :=
  match r with
  | .frame kind body true =>
    match siteMessage kind body with
    | some m => if s.siteIn.length < Config.maxSiteIn then { s with siteIn := s.siteIn ++ [m] } else s
    | none => s
  | _ => s

/-- The request entry a frame that ended makes: an impossible frame has number 0 and kind 0 (R179). -/
def entryOf : Received → RequestEntry
  | .impossible => { rejected := true, kind := 0#8, body := [] }
  | .frame kind body passed => { rejected := !passed, kind := kind, body := body }

/-- What the Dispatch Port does with a frame that ended (R150). A FULL answer so queued may stand behind a RESTART's answer
that has not left, although R191 has the answer queue empty when that answer has gone (DESIGN CHOICE, log entry 27). -/
def acceptRequest (s : State) (r : Received) : State :=
  if s.requests.length < Config.maxRequests then { s with requests := s.requests ++ [entryOf r] }
  else if s.answers.length < Config.maxAnswers then pushAnswer s (entryOf r) .full .none
  else { s with answerLost := true }

/-- Bytes are clocked into the Site Port (R179, R181, R182). -/
def execSiteFrameReceived (bytes : List Byte) (s : State) : Outcome State Fault Refusal :=
  let (rx, ended) := receiveBytes s.siteRx bytes
  .next (ended.foldl acceptSite { s with siteRx := rx })

/-- Bytes are clocked into the Dispatch Port (R150, R179). -/
def execDispatchFrameReceived (bytes : List Byte) (s : State) : Outcome State Fault Refusal :=
  let (rx, ended) := receiveBytes s.dispatchRx bytes
  .next (ended.foldl acceptRequest { s with dispatchRx := rx })

/-- The last byte of the frame in transmission is clocked out: the frame a RESTART left partly sent, otherwise the
head entry, which leaves the queue; with neither the transmitter sends the fill byte (R179, R183, R191; DESIGN
CHOICE, log entry 7). -/
def execOutboundEntrySent (s : State) : Outcome State Fault Refusal :=
  match s.siteResidue, s.outbound with
  | some f, _ => .next { s with siteResidue := none, siteSent := siteLine f }
  | none, f :: rest => .next { s with outbound := rest, siteSent := siteLine f }
  | none, [] => .next { s with siteSent := [fillByte] }

/-- The last byte of the head answer is clocked out, and the answer leaves the answer queue (R151); with no answer
the transmitter sends the fill byte (R179). -/
def execAnswerSent (s : State) : Outcome State Fault Refusal :=
  match s.answers with
  | a :: rest => .next { s with answers := rest, dispatchSent := answerLine a }
  | [] => .next { s with dispatchSent := [fillByte] }

/-- Power-on reset ends (R190). The commands that wait and the count of free choices are the model's own and
stay (log entry 20). -/
def execPowerOnReset (s : State) : Outcome State Fault Refusal :=
  .next { State.reset with pending := s.pending, choices := s.choices }

end Sys2Proof.Machine
end

