-- ==== Sys2Proof/Machine/Operands.lean ====
section
/-! DEFINITION. The operands of requests as the requests' own rules treat them: clamped, filtered and trimmed
values (R103, R106, R110, R188), and the contents of lookup answers (R154 to R157, R163, R172). -/

namespace Sys2Proof.Machine

/-! ### Values brought into range -/

/-- A value clamped to a range. -/
def clampNat (lo hi v : Nat) : Nat := min hi (max lo v)

/-- A signed value clamped to a range. -/
def clampInt (lo hi v : Int) : Int := min hi (max lo v)

/-- Capacity in range (R103). -/
def clampCapacity (c : Nat) : Nat := clampNat 1 255 c

/-- Voice channels in range (R103). -/
def clampVoice (v : Nat) : Nat := clampNat 1 16 v

/-- Bias in range (R103). -/
def clampBias (b : Int) : Int := clampInt (-8) 7 b

/-- Hysteresis in range (R103). -/
def clampHysteresis (h : Nat) : Nat := clampNat 0 15 h

/-- Whether an optional value lies in range: an absent field is not clamped. -/
def inRange {α : Type} [DecidableEq α] (clamp : α → α) : Option α → Bool
  | some v => clamp v = v
  | none => true

/-- Whether none of a site request's values needs clamping. -/
def siteValuesInRange (c v : Option Nat) (b : Option Int) (h : Option Nat) : Bool :=
  inRange clampCapacity c && inRange clampVoice v && inRange clampBias b && inRange clampHysteresis h

/-- DONE, or DONE-CLAMPED where a value was clamped, filtered or trimmed. -/
def doneCode (asGiven : Bool) : Code := if asGiven then .done else .doneClamped

/-- A neighbour list filtered for site n (R106). -/
def filterNeighbours (s : State) (n : Nat) (l : List Nat) : List Nat :=
  keepFirst (fun m => siteConfigured s m && m != n) Config.maxNeighbours [] l

/-- A fixed site list filtered (R110). -/
def filterFixed (s : State) (l : List Nat) : List Nat := keepFirst (siteConfigured s) Config.maxSite [] l

/-- The priority a group configuration request gives: any value but the first three is taken as COMMAND (R110). -/
def groupPriority : Nat → Priority
  | 1 => .routine
  | 2 => .tactical
  | _ => .command

/-- Whether a group priority is taken as given (R110). -/
def priorityAsGiven (p : Nat) : Bool := 1 ≤ p && p ≤ 3

/-- The range of a global parameter, by its number in the table of R188. -/
def paramRange : Nat → Option (Nat × Nat)
  | 1 => some (30, 1800)
  | 2 => some (30, 1800)
  | 3 => some (60, 3600)
  | 4 => some (1, 20)
  | 5 => some (1, 30)
  | 6 => some (0, 255)
  | 7 => some (5, 120)
  | 8 => some (1, 60)
  | 9 => some (0, 10)
  | 10 => some (1, 60)
  | _ => none

/-- Set a global parameter, by its number in the table of R188. -/
def setParam (p : Params) (n v : Nat) : Params :=
  match n with
  | 1 => { p with lease := v }
  | 2 => { p with presumeHold := v }
  | 3 => { p with retireHold := v }
  | 4 => { p with settleTime := v }
  | 5 => { p with handoverTimeout := v }
  | 6 => { p with declineBackoff := v }
  | 7 => { p with heartbeatTimeout := v }
  | 8 => { p with ageDecay := v }
  | 9 => { p with callHang := v }
  | 10 => { p with queueHold := v }
  | _ => p

/-! ### Lookup contents -/

/-- The deadline item of a LOCATE answer (R154). -/
def deadlineReply (s : State) : RecordState → DeadlineReply
  | .joining => .none
  | .registered _ lease => .lease (remaining s lease)
  | .moving _ _ lease _ => .lease (remaining s lease)
  | .presumed _ _ hold => .presumeHold (remaining s hold)
  | .lost _ => .none
  | .retired _ _ hold => .retireHold (remaining s hold)

/-- A hearing entry of a LOCATE answer: a backoff-until time is reported while it lies ahead (R154). -/
def hearingReply (s : State) (h : Hearing) : HearingReply :=
  { site := h.site, quality := h.quality, age := elapsed s h.heard, confirmed := h.confirmed,
    backoff := if inBackoff s.partTime h then h.backoff.map (remaining s) else none }

/-- The handover context of a LOCATE answer (R64). -/
def handoverReply (s : State) : RecordState → Option HandoverReply
  | .moving a p _ c =>
    some { tag := c.tag, fromSite := a, toSite := p, readySeen := c.readySeen, quiescedSeen := c.quiescedSeen,
           seconds := remaining s c.deadline }
  | _ => none

/-- The content of a LOCATE answer (R154). -/
def locateReply (s : State) (u : Nat) (r : Radio) : LocateReply :=
  { unit := u, state := stateName r.state, serving := servingSite r.state, pending := pendingSite r.state,
    last := lastSite r.state,
    cause := (match r.state with | .presumed _ c _ => some c | _ => none),
    deadline := deadlineReply s r.state,
    retiredFor := (match r.state with | .retired _ t _ => some (elapsed s t) | _ => none),
    lastSeq := r.lastSeq, burstOpen := r.burst.isSome, regroup := r.regroup,
    emergency := r.emergency.map fun e => (elapsed s e.since, e.site),
    lastHandover := r.lastHandover, handover := handoverReply s r.state, groups := r.groups,
    hearing := r.hearing.map (hearingReply s) }

/-- The content of a SITE-QUERY answer (R155). -/
def siteReply (s : State) (n : Nat) (x : Site) : SiteReply :=
  { site := n, state := siteStateName x.state, condition := x.condition, count := x.count, capacity := x.capacity,
    voice := x.voice, bias := x.bias, hysteresis := x.hysteresis, acceptIn := x.acceptIn, releaseOut := x.releaseOut,
    overFlag := x.overFlag, syncLost := x.syncLost,
    heartbeat := (match x.state with
      | .up d => some (remaining s d)
      | .degraded d => some (remaining s d)
      | _ => none),
    channelsHeld := (channelsHeld s n).length, queueLength := x.queue.length, neighbours := x.neighbours }

/-- The content of a GROUP-QUERY answer (R156). -/
def groupReply (s : State) (g : Nat) (x : Group) : GroupReply :=
  { group := g, priority := x.priority, recallState := x.recallState, unreached := x.unreached, total := x.total,
    activeCall := x.activeCall, fixed := x.fixed, counts := x.counts, carry := carrySet s g }

/-- One map entry of a CALL-QUERY answer (R157). -/
def mapReply (s : State) (c : Nat) (p : Nat × CallStatus) : MapReply :=
  match p.2 with
  | .granted ch since => .granted p.1 ch (elapsed s since)
  | .queued _ hold => .queued p.1 ((channelQueue s p.1).idxOf c + 1) (remaining s hold)
  | .busyOut => .busyOut p.1

/-- The content of a CALL-QUERY answer (R157). -/
def callReply (s : State) (c : Nat) (x : Call) : CallReply :=
  { call := c, group := x.group, priority := x.priority,
    hang := (match x.state with | .active => none | .hang d => some (remaining s d)),
    origin := x.origin, talker := x.talker, createdFor := elapsed s x.created, map := x.map.map (mapReply s c) }

/-- The content of a BULK-STATUS answer (R172). -/
def bulkReply (s : State) : BulkReply :=
  { present := s.radios.length, waiting := s.bulkWaiting, current := s.bulk, last := s.bulkLast }

/-- The content of a PORT-STATUS answer (R163), the request itself having left its queue (DEDUCED, log entry 23). -/
def portReply (s : State) : PortReply :=
  { phase := s.phase, partTime := s.partTime, siteIn := s.siteIn.length, hold := holdLine s,
    outbound := s.outbound.length, requests := s.requests.length, answers := s.answers.length,
    notices := s.notices.length, overflow := s.noticeOverflow, answerLost := s.answerLost }

end Sys2Proof.Machine
end

