-- ==== Sys2Proof/Machine/Requests.lean ====
section
/-! DEFINITION. The taking of a request (R151, R152), and what each request does once its phase test is passed. -/

namespace Sys2Proof.Machine

/-- What a request makes of the state, and its answer's code and content. -/
abbrev Served := State × Code × Content

/-- The phases in which a request is allowed (R152). -/
inductive Phases where
  | configOnly
  | both
  | serviceOnly
deriving DecidableEq, Repr

/-- The phase test (R152). -/
def allowed : Phases → Phase → Bool
  | .configOnly, .config => true
  | .configOnly, .service => false
  | .both, _ => true
  | .serviceOnly, .config => false
  | .serviceOnly, .service => true

/-- The request at the head of the inbound queue is taken, where it is of the kind that `act` serves and the Dispatch
Port may take one: it is tested against the phase, acts, and its answer enters the tail of the answer queue. -/
def serve (s : State) (phases : Phases) (act : Request → Option (State → Served)) : State :=
  match s.requests with
  | e :: rest =>
    match (entryRequest e).bind act with
    | some f =>
      if canTakeRequest s then
        let s0 := { s with requests := rest }
        if allowed phases s.phase then
          let (s1, code, content) := f s0
          pushAnswer s1 e code content
        else pushAnswer s0 e .wrongPhase .none
      else s
    | none => s
  | [] => s

/-! ### Site configuration (R104 to R107) -/

/-- DEFINE-SITE (R104). -/
def doDefineSite (n : Nat) (c v : Option Nat) (b : Option Int) (h : Option Nat) (acceptIn releaseOut : Bool)
    (s : State) : Served :=
  if wfSite n then
    let c' := clampCapacity (c.getD 64)
    let v' := clampVoice (v.getD 4)
    let b' := clampBias (b.getD 0)
    let h' := clampHysteresis (h.getD 4)
    let x : Site := match tget s.sites n with
      | some x =>
        { x with capacity := c', voice := v', bias := b', hysteresis := h', acceptIn := acceptIn, releaseOut := releaseOut }
      | none =>
        { state := .down, condition := none, capacity := c', count := 0, voice := v', bias := b', hysteresis := h',
          neighbours := [], acceptIn := acceptIn, releaseOut := releaseOut, overFlag := false, syncLost := false,
          queue := [] }
    ({ s with sites := tput s.sites n x }, doneCode (siteValuesInRange c v b h), .none)
  else (s, .noSuch, .none)

/-- Whether a voice-channel field is refused: in SERVICE phase, present, and different from the site's v (R105). -/
def voiceRefused (s : State) (x : Site) (v : Option Nat) : Bool :=
  match s.phase, v with
  | .service, some v' => clampVoice v' != x.voice
  | _, _ => false

/-- The over flag after SET-SITE (R98, R105): set with SITE-OVER when the capacity lies below the count, cleared when
the count lies below the capacity (DEDUCED, log entry 18). -/
def settleOver (s : State) (n : Nat) : State :=
  match tget s.sites n with
  | some x => if x.capacity < x.count then setOver s n else modSite s n clearOver
  | none => s

/-- SET-SITE (R105). -/
def doSetSite (n : Nat) (c v : Option Nat) (b : Option Int) (h : Option Nat) (acceptIn releaseOut : Option Bool)
    (s : State) : Served :=
  match findSite s n with
  | some x =>
    if voiceRefused s x v then (s, .wrongPhase, .none)
    else
      let s1 := modSite s n fun x =>
        { x with capacity := (c.map clampCapacity).getD x.capacity, voice := (v.map clampVoice).getD x.voice,
                 bias := (b.map clampBias).getD x.bias, hysteresis := (h.map clampHysteresis).getD x.hysteresis,
                 acceptIn := acceptIn.getD x.acceptIn, releaseOut := releaseOut.getD x.releaseOut }
      (settleOver s1 n, doneCode (siteValuesInRange c v b h), .none)
  | none => (s, .noSuch, .none)

/-- SET-NEIGHBOURS (R106). -/
def doSetNeighbours (n : Nat) (l : List Nat) (s : State) : Served :=
  if siteConfigured s n then
    let kept := filterNeighbours s n l
    (modSite s n fun x => { x with neighbours := kept }, doneCode (kept.length == l.length), .none)
  else (s, .noSuch, .none)

/-- UNDEFINE-SITE (R107). -/
def doUndefineSite (n : Nat) (s : State) : Served :=
  if siteConfigured s n then
    ({ s with
        sites := (tdel s.sites n).map fun (p : Nat × Site) => (p.1, { p.2 with neighbours := p.2.neighbours.filter (· != n) }),
        groups := s.groups.map fun (p : Nat × Group) => (p.1, { p.2 with fixed := p.2.fixed.filter (· != n) }) },
      .done, .none)
  else (s, .noSuch, .none)

/-! ### Group configuration (R111 to R113) -/

/-- DEFINE-GROUP (R111). -/
def doDefineGroup (g priority : Nat) (l : List Nat) (s : State) : Served :=
  if wfGroup g then
    let kept := filterFixed s l
    let x : Group := match tget s.groups g with
      | some x => { x with priority := groupPriority priority, fixed := kept }
      | none =>
        { priority := groupPriority priority, fixed := kept, counts := [], total := 0, recallState := .off, unreached := 0,
          activeCall := none }
    ({ s with groups := tput s.groups g x }, doneCode (priorityAsGiven priority && kept.length == l.length), .none)
  else (s, .noSuch, .none)

/-- SET-GROUP (R112). -/
def doSetGroup (g : Nat) (priority : Option Nat) (l : Option (List Nat)) (s : State) : Served :=
  if groupConfigured s g then
    let kept := l.map (filterFixed s)
    let asGiven := (priority.map priorityAsGiven).getD true && kept.map List.length == l.map List.length
    (modGroup s g fun x => { x with priority := (priority.map groupPriority).getD x.priority, fixed := kept.getD x.fixed },
      doneCode asGiven, .none)
  else (s, .noSuch, .none)

/-- UNDEFINE-GROUP (R113). -/
def doUndefineGroup (g : Nat) (s : State) : Served :=
  if groupConfigured s g then ({ s with groups := tdel s.groups g }, .done, .none) else (s, .noSuch, .none)

/-! ### Parameters, phases and RESTART (R188, R189, R191) -/

/-- SET-PARAMETER (R188). -/
def doSetParameter (n v : Nat) (s : State) : Served :=
  match paramRange n with
  | some (lo, hi) =>
    let v' := clampNat lo hi v
    ({ s with params := setParam s.params n v' }, doneCode (v' == v), .value v')
  | none => (s, .noSuch, .none)

/-- OPEN (R189). -/
def doOpen (s : State) : Served :=
  if s.sites.isEmpty then (s, .wrongState, .none) else ({ s with phase := .service }, .done, .none)

/-- A site after RESTART (R108). -/
def restartSite (x : Site) : Site :=
  { x with state := .down, condition := none, count := 0, overFlag := false, syncLost := false, queue := [] }

/-- A group after RESTART (R127). -/
def restartGroup (g : Group) : Group :=
  { g with counts := [], total := 0, recallState := .off, unreached := 0, activeCall := none }

/-- The frame that a RESTART leaves to be sent to its end: one already so left, otherwise the head entry where its
frame is partly clocked out (R191; DESIGN CHOICE, log entry 8). -/
def residueAfter (s : State) (headPartlySent : Bool) : Option SiteOut :=
  match s.siteResidue with
  | some f => some f
  | none => if headPartlySent then s.outbound.head? else none

/-- RESTART (R191). -/
def doRestart (headPartlySent : Bool) (s : State) : Served :=
  ({ s with
      radios := [], calls := [], bulk := none, bulkWaiting := none, bulkLast := none,
      sites := s.sites.map fun (p : Nat × Site) => (p.1, restartSite p.2),
      groups := s.groups.map fun (p : Nat × Group) => (p.1, restartGroup p.2),
      siteResidue := residueAfter s headPartlySent, outbound := [],
      notices := [], noticeOverflow := false, answerLost := false, phase := .config },
    .done, .none)

/-! ### Lookups (R154 to R157, R162, R163, R172) -/

/-- LOCATE (R154). -/
def doLocate (u : Nat) (s : State) : Served :=
  match findRadio s u with
  | some r => (s, .done, .locate (locateReply s u r))
  | none => (s, .noSuch, .none)

/-- SITE-QUERY (R155). -/
def doSiteQuery (n : Nat) (s : State) : Served :=
  match findSite s n with
  | some x => (s, .done, .site (siteReply s n x))
  | none => (s, .noSuch, .none)

/-- GROUP-QUERY (R156). -/
def doGroupQuery (g : Nat) (s : State) : Served :=
  match findGroup s g with
  | some x => (s, .done, .group (groupReply s g x))
  | none => (s, .noSuch, .none)

/-- CALL-QUERY (R157). -/
def doCallQuery (c : Nat) (s : State) : Served :=
  match findCall s c with
  | some x => (s, .done, .call (callReply s c x))
  | none => (s, .noSuch, .none)

/-- BULK-STATUS (R172). -/
def doBulkStatus (s : State) : Served := (s, .done, .bulk (bulkReply s))

/-- NEXT-NOTICE (R162). -/
def doNextNotice (s : State) : Served :=
  match s.notices with
  | n :: rest => ({ s with notices := rest }, .done, .notice rest.length n)
  | [] => (s, .none, .none)

/-- PORT-STATUS (R163). -/
def doPortStatus (s : State) : Served :=
  ({ s with noticeOverflow := false, answerLost := false }, .done, .port (portReply s))

/-! ### Requests that change records and calls (R158) -/

/-- FORCE-RELEASE (R21, R158). -/
def doForceRelease (u : Nat) (s : State) : Served :=
  match findRadio s u with
  | some _ => (forceRelease s u, .done, .none)
  | none => (s, .noSuch, .none)

/-- CLEAR-EMERGENCY (R24, R158). -/
def doClearEmergency (u : Nat) (s : State) : Served :=
  match findRadio s u with
  | some r =>
    if r.emergency.isNone then (s, .wrongState, .none)
    else
      let s1 := modRadio s u fun r => { r with emergency := none }
      (if r.state = .joining ∧ r.burst = none then freeRecord s1 u else s1, .done, .none)
  | none => (s, .noSuch, .none)

/-- CLEAR-LOST (R18, R158). -/
def doClearLost (u : Nat) (s : State) : Served :=
  match findRadio s u with
  | some r =>
    if stateName r.state = .lost ∧ r.emergency = none then (freeRecord s u, .done, .none)
    else (s, .wrongState, .none)
  | none => (s, .noSuch, .none)

/-- SET-GROUPS (R120, R158). -/
def doSetGroups (u : Nat) (l : List Nat) (s : State) : Served :=
  match findRadio s u with
  | some r =>
    match servingSite r.state with
    | some a =>
      let new := trimGroups s l
      let s1 := modRadio (changeGroupList s u new) u fun r => { r with regroup := .ordered }
      let s2 := sendOrdinary s1 a (.regroup a u new)
      let s3 := match pendingSite r.state with
        | some p => sendOrdinary s2 p (.regroup p u new)
        | none => s2
      (s3, doneCode (new.length == l.length), .none)
    | none => (s, .wrongState, .none)
  | none => (s, .noSuch, .none)

/-- CLEAR-REGROUP (R121, R158). -/
def doClearRegroup (u : Nat) (s : State) : Served :=
  match findRadio s u with
  | some _ => (modRadio s u fun r => { r with regroup := .none }, .done, .none)
  | none => (s, .noSuch, .none)

/-- FORCE-END (R145). -/
def doForceEnd (c : Nat) (s : State) : Served :=
  match findCall s c with
  | some _ => (endCall s c, .done, .none)
  | none => (s, .noSuch, .none)

/-! ### Bulk requests (R166, R169, R170, R173 to R177) -/

/-- A bulk request's answer carries nothing beyond its code. -/
def bulkServed (p : State × Code) : Served := (p.1, p.2, .none)

/-- ROSTER (R173). -/
def doRoster (wait : Bool) (form value start limit : Nat) (s : State) : Served :=
  match filterOf s form value with
  | some f => bulkServed (admitBulk s (.roster f start (min Config.maxRoster limit)) wait (decide (Config.maxRoster < limit)))
  | none => (s, .noSuch, .none)

/-- RECALL (R123, R174). -/
def doRecall (wait : Bool) (g : Nat) (s : State) : Served :=
  if groupConfigured s g then bulkServed (admitBulk s (.recallGroup g) wait false) else (s, .noSuch, .none)

/-- CANCEL-RECALL (R125, R174). -/
def doCancelRecall (wait : Bool) (g : Nat) (s : State) : Served :=
  if groupConfigured s g then bulkServed (admitBulk s (.cancelRecall g) wait false) else (s, .noSuch, .none)

/-- EVACUATE (R175). -/
def doEvacuate (wait : Bool) (n : Nat) (s : State) : Served :=
  if siteConfigured s n then bulkServed (admitBulk s (.evacuate n) wait false) else (s, .noSuch, .none)

/-- RESYNC (R176). -/
def doResync (wait : Bool) (n : Nat) (s : State) : Served :=
  if siteConfigured s n then bulkServed (admitBulk s (.resync n) wait false) else (s, .noSuch, .none)

/-- PURGE (R177). -/
def doPurge (wait : Bool) (s : State) : Served := bulkServed (admitBulk s .purge wait false)

/-- BULK-SUSPEND (R169). -/
def doBulkSuspend (s : State) : Served :=
  match s.bulk with
  | some b =>
    if b.suspended then (s, .wrongState, .none)
    else (modBulk s fun b => { b with suspended := true }, .done, .none)
  | none => (s, .wrongState, .none)

/-- BULK-RESUME (R169). -/
def doBulkResume (s : State) : Served :=
  match s.bulk with
  | some b =>
    if b.suspended then (modBulk s fun b => { b with suspended := false }, .done, .none)
    else (s, .wrongState, .none)
  | none => (s, .wrongState, .none)

/-- BULK-ABORT of scope CURRENT (R170). -/
def abortCurrent (kind : Nat) (s : State) : Served :=
  match s.bulk with
  | some b => if bulkKind b.op = kind then (endBulk s b false, .done, .none) else (s, .wrongState, .none)
  | none => (s, .wrongState, .none)

/-- BULK-ABORT of scope WAITING (R170). -/
def abortWaiting (kind : Nat) (s : State) : Served :=
  match s.bulkWaiting with
  | some op => if bulkKind op = kind then ({ s with bulkWaiting := none }, .done, .none) else (s, .wrongState, .none)
  | none => (s, .wrongState, .none)

/-- BULK-ABORT (R170). -/
def doBulkAbort (scope kind : Nat) (s : State) : Served :=
  match scope with
  | 1 => abortCurrent kind s
  | 2 => abortWaiting kind s
  | _ => (s, .wrongState, .none)

end Sys2Proof.Machine
end

