-- ==== Sys2Proof/Machine/RequestCommands.lean ====
section
/-! DEFINITION. The commands that take the request at the head of the Dispatch Port's inbound queue (R151, R152): one
definition for each request. A command whose request is not at the head, or finds no room for its answer, does not
come about: the state stays as it is (DESIGN CHOICE, log entry 4). -/

namespace Sys2Proof.Machine

open Host (Outcome)

/-- A rejected, unrecognised or misfitting request is taken and answered FRAME-REJECT (R152). -/
def execRejectedRequest (s : State) : Outcome State Fault Refusal :=
  match s.requests with
  | e :: rest =>
    if canTakeRequest s && (entryRequest e).isNone then
      .next (pushAnswer { s with requests := rest } e .frameReject .none)
    else .next s
  | [] => .next s

/-- DEFINE-SITE is taken. -/
def execDefineSite (s : State) : Outcome State Fault Refusal :=
  .next (serve s .configOnly fun q => match q with
    | .defineSite n c v b h i o => some (doDefineSite n c v b h i o)
    | _ => none)

/-- SET-SITE is taken. -/
def execSetSite (s : State) : Outcome State Fault Refusal :=
  .next (serve s .both fun q => match q with
    | .setSite n c v b h i o => some (doSetSite n c v b h i o)
    | _ => none)

/-- SET-NEIGHBOURS is taken. -/
def execSetNeighbours (s : State) : Outcome State Fault Refusal :=
  .next (serve s .both fun q => match q with
    | .setNeighbours n l => some (doSetNeighbours n l)
    | _ => none)

/-- UNDEFINE-SITE is taken. -/
def execUndefineSite (s : State) : Outcome State Fault Refusal :=
  .next (serve s .configOnly fun q => match q with
    | .undefineSite n => some (doUndefineSite n)
    | _ => none)

/-- DEFINE-GROUP is taken. -/
def execDefineGroup (s : State) : Outcome State Fault Refusal :=
  .next (serve s .configOnly fun q => match q with
    | .defineGroup g p l => some (doDefineGroup g p l)
    | _ => none)

/-- SET-GROUP is taken. -/
def execSetGroup (s : State) : Outcome State Fault Refusal :=
  .next (serve s .both fun q => match q with
    | .setGroup g p l => some (doSetGroup g p l)
    | _ => none)

/-- UNDEFINE-GROUP is taken. -/
def execUndefineGroup (s : State) : Outcome State Fault Refusal :=
  .next (serve s .configOnly fun q => match q with
    | .undefineGroup g => some (doUndefineGroup g)
    | _ => none)

/-- SET-PARAMETER is taken. -/
def execSetParameter (s : State) : Outcome State Fault Refusal :=
  .next (serve s .both fun q => match q with
    | .setParameter n v => some (doSetParameter n v)
    | _ => none)

/-- OPEN is taken. -/
def execOpenService (s : State) : Outcome State Fault Refusal :=
  .next (serve s .configOnly fun q => match q with
    | .openService => some (doOpen)
    | _ => none)

/-- RESTART is taken. -/
def execRestart (headPartlySent : Bool) (s : State) : Outcome State Fault Refusal :=
  .next (serve s .both fun q => match q with
    | .restart => some (doRestart headPartlySent)
    | _ => none)

/-- LOCATE is taken. -/
def execLocate (s : State) : Outcome State Fault Refusal :=
  .next (serve s .both fun q => match q with
    | .locate u => some (doLocate u)
    | _ => none)

/-- SITE-QUERY is taken. -/
def execSiteQuery (s : State) : Outcome State Fault Refusal :=
  .next (serve s .both fun q => match q with
    | .siteQuery n => some (doSiteQuery n)
    | _ => none)

/-- GROUP-QUERY is taken. -/
def execGroupQuery (s : State) : Outcome State Fault Refusal :=
  .next (serve s .both fun q => match q with
    | .groupQuery g => some (doGroupQuery g)
    | _ => none)

/-- CALL-QUERY is taken. -/
def execCallQuery (s : State) : Outcome State Fault Refusal :=
  .next (serve s .both fun q => match q with
    | .callQuery c => some (doCallQuery c)
    | _ => none)

/-- BULK-STATUS is taken. -/
def execBulkStatus (s : State) : Outcome State Fault Refusal :=
  .next (serve s .both fun q => match q with
    | .bulkStatus => some (doBulkStatus)
    | _ => none)

/-- NEXT-NOTICE is taken. -/
def execNextNotice (s : State) : Outcome State Fault Refusal :=
  .next (serve s .both fun q => match q with
    | .nextNotice => some (doNextNotice)
    | _ => none)

/-- PORT-STATUS is taken. -/
def execPortStatus (s : State) : Outcome State Fault Refusal :=
  .next (serve s .both fun q => match q with
    | .portStatus => some (doPortStatus)
    | _ => none)

/-- FORCE-RELEASE is taken. -/
def execForceRelease (s : State) : Outcome State Fault Refusal :=
  .next (serve s .serviceOnly fun q => match q with
    | .forceRelease u => some (doForceRelease u)
    | _ => none)

/-- CLEAR-EMERGENCY is taken. -/
def execClearEmergency (s : State) : Outcome State Fault Refusal :=
  .next (serve s .serviceOnly fun q => match q with
    | .clearEmergency u => some (doClearEmergency u)
    | _ => none)

/-- CLEAR-LOST is taken. -/
def execClearLost (s : State) : Outcome State Fault Refusal :=
  .next (serve s .serviceOnly fun q => match q with
    | .clearLost u => some (doClearLost u)
    | _ => none)

/-- SET-GROUPS is taken. -/
def execSetGroups (s : State) : Outcome State Fault Refusal :=
  .next (serve s .serviceOnly fun q => match q with
    | .setGroups u l => some (doSetGroups u l)
    | _ => none)

/-- CLEAR-REGROUP is taken. -/
def execClearRegroup (s : State) : Outcome State Fault Refusal :=
  .next (serve s .serviceOnly fun q => match q with
    | .clearRegroup u => some (doClearRegroup u)
    | _ => none)

/-- FORCE-END is taken. -/
def execForceEnd (s : State) : Outcome State Fault Refusal :=
  .next (serve s .serviceOnly fun q => match q with
    | .forceEnd c => some (doForceEnd c)
    | _ => none)

/-- ROSTER is taken. -/
def execRoster (s : State) : Outcome State Fault Refusal :=
  .next (serve s .serviceOnly fun q => match q with
    | .roster w form value start limit => some (doRoster w form value start limit)
    | _ => none)

/-- RECALL is taken. -/
def execRecall (s : State) : Outcome State Fault Refusal :=
  .next (serve s .serviceOnly fun q => match q with
    | .recallGroup w g => some (doRecall w g)
    | _ => none)

/-- CANCEL-RECALL is taken. -/
def execCancelRecall (s : State) : Outcome State Fault Refusal :=
  .next (serve s .serviceOnly fun q => match q with
    | .cancelRecall w g => some (doCancelRecall w g)
    | _ => none)

/-- EVACUATE is taken. -/
def execEvacuate (s : State) : Outcome State Fault Refusal :=
  .next (serve s .serviceOnly fun q => match q with
    | .evacuate w n => some (doEvacuate w n)
    | _ => none)

/-- RESYNC is taken. -/
def execResync (s : State) : Outcome State Fault Refusal :=
  .next (serve s .serviceOnly fun q => match q with
    | .resync w n => some (doResync w n)
    | _ => none)

/-- PURGE is taken. -/
def execPurge (s : State) : Outcome State Fault Refusal :=
  .next (serve s .serviceOnly fun q => match q with
    | .purge w => some (doPurge w)
    | _ => none)

/-- BULK-SUSPEND is taken. -/
def execBulkSuspend (s : State) : Outcome State Fault Refusal :=
  .next (serve s .serviceOnly fun q => match q with
    | .bulkSuspend => some (doBulkSuspend)
    | _ => none)

/-- BULK-RESUME is taken. -/
def execBulkResume (s : State) : Outcome State Fault Refusal :=
  .next (serve s .serviceOnly fun q => match q with
    | .bulkResume => some (doBulkResume)
    | _ => none)

/-- BULK-ABORT is taken. -/
def execBulkAbort (s : State) : Outcome State Fault Refusal :=
  .next (serve s .serviceOnly fun q => match q with
    | .bulkAbort scope kind => some (doBulkAbort scope kind)
    | _ => none)

end Sys2Proof.Machine
end

