-- ==== Sys2Proof/Machine/SiteCommands.lean ====
section
/-! DEFINITION. The commands that take the frame at the head of the Site Port inbound queue. A report, an answer
or a call request is taken only while the outbound queue has room for the one frame it may call for (R186). A
command whose frame is not at the head, or has no such room, does not come about: the state stays as it is
(DESIGN CHOICE, log entry 4). -/

namespace Sys2Proof.Machine

open Host (Outcome)

/-- A REG report is taken. -/
def execReg (s : State) : Outcome State Fault Refusal :=
  match s.siteIn with
  | .reg site unit seq first quality groups :: rest =>
    if hasRoom s 1 then
      .next (takeReport { s with siteIn := rest }
        { site := site, unit := unit, seq := seq, quality := quality, first := first, groups := some groups, emerg := false })
    else .next s
  | _ => .next s

/-- A HEARD report is taken. -/
def execHeard (s : State) : Outcome State Fault Refusal :=
  match s.siteIn with
  | .heard site unit seq quality :: rest =>
    if hasRoom s 1 then
      .next (takeReport { s with siteIn := rest }
        { site := site, unit := unit, seq := seq, quality := quality, first := false, groups := none, emerg := false })
    else .next s
  | _ => .next s

/-- An EMERG report is taken. -/
def execEmerg (s : State) : Outcome State Fault Refusal :=
  match s.siteIn with
  | .emerg site unit seq quality :: rest =>
    if hasRoom s 1 then
      .next (takeReport { s with siteIn := rest }
        { site := site, unit := unit, seq := seq, quality := quality, first := false, groups := none, emerg := true })
    else .next s
  | _ => .next s

/-- A DEREG report is taken. -/
def execDereg (s : State) : Outcome State Fault Refusal :=
  match s.siteIn with
  | .dereg site unit seq :: rest =>
    if hasRoom s 1 then .next (takeDeregReport { s with siteIn := rest } site unit seq) else .next s
  | _ => .next s

/-- A READY answer is taken. -/
def execReady (s : State) : Outcome State Fault Refusal :=
  match s.siteIn with
  | .ready site unit tag :: rest =>
    if hasRoom s 1 then .next (takeReady { s with siteIn := rest } site unit tag) else .next s
  | _ => .next s

/-- A QUIESCED answer is taken. -/
def execQuiesced (s : State) : Outcome State Fault Refusal :=
  match s.siteIn with
  | .quiesced site unit tag :: rest =>
    if hasRoom s 1 then .next (takeQuiesced { s with siteIn := rest } site unit tag) else .next s
  | _ => .next s

/-- A DECLINE answer is taken; its reason is not kept (R73). -/
def execDecline (s : State) : Outcome State Fault Refusal :=
  match s.siteIn with
  | .decline site unit tag _ :: rest =>
    if hasRoom s 1 then .next (takeDecline { s with siteIn := rest } site unit tag) else .next s
  | _ => .next s

/-- A SITE-STATUS is taken, without waiting for room (R90). -/
def execSiteStatus (s : State) : Outcome State Fault Refusal :=
  match s.siteIn with
  | .status site condition :: rest => .next (takeStatus { s with siteIn := rest } site condition)
  | _ => .next s

/-- A CALL-REQUEST is taken. -/
def execCallRequest (s : State) : Outcome State Fault Refusal :=
  match s.siteIn with
  | .callRequest site group unit :: rest =>
    if hasRoom s 1 then .next (takeCallRequest { s with siteIn := rest } site group unit) else .next s
  | _ => .next s

/-- A CALL-END is taken, without waiting for room (R130). -/
def execCallEnd (s : State) : Outcome State Fault Refusal :=
  match s.siteIn with
  | .callEnd site call :: rest => .next (takeCallEnd { s with siteIn := rest } site call)
  | _ => .next s

end Sys2Proof.Machine
end

