-- ==== Sys2Proof/Machine/Dispatch.lean ====
section
/-! DEFINITION. The dispatch of commands to their meanings: one arm for each row of spec/opcode_table.json. -/

namespace Sys2Proof.Machine

open Host (Outcome)

def exec (i : Instr) (s : State) : Host.Outcome State Fault Refusal :=
  match i with
  | .siteFrameReceived bytes => Sys2Proof.Machine.execSiteFrameReceived bytes s
  | .dispatchFrameReceived bytes => Sys2Proof.Machine.execDispatchFrameReceived bytes s
  | .outboundEntrySent => Sys2Proof.Machine.execOutboundEntrySent s
  | .answerSent => Sys2Proof.Machine.execAnswerSent s
  | .powerOnReset => Sys2Proof.Machine.execPowerOnReset s
  | .reg => Sys2Proof.Machine.execReg s
  | .heard => Sys2Proof.Machine.execHeard s
  | .emerg => Sys2Proof.Machine.execEmerg s
  | .dereg => Sys2Proof.Machine.execDereg s
  | .ready => Sys2Proof.Machine.execReady s
  | .quiesced => Sys2Proof.Machine.execQuiesced s
  | .decline => Sys2Proof.Machine.execDecline s
  | .siteStatus => Sys2Proof.Machine.execSiteStatus s
  | .callRequest => Sys2Proof.Machine.execCallRequest s
  | .callEnd => Sys2Proof.Machine.execCallEnd s
  | .settleExpiry unit => Sys2Proof.Machine.execSettleExpiry unit s
  | .handoverDeadlineExpiry unit => Sys2Proof.Machine.execHandoverDeadlineExpiry unit s
  | .leaseExpiry unit => Sys2Proof.Machine.execLeaseExpiry unit s
  | .presumeHoldExpiry unit => Sys2Proof.Machine.execPresumeHoldExpiry unit s
  | .retireHoldExpiry unit => Sys2Proof.Machine.execRetireHoldExpiry unit s
  | .heartbeatExpiry site => Sys2Proof.Machine.execHeartbeatExpiry site s
  | .hangExpiry call => Sys2Proof.Machine.execHangExpiry call s
  | .queueHoldExpiry site call => Sys2Proof.Machine.execQueueHoldExpiry site call s
  | .bulkStep => Sys2Proof.Machine.execBulkStep s
  | .rejectedRequest => Sys2Proof.Machine.execRejectedRequest s
  | .defineSite => Sys2Proof.Machine.execDefineSite s
  | .setSite => Sys2Proof.Machine.execSetSite s
  | .setNeighbours => Sys2Proof.Machine.execSetNeighbours s
  | .undefineSite => Sys2Proof.Machine.execUndefineSite s
  | .defineGroup => Sys2Proof.Machine.execDefineGroup s
  | .setGroup => Sys2Proof.Machine.execSetGroup s
  | .undefineGroup => Sys2Proof.Machine.execUndefineGroup s
  | .setParameter => Sys2Proof.Machine.execSetParameter s
  | .openService => Sys2Proof.Machine.execOpenService s
  | .restart headPartlySent => Sys2Proof.Machine.execRestart headPartlySent s
  | .locate => Sys2Proof.Machine.execLocate s
  | .siteQuery => Sys2Proof.Machine.execSiteQuery s
  | .groupQuery => Sys2Proof.Machine.execGroupQuery s
  | .callQuery => Sys2Proof.Machine.execCallQuery s
  | .bulkStatus => Sys2Proof.Machine.execBulkStatus s
  | .nextNotice => Sys2Proof.Machine.execNextNotice s
  | .portStatus => Sys2Proof.Machine.execPortStatus s
  | .forceRelease => Sys2Proof.Machine.execForceRelease s
  | .clearEmergency => Sys2Proof.Machine.execClearEmergency s
  | .clearLost => Sys2Proof.Machine.execClearLost s
  | .setGroups => Sys2Proof.Machine.execSetGroups s
  | .clearRegroup => Sys2Proof.Machine.execClearRegroup s
  | .forceEnd => Sys2Proof.Machine.execForceEnd s
  | .roster => Sys2Proof.Machine.execRoster s
  | .recallGroup => Sys2Proof.Machine.execRecall s
  | .cancelRecall => Sys2Proof.Machine.execCancelRecall s
  | .evacuate => Sys2Proof.Machine.execEvacuate s
  | .resync => Sys2Proof.Machine.execResync s
  | .purge => Sys2Proof.Machine.execPurge s
  | .bulkSuspend => Sys2Proof.Machine.execBulkSuspend s
  | .bulkResume => Sys2Proof.Machine.execBulkResume s
  | .bulkAbort => Sys2Proof.Machine.execBulkAbort s

end Sys2Proof.Machine
end

