-- ==== Sys2Proof/Machine/Step.lean ====
section
/-! DEFINITION. One step of the part: the waiting command at the front, and with none waiting what time brings. -/

namespace Sys2Proof.Machine

open Host (Outcome)

/-- One step. The command at the front of the queue runs on the state with the queue's rest. On an empty queue time
acts: a deadline that part time has reached expires, and where none is due part time rises by a tenth of a second
(R187; log entry 1). -/
def step (s : State) : Outcome State Fault Refusal :=
  match s.pending with
  | c :: rest => exec c { s with pending := rest }
  | [] =>
    match chosenDue s with
    | some d => exec d (countChoice s)
    | none => .next (tick s)

/-- s with the command that a word spells at the front of its queue. No row of the table has bits, so no word spells a
command and s is unchanged. -/
def State.withFetchWord (s : State) (nbits w : Nat) : State :=
  match decodeTableWord nbits w with
  | some c => { s with pending := c :: s.pending }
  | none => s

end Sys2Proof.Machine
end

