-- ==== Sys2Proof/Safety.lean ====
section
/-! DEFINITION. The words in which claims about the part are stated: the fields outside the blocks' records, a frame or
request that stands ready to be taken, what a taken one leaves, and the invariants of the records, tables and queues. -/

namespace Sys2Proof.Machine

/-! ### The fields that are no block's records -/

/-- The phase, part time, the parameters, both ports but for the outbound queue and the notices, and the model's own
fields. -/
structure Outer where
  phase : Phase
  partTime : Nat
  params : Params
  siteRx : Receiver
  siteIn : List SiteMsg
  siteSent : List Byte
  siteResidue : Option SiteOut
  dispatchRx : Receiver
  requests : List RequestEntry
  answers : List Answer
  dispatchSent : List Byte
  answerLost : Bool
  pending : List Instr
  choices : Nat
deriving DecidableEq, Repr

/-- Those fields of a state. -/
def outer (s : State) : Outer :=
  { phase := s.phase, partTime := s.partTime, params := s.params, siteRx := s.siteRx, siteIn := s.siteIn,
    siteSent := s.siteSent, siteResidue := s.siteResidue, dispatchRx := s.dispatchRx, requests := s.requests,
    answers := s.answers, dispatchSent := s.dispatchSent, answerLost := s.answerLost, pending := s.pending,
    choices := s.choices }

/-- The Bulk Engine's fields. -/
def engine (s : State) : Option BulkRun × Option BulkOp × Option (BulkAccount × Nat) := (s.bulk, s.bulkWaiting, s.bulkLast)

/-- The Bulk Engine's fields but for the gap marker, which a dropped ADOPT of any block sets while a RESYNC of its site exists
(R176). -/
def engineButGap (s : State) : Option BulkRun × Option BulkOp × Option (BulkAccount × Nat) :=
  (s.bulk.map fun b => { b with gap := false }, s.bulkWaiting, s.bulkLast)

/-! ### Commands by their ports -/

/-- The commands that take a frame from the Site Port's inbound queue. -/
def takesSiteFrame : Instr → Bool
  | .reg | .heard | .emerg | .dereg | .ready | .quiesced | .decline | .siteStatus | .callRequest | .callEnd => true
  | _ => false

/-- The commands that a deadline brings about. -/
def isExpiry : Instr → Bool
  | .settleExpiry _ | .handoverDeadlineExpiry _ | .leaseExpiry _ | .presumeHoldExpiry _ | .retireHoldExpiry _
  | .heartbeatExpiry _ | .hangExpiry _ | .queueHoldExpiry _ _ => true
  | _ => false

/-- The command that takes a request. -/
def takenBy : Request → Instr
  | .defineSite _ _ _ _ _ _ _ => .defineSite
  | .setSite _ _ _ _ _ _ _ => .setSite
  | .setNeighbours _ _ => .setNeighbours
  | .undefineSite _ => .undefineSite
  | .defineGroup _ _ _ => .defineGroup
  | .setGroup _ _ _ => .setGroup
  | .undefineGroup _ => .undefineGroup
  | .setParameter _ _ => .setParameter
  | .openService => .openService
  | .restart => .restart false
  | .locate _ => .locate
  | .siteQuery _ => .siteQuery
  | .groupQuery _ => .groupQuery
  | .callQuery _ => .callQuery
  | .bulkStatus => .bulkStatus
  | .nextNotice => .nextNotice
  | .portStatus => .portStatus
  | .forceRelease _ => .forceRelease
  | .clearEmergency _ => .clearEmergency
  | .clearLost _ => .clearLost
  | .setGroups _ _ => .setGroups
  | .clearRegroup _ => .clearRegroup
  | .forceEnd _ => .forceEnd
  | .roster _ _ _ _ _ => .roster
  | .recallGroup _ _ => .recallGroup
  | .cancelRecall _ _ => .cancelRecall
  | .evacuate _ _ => .evacuate
  | .resync _ _ => .resync
  | .purge _ => .purge
  | .bulkSuspend => .bulkSuspend
  | .bulkResume => .bulkResume
  | .bulkAbort _ _ => .bulkAbort

/-- The requests allowed in CONFIG phase alone (R104, R107, R111, R113, R189). -/
def configRequest : Request → Bool
  | .defineSite _ _ _ _ _ _ _ | .undefineSite _ | .defineGroup _ _ _ | .undefineGroup _ | .openService => true
  | _ => false

/-- The requests allowed in SERVICE phase alone (R152). -/
def serviceRequest : Request → Bool
  | .forceRelease _ | .clearEmergency _ | .clearLost _ | .setGroups _ _ | .clearRegroup _ | .forceEnd _
  | .roster _ _ _ _ _ | .recallGroup _ _ | .cancelRecall _ _ | .evacuate _ _ | .resync _ _ | .purge _ | .bulkSuspend
  | .bulkResume | .bulkAbort _ _ => true
  | _ => false

/-! ### Taking a request -/

/-- The head of the inbound request queue is e, with `rest` behind it; it holds the request q, and the Dispatch Port may
take it: an answer has room (R151), and no RESTART's answer is still in the answer queue (R191). -/
def requestReady (s : State) (e : RequestEntry) (rest : List RequestEntry) (q : Request) : Prop :=
  s.requests = e :: rest ∧ entryRequest e = some q ∧ s.answers.length < 32 ∧
    ∀ a ∈ s.answers, ¬(a.kind = 0x1A#8 ∧ a.code = .done)

/-- The request at the head has left the queue, and its answer stands at the tail of the answer queue (R151, R153). -/
def answered (s : State) (e : RequestEntry) (rest : List RequestEntry) (code : Code) (content : Content) : State :=
  { s with
    requests := rest
    answers := s.answers ++ [{ number := entryNumber e, kind := e.kind, code := code, content := content }] }

/-- A bulk operation that has taken no step: its cursor at the start given, every count 0, and no page, wait or gap (R165,
R166). -/
def startedAt (op : BulkOp) (cursor : Nat) : BulkRun :=
  { op := op, suspended := false, cursor := cursor, visited := 0, counters := { c1 := 0, c2 := 0, c3 := 0, c4 := 0 },
    page := [], more := false, roomWait := false, gap := false }

/-! ### Taking a report -/

/-- The outbound queue has room for one more frame beside the handover reserve (R185, the measure for a RECEIPT). -/
def roomForOne (s : State) : Prop := s.outbound.length + 2 * movingCount s + 1 ≤ 512

/-- The command that takes a report, and the report's site, unit and sequence. -/
def reportHead : SiteMsg → Option (Instr × Nat × Nat × Nat)
  | .reg site unit seq _ _ _ => some (.reg, site, unit, seq)
  | .heard site unit seq _ => some (.heard, site, unit, seq)
  | .emerg site unit seq _ => some (.emerg, site, unit, seq)
  | .dereg site unit seq => some (.dereg, site, unit, seq)
  | _ => none

/-- The part is in SERVICE, and site n is configured and UP or DEGRADED (R27, R68). -/
def admitted (s : State) (n : Nat) : Prop :=
  s.phase = .service ∧ wfSite n = true ∧ ∃ x, tget s.sites n = some x ∧ working x.state = true

/-- The frame at the head has left the inbound queue, and one receipt without optional parts stands at the tail of the
outbound queue (R26, R43). -/
def receipted (s : State) (rest : List SiteMsg) (site unit seq : Nat) (code : ReceiptCode) : State :=
  { s with siteIn := rest, outbound := s.outbound ++ [.receipt site unit seq code [] none] }

/-- The burst that a copy opens (R30). -/
def newBurst (s : State) (site seq : Nat) (first : Bool) (reported : Option (List Nat)) (emergency : Option Nat) : Burst :=
  { seq := seq, emergency := emergency, first := first, reported := reported, openedAt := s.partTime, sites := [site],
    settle := s.partTime + s.params.settleTime }

/-- The record that a copy creates (R3, R6). -/
def newRecord (s : State) (site seq quality : Nat) (b : Burst) : Radio :=
  { state := .joining, groups := [], regroup := .none, lastSeq := seq, burst := some b, prev := none,
    hearing := [{ site := site, quality := quality, heard := s.partTime, confirmed := true, backoff := none }],
    lastHandover := none, emergency := none }

/-! ### Copies of a burst -/

/-- A REG, HEARD or EMERG frame: the command that takes it, and its fields as a copy (section 2.1). -/
def copyHead : SiteMsg → Option (Instr × Copy)
  | .reg site unit seq first quality groups =>
    some (.reg, { site := site, unit := unit, seq := seq, quality := quality, first := first, groups := some groups, emerg := false })
  | .heard site unit seq quality =>
    some (.heard, { site := site, unit := unit, seq := seq, quality := quality, first := false, groups := none, emerg := false })
  | .emerg site unit seq quality =>
    some (.emerg, { site := site, unit := unit, seq := seq, quality := quality, first := false, groups := none, emerg := true })
  | _ => none

/-- A first-flagged copy at distance 0 belongs to the burst that the record has or has just had (R28). -/
def ownBurst (r : Radio) (seq : Nat) : Prop :=
  (∃ b, r.burst = some b ∧ b.first = true) ∨ (r.burst = none ∧ ∃ p, r.prev = some p ∧ p.seq = seq)

/-- The copy is newer than the record (R28). -/
def newerCopy (r : Radio) (k : Copy) : Prop :=
  (k.first = false ∧ 1 ≤ (k.seq + 16 - r.lastSeq) % 16 ∧ (k.seq + 16 - r.lastSeq) % 16 ≤ 8) ∨
    (k.first = true ∧ ¬((k.seq + 16 - r.lastSeq) % 16 = 0 ∧ ownBurst r k.seq))

/-- The copy has the record's last sequence and is not newer (R28). -/
def sameCopy (r : Radio) (k : Copy) : Prop :=
  (k.seq + 16 - r.lastSeq) % 16 = 0 ∧ (k.first = true → ownBurst r k.seq)

/-- Whether a copy's receipt may carry optional parts: a copy of kind REG or EMERG (R43). -/
def carriesParts (k : Copy) : Bool := k.groups.isSome || k.emerg

/-- The ordered list that the receipt of a REG or EMERG copy carries (R45). -/
def orderFor (s : State) (r : Radio) (k : Copy) : Option (List Nat) :=
  match r.regroup, k.groups with
  | .ordered, some l => if trimGroups s l = groupNumbers r.groups then none else some (groupNumbers r.groups)
  | .ordered, none => some (groupNumbers r.groups)
  | _, _ => none

/-- The receipt of a TAKEN or MERGED copy, for the record r as the copy's effect leaves it (R43 to R45). -/
def receiptOf (s : State) (r : Radio) (k : Copy) (code : ReceiptCode) : SiteOut :=
  if carriesParts k then
    .receipt k.site k.unit k.seq code (groupNumbers (r.groups.filter Membership.pending)) (orderFor s r k)
  else .receipt k.site k.unit k.seq code [] none

/-- The group list once that receipt is formed: what it carried is delivered (R44). -/
def deliveredTo (r : Radio) (k : Copy) : List Membership :=
  if carriesParts k then r.groups.map fun m => { m with pending := false } else r.groups

/-- The burst that the copy opens (R30). -/
def burstOf (s : State) (k : Copy) : Burst :=
  newBurst s k.site k.seq k.first k.groups (if k.emerg then some k.site else none)

/-! ### The close of a burst -/

/-- The previous burst set that the close of b forms (R37; its opened-at time by log entry 13). -/
def setOf (b : Burst) : PrevBurst := { seq := b.seq, sites := b.sites, openedAt := b.openedAt }

/-- The group numbers of a record once the close has applied a reported list (R119). -/
def listAfter (s : State) (r : Radio) (reported : Option (List Nat)) : List Nat :=
  match reported with
  | none => groupNumbers r.groups
  | some l => if r.regroup = .ordered then groupNumbers r.groups else trimGroups s l

/-- The regroup state once the close has applied a reported list (R119). -/
def regroupAfter (s : State) (r : Radio) (reported : Option (List Nat)) : Regroup :=
  match reported with
  | none => r.regroup
  | some l =>
    match r.regroup with
    | .none => .none
    | .ordered => if trimGroups s l = groupNumbers r.groups then .confirmed else .ordered
    | .confirmed => if trimGroups s l = groupNumbers r.groups then .confirmed else .none

/-- The emergency of a record once burst b closes at time t (R23). -/
def emergencyAfter (r : Radio) (b : Burst) (t : Nat) : Option Emergency :=
  match r.emergency, b.emergency with
  | some x, _ => some x
  | none, some n => some { since := t, site := n }
  | none, none => none

/-- Every entry of a changed group list is an old entry, or one gained with its flag set exactly while the group's recall
state is ACTIVE (R115). -/
def entriesFollow (s : State) (old new : List Membership) : Prop :=
  ∀ m ∈ new, m ∈ old ∨
    (m.group ∉ groupNumbers old ∧ (m.pending = true ↔ ∃ x, tget s.groups m.group = some x ∧ x.recallState = .active))

/-- What the close of burst b at time t makes of a record r besides its state (R37, R119, R23): r' has the list, the regroup
state and the emergency of the close, no burst, and the closed set as its previous set. -/
def closedBy (s : State) (r r' : Radio) (b : Burst) (t : Nat) : Prop :=
  groupNumbers r'.groups = listAfter s r b.reported ∧ entriesFollow s r.groups r'.groups ∧
    r' = { r with
      state := r'.state, groups := r'.groups, regroup := regroupAfter s r b.reported,
      emergency := emergencyAfter r b t, burst := none, prev := some (setOf b) }

/-- A newer copy or DEREG has left the inbound queue, f stands in the place of its receipt, and the settle deadline of the
burst b that it meets is now (R26, R31, R36): in this state the settle expiry does the work of the early close. -/
def atArrival (s : State) (rest : List SiteMsg) (f : SiteOut) (u : Nat) (r : Radio) (b : Burst) : State :=
  { s with
    siteIn := rest
    outbound := s.outbound ++ [f]
    radios := tput s.radios u { r with burst := some { b with settle := s.partTime } } }

/-! ### Recalls -/

/-- A notice raised now. -/
def timed (s : State) (x : NoticeBody) : Notice := { time := s.partTime, body := x }

/-- The clearing of one flag of group g completes its recall: the unreached count falls from 1 to 0 while the recall state is
ACTIVE and no RECALL of g is running or suspended (R124). -/
def completesRecall (s : State) (g : Nat) : Bool :=
  match tget s.groups g with
  | some x => x.unreached == 1 && x.recallState == .active && !(s.bulk.any fun b => b.op == .recallGroup g)
  | none => false

/-- The RECALL-COMPLETE notices of the clearing of the flags of a list (R124; their order by log entry 26). -/
def recallsDone (s : State) (l : List Membership) : List Notice :=
  ((groupNumbers (l.filter Membership.pending)).filter (completesRecall s)).map fun g => timed s (.recallComplete g)

/-- The groups of a list whose flags have been cleared have their unreached counts one lower, and no other group's count
moves (R122). -/
def unreachedAfter (s t : State) (l : List Membership) : Prop :=
  ∀ g, (tget t.groups g).map Group.unreached =
    (tget s.groups g).map fun x => if { group := g, pending := true } ∈ l then x.unreached - 1 else x.unreached

/-! ### Counts -/

/-- No group has an active call, so a count that rises from 0 is passed nowhere (R116). -/
def noActiveCalls (s : State) : Prop := ∀ p ∈ s.groups, p.2.activeCall = none

/-- Every group lists the sites of its member counts in ascending order. -/
def countsAscend (s : State) : Prop := ∀ p ∈ s.groups, Ascending p.2.counts

/-- One member count after a group list changes from `old` to `new` in a record counted at the sites `at_` (R115). -/
def shifted (old new at_ : List Nat) (g j count : Nat) : Nat :=
  if j ∈ at_ then
    if g ∈ old ∧ g ∉ new then count - 1 else if g ∉ old ∧ g ∈ new then count + 1 else count
  else count

/-! ### Site selection -/

/-- A hearing entry is an eligible handover target for a record served at a: its site x works, it is confirmed and not in
backoff, and x accepts and has room (R53). -/
def eligible (t a : Nat) (x : Site) (h : Hearing) : Prop :=
  h.site ≠ a ∧ working x.state = true ∧ h.confirmed = true ∧ (∀ y, h.backoff = some y → y ≤ t) ∧ x.acceptIn = true ∧
    x.count < x.capacity

/-- p is the best target, with score v: no other eligible one scores higher, nor equal with a lower number (R54). -/
def bestFor (s : State) (t : Nat) (inSet : List Nat) (a : Nat) (l : List Hearing) (p v : Nat) : Prop :=
  (∃ h ∈ l, ∃ x, h.site = p ∧ tget s.sites p = some x ∧ eligible t a x h ∧ score s t inSet false x h = v) ∧
    ∀ h ∈ l, ∀ x, tget s.sites h.site = some x → eligible t a x h →
      score s t inSet false x h < v ∨ (score s t inSet false x h = v ∧ p ≤ h.site)

/-- A hearing entry is a candidate for the adoption of a record in state st, in the tier and with the score given (R58,
R59). -/
def offers (s : State) (t : Nat) (inSet : List Nat) (st : RecordState) (h : Hearing) (tier v : Nat) : Prop :=
  ∃ x, tget s.sites h.site = some x ∧ working x.state = true ∧ h.confirmed = true ∧
    score s t inSet (decide (servingSite st = some h.site)) x h = v ∧
    let n' := if servingSite st = some h.site then x.count else x.count + 1
    (tier = 1 ∧ x.acceptIn = true ∧ n' ≤ x.capacity) ∨
      (tier = 2 ∧ x.acceptIn = true ∧ x.capacity < n' ∧ n' ≤ 255) ∨ (tier = 3 ∧ x.acceptIn = false ∧ n' ≤ 255)

/-- The site that ties of adoption prefer: the serving site of a PRESUMED record, or the last site of a LOST one (R60). -/
def ownSite : RecordState → Option Nat
  | .presumed a _ _ => some a
  | .lost n => some n
  | _ => none

/-! ### Sites -/

/-- The darkening of site n ends or commits the record's handover, so that the record no longer counts at n (R78, R79). -/
def leavesDark (n : Nat) (r : Radio) : Bool :=
  match r.state with
  | .moving a p _ k => if a = n then k.readySeen else p == n
  | _ => false

/-- The directive of the darkening of site n for the record of one unit: COMMIT to the to site of a handover that commits
(R78), CANCEL to the from site of one that is aborted (R79), where that site works and is not n. -/
def darkDirectives (s : State) (n : Nat) (p : Nat × Radio) : List SiteOut :=
  match p.2.state with
  | .moving a q _ k =>
    if a = n then (if k.readySeen = true ∧ q ≠ n ∧ siteWorks s q = true then [.commit q p.1 k.tag] else [])
    else if q = n ∧ siteWorks s a = true then [.cancel a p.1 k.tag] else []
  | _ => []

/-! ### Calls -/

/-- Every channel of site n is held. -/
def noChannelFree (s : State) (n : Nat) (z : Site) : Prop := ∀ ch, 1 ≤ ch → ch ≤ z.voice → ch ∈ channelsHeld s n

/-- Call v, with record y, is GRANTED channel ch at site n and is the one to preempt there: below EMERGENCY, of the lowest
priority, then granted latest, then on the higher channel (R136). -/
def victimAt (s : State) (n v : Nat) (y : Call) (ch since : Nat) : Prop :=
  tget s.calls v = some y ∧ tget y.map n = some (.granted ch since) ∧ y.priority ≠ .emergency ∧
    ∀ k w ch' since', k ≠ v → tget s.calls k = some w → tget w.map n = some (.granted ch' since') → w.priority ≠ .emergency →
      priorityRank y.priority < priorityRank w.priority ∨
        (y.priority = w.priority ∧ (since' < since ∨ (since' = since ∧ ch' < ch)))

/-- Call e, with record y, is the one that table exhaustion ends: below EMERGENCY, of the lowest priority, then created
earliest, then of the lower identifier (R133). -/
def endedForRoom (s : State) (e : Nat) (y : Call) : Prop :=
  tget s.calls e = some y ∧ y.priority ≠ .emergency ∧
    ∀ k w, k ≠ e → tget s.calls k = some w → w.priority ≠ .emergency →
      priorityRank y.priority < priorityRank w.priority ∨
        (y.priority = w.priority ∧ (y.created < w.created ∨ (y.created = w.created ∧ e < k)))

/-- The command i ends call c, with record x, in state s: at its hang deadline, by FORCE-END, or by a CALL-END with call hang
0 (R143 to R145). The state u is s once the frame or request has been taken. -/
def endsCall (s : State) (c : Nat) (x : Call) (i : Instr) (u : State) : Prop :=
  (i = .hangExpiry c ∧ (∃ d, x.state = .hang d ∧ d ≤ s.partTime) ∧ u = s) ∨
  (∃ e rest, i = .forceEnd ∧ s.phase = .service ∧ wfCall c = true ∧ requestReady s e rest (.forceEnd c) ∧
    u = answered s e rest .done .none) ∨
  (∃ n rest, i = .callEnd ∧ s.siteIn = .callEnd n c :: rest ∧ admitted s n ∧ wfCall c = true ∧ x.state = .active ∧
    x.origin = n ∧ s.params.callHang = 0 ∧ u = { s with siteIn := rest })

/-- The directives of the end of call c for one entry of its map: CALL-DROP to a working site where it is GRANTED, then
CALL-GRANT for the call at the head of that site's queue (R140, R144). -/
def endDirectives (s : State) (c : Nat) (p : Nat × CallStatus) : List SiteOut :=
  match p.2 with
  | .granted ch _ =>
    (if siteWorks s p.1 then [.callDrop p.1 c ch] else []) ++
      match channelQueue s p.1 with
      | k :: _ => [.callGrant p.1 k (((tget s.calls k).map Call.group).getD 0) ch]
      | [] => []
  | _ => []

/-- The number of sites of a map at which the call is GRANTED. -/
def grantsOf (map : Table CallStatus) : Nat := map.countP fun p => (heldChannel (some p.2)).isSome

/-! ### Bulk operations -/

/-- A record matches the filter of a ROSTER (R173). -/
def matchesFilter (r : Radio) : RosterFilter → Prop
  | .site n => servingSite r.state = some n
  | .group g => ∃ m ∈ r.groups, m.group = g
  | .cls (.inState n) => stateName r.state = n
  | .cls .counted => servingSite r.state ≠ none
  | .cls .emergency => r.emergency ≠ none
  | .cls .all => True

/-- The classes of a ROSTER as section 10.2 numbers them. -/
def rosterClasses : List (Nat × RosterClass) :=
  [(1, .inState .joining), (2, .inState .registered), (3, .inState .moving), (4, .inState .presumed), (5, .inState .lost),
   (6, .inState .retired), (7, .counted), (8, .emergency), (9, .all)]

/-- A ROSTER's form and value name a filter that exists (R173). -/
def namesFilter (s : State) (form value : Nat) (f : RosterFilter) : Prop :=
  (form = 1 ∧ f = .site value ∧ wfSite value = true ∧ tget s.sites value ≠ none) ∨
  (form = 2 ∧ f = .group value ∧ wfGroup value = true ∧ tget s.groups value ≠ none) ∨
  (form = 3 ∧ ∃ c, f = .cls c ∧ (value, c) ∈ rosterClasses)

/-- A bulk request carries the WAIT flag given and asks for operation op, whose parameters exist (R166). -/
def asksFor (s : State) (q : Request) (wait : Bool) (op : BulkOp) : Prop :=
  (∃ form value start limit f, q = .roster wait form value start limit ∧ namesFilter s form value f ∧
    op = .roster f start (min 32 limit)) ∨
  (∃ g, q = .recallGroup wait g ∧ op = .recallGroup g ∧ wfGroup g = true ∧ tget s.groups g ≠ none) ∨
  (∃ g, q = .cancelRecall wait g ∧ op = .cancelRecall g ∧ wfGroup g = true ∧ tget s.groups g ≠ none) ∨
  (∃ n, q = .evacuate wait n ∧ op = .evacuate n ∧ wfSite n = true ∧ tget s.sites n ≠ none) ∨
  (∃ n, q = .resync wait n ∧ op = .resync n ∧ wfSite n = true ∧ tget s.sites n ≠ none) ∨
  (q = .purge wait ∧ op = .purge)

/-- The operation b at the unit that a step visits (R167). -/
def atUnit (b : BulkRun) (u : Nat) : BulkRun :=
  { b with roomWait := false, cursor := u, visited := min 65535 (b.visited + 1) }

/-- The operation b with one of its four result counters raised (section 9.1). -/
def raised (b : BulkRun) (i : Nat) : BulkRun :=
  { b with counters :=
      match i with
      | 1 => { b.counters with c1 := min 65535 (b.counters.c1 + 1) }
      | 2 => { b.counters with c2 := min 65535 (b.counters.c2 + 1) }
      | 3 => { b.counters with c3 := min 65535 (b.counters.c3 + 1) }
      | _ => { b.counters with c4 := min 65535 (b.counters.c4 + 1) } }

/-- The state once operation b has ended with nothing waiting: the engine is IDLE, the account is the last result, and the
notices given and BULK-DONE are at the tail of the notice queue (R171). -/
def endedWith (s : State) (b : BulkRun) (completed : Bool) (before : List NoticeBody)
    (roster : Option (Bool × Nat × List RosterEntry)) : State :=
  { s with
    bulk := none
    bulkLast := some ({ op := b.op, completed := completed, visited := b.visited, counters := b.counters }, s.partTime)
    notices := s.notices ++ before.map (fun x => { time := s.partTime, body := x }) ++ [{
      time := s.partTime
      body := .bulkDone { op := b.op, completed := completed, visited := b.visited, counters := b.counters } roster }] }

/-- The roster result that an operation's BULK-DONE carries, for a ROSTER (R173). -/
def rosterOf (b : BulkRun) (more : Bool) : Option (Bool × Nat × List RosterEntry) :=
  match b.op with
  | .roster _ _ limit => some (more, limit - b.page.length, b.page)
  | _ => none

/-- The state once operation op has started, with its start effect (R166, R174, R175). -/
def begun (s : State) (op : BulkOp) : State :=
  let t : State := { s with bulk := some (startedAt op (match op with | .roster _ start _ => start | _ => 0)) }
  match op with
  | .recallGroup g =>
    match tget s.groups g with
    | some x => { t with groups := tput s.groups g { x with recallState := .active } }
    | none => t
  | .cancelRecall g =>
    match tget s.groups g with
    | some x => { t with groups := tput s.groups g { x with recallState := .cancelling } }
    | none => t
  | .evacuate n =>
    match tget s.sites n with
    | some x => { t with sites := tput s.sites n { x with acceptIn := false } }
    | none => t
  | _ => t

/-- The state once the request in the waiting slot, if there is one, has left it and started (R171). -/
def begunWaiting (s : State) : State :=
  match s.bulkWaiting with
  | some op => begun { s with bulkWaiting := none } op
  | none => s

/-! ### Invariants -/

/-- The ports' queues keep to their sizes (R150, R151, R160, R182). -/
def PortsBounded (s : State) : Prop :=
  s.siteIn.length ≤ 128 ∧ s.requests.length ≤ 16 ∧ s.answers.length ≤ 32 ∧ s.notices.length ≤ 64

/-- The unit number a site frame names; 0 for one that names none. -/
def messageUnit : SiteMsg → Nat
  | .reg _ u _ _ _ _ => u
  | .heard _ u _ _ => u
  | .emerg _ u _ _ => u
  | .dereg _ u _ => u
  | .ready _ u _ => u
  | .quiesced _ u _ => u
  | .decline _ u _ _ => u
  | .callRequest _ _ u => u
  | .status _ _ => 0
  | .callEnd _ _ => 0

/-- The Directory: ascending, at most 2048, units from 1 to 16,777,215 (R1). The three bytes of a unit in a waiting frame
hold no greater number. -/
def DirectoryOk (s : State) : Prop :=
  Ascending s.radios ∧ s.radios.length ≤ 2048 ∧ (∀ u ∈ tkeys s.radios, 1 ≤ u ∧ u ≤ 16777215) ∧
    ∀ m ∈ s.siteIn, messageUnit m ≤ 16777215

/-- The occupancy and the handover reserve together keep within the outbound queue (R184). -/
def OutboundOk (s : State) : Prop := Ascending s.radios ∧ s.outbound.length + 2 * movingCount s ≤ 512

/-- In CONFIG phase there is no record, call or bulk operation (R25, R189). -/
def ConfigQuiet (s : State) : Prop :=
  s.phase = .config → s.radios = [] ∧ s.calls = [] ∧ s.bulk = none ∧ s.bulkWaiting = none

/-- The number of records whose serving site is n, and of MOVING records whose pending site is n (R97). -/
def registrationsAt (s : State) (n : Nat) : Nat :=
  s.radios.countP (fun p => servingSite p.2.state == some n) + s.radios.countP (fun p => pendingSite p.2.state == some n)

/-- Registration counts agree with the records, and none exceeds 255 (R97). -/
def CountsAgree (s : State) : Prop :=
  Ascending s.radios ∧ Ascending s.sites ∧ ConfigQuiet s ∧
    ∀ p ∈ s.sites, p.2.count = registrationsAt s p.1 ∧ p.2.count ≤ 255 ∧ p.2.capacity ≤ 255

/-- What every record keeps: at most four hearing entries, one for a site, with one for the serving and one for the
pending site (R39); at most four groups, each once (R118); an open burst or an emergency while JOINING (R9, R24); a
pending site other than the serving site (R2); no burst, emergency or recall-pending flag while RETIRED (R20, R21). -/
def recordOk (r : Radio) : Prop :=
  r.hearing.length ≤ 4 ∧ (r.hearing.map Hearing.site).Nodup ∧
    (∀ n ∈ countedSites r.state, n ∈ r.hearing.map Hearing.site) ∧
    r.groups.length ≤ 4 ∧ (groupNumbers r.groups).Nodup ∧
    match r.state with
    | .joining => r.burst.isSome = true ∨ r.emergency.isSome = true
    | .moving a p _ _ => a ≠ p
    | .retired _ _ _ => r.burst = none ∧ r.emergency = none ∧ ∀ m ∈ r.groups, m.pending = false
    | _ => True

/-- Every record keeps its shape. -/
def RecordsOk (s : State) : Prop := Ascending s.radios ∧ ∀ p ∈ s.radios, recordOk p.2

/-- The number of records whose list holds g and whose serving site is n, and of MOVING records whose list holds g and
whose pending site is n (R114). -/
def membersAt (s : State) (g n : Nat) : Nat :=
  s.radios.countP (fun p => servingSite p.2.state == some n && (groupNumbers p.2.groups).contains g) +
    s.radios.countP (fun p => pendingSite p.2.state == some n && (groupNumbers p.2.groups).contains g)

/-- The number of counted records whose list holds g (R114). -/
def membersOf (s : State) (g : Nat) : Nat :=
  s.radios.countP fun p => (servingSite p.2.state).isSome && (groupNumbers p.2.groups).contains g

/-- Group member counts and totals agree with the records (R114). -/
def MembersAgree (s : State) : Prop :=
  RecordsOk s ∧ Ascending s.groups ∧ ConfigQuiet s ∧
    ∀ p ∈ s.groups, Ascending p.2.counts ∧ p.2.total = membersOf s p.1 ∧ ∀ n, memberCount s p.1 n = membersAt s p.1 n

/-- The number of records whose entry for g has recall pending (R122). -/
def flaggedFor (s : State) (g : Nat) : Nat := s.radios.countP fun p => hasFlag p.2.groups g true

/-- Unreached counts agree with the flags and are 0 while the recall state is OFF (R122). A running RECALL has its group
ACTIVE (R123); a running CANCEL-RECALL has its group not ACTIVE and has left no flag behind its cursor (R125), which starts
below every unit of the Directory (R1, R166). -/
def RecallsAgree (s : State) : Prop :=
  DirectoryOk s ∧ RecordsOk s ∧ Ascending s.groups ∧ ConfigQuiet s ∧
    (∀ p ∈ s.groups, p.2.unreached = flaggedFor s p.1 ∧ (p.2.recallState = .off → p.2.unreached = 0)) ∧
    (∀ b g, s.bulk = some b → b.op = .recallGroup g → ∀ x, tget s.groups g = some x → x.recallState = .active) ∧
    (∀ b g, s.bulk = some b → b.op = .cancelRecall g →
      (∀ x, tget s.groups g = some x → x.recallState ≠ .active) ∧
      ∀ p ∈ s.radios, p.1 ≤ b.cursor → hasFlag p.2.groups g true = false)

/-- The Call Table: identifiers from 1 to 32, and a group's active call is the one call of that group (R128). -/
def CallTableOk (s : State) : Prop :=
  Ascending s.calls ∧ Ascending s.groups ∧ ConfigQuiet s ∧ (∀ c ∈ tkeys s.calls, 1 ≤ c ∧ c ≤ 32) ∧
    (∀ p ∈ s.calls, ∃ x, tget s.groups p.2.group = some x ∧ x.activeCall = some p.1) ∧
    ∀ p ∈ s.groups, ∀ c, p.2.activeCall = some c → ∃ y, tget s.calls c = some y ∧ y.group = p.1

/-- Call c is QUEUED at site n. -/
def queuedAt (s : State) (c n : Nat) : Prop := ∃ since hold, callStatus s c n = some (.queued since hold)

/-- The Call Table is in order, and the pool and queue of every site agree with the calls' maps: channels held lie in the
pool and are held once, the queue holds the QUEUED calls, each once and at most eight, and a site whose queue holds a call
has no free channel (R134). -/
def ChannelsAgree (s : State) : Prop :=
  CallTableOk s ∧ Ascending s.sites ∧ (∀ p ∈ s.calls, Ascending p.2.map) ∧
    ∀ p ∈ s.sites,
      (∀ ch ∈ channelsHeld s p.1, 1 ≤ ch ∧ ch ≤ p.2.voice) ∧ (channelsHeld s p.1).Nodup ∧
      p.2.queue.Nodup ∧ p.2.queue.length ≤ 8 ∧ (∀ c, c ∈ p.2.queue ↔ queuedAt s c p.1) ∧
      (p.2.queue ≠ [] → freeChannel s p.1 = none)

end Sys2Proof.Machine
end

