-- ==== Sys2Proof/Certificates/Slice0/Obligations.lean ====
section
/-! DEFINITION. What is claimed of the part, as statements for the provers. A state `s` is any state: a premise is written
out where a claim needs one. -/

open Sys2Proof Sys2Proof.Machine

/-! ### The machine -/

/-- One step with a command at the front of the queue is that command's effect on the state with the queue's rest. The
queue is the model's (log entry 1). -/
def Obligations.StepRunsTheFrontCommand : Prop :=
  ∀ (s : State) (c : Instr) (rest : List Instr), s.pending = c :: rest → step s = exec c { s with pending := rest }

/-- On an empty queue a deadline that part time has reached is taken, and with none reached part time rises by one tenth
(R187). Which of several is taken first is free (log entries 1 and 3). The deadlines taken are exactly those reached: a settle
deadline of an open burst, a handover deadline, a lease in REGISTERED or MOVING, a presume hold, a retire hold, a heartbeat in
UP or DEGRADED, a hang deadline, and a queue hold. -/
def Obligations.IdleStepTakesAReachedDeadlineOrTicks : Prop :=
  ∀ s : State, Ascending s.radios → Ascending s.sites → Ascending s.calls → (∀ p ∈ s.calls, Ascending p.2.map) →
    s.pending = [] →
    (dueCommands s = [] → s.partTime + 1 < 4294967296 → step s = .next { s with partTime := s.partTime + 1 }) ∧
    (dueCommands s ≠ [] → ∃ d ∈ dueCommands s, step s = exec d { s with choices := s.choices + 1 }) ∧
    ∀ c : Instr, c ∈ dueCommands s ↔
      match c with
      | .settleExpiry u => ∃ r b, tget s.radios u = some r ∧ r.burst = some b ∧ b.settle ≤ s.partTime
      | .handoverDeadlineExpiry u =>
        ∃ r a p l k, tget s.radios u = some r ∧ r.state = .moving a p l k ∧ k.deadline ≤ s.partTime
      | .leaseExpiry u =>
        ∃ r, tget s.radios u = some r ∧
          ((∃ a l, r.state = .registered a l ∧ l ≤ s.partTime) ∨ ∃ a p l k, r.state = .moving a p l k ∧ l ≤ s.partTime)
      | .presumeHoldExpiry u => ∃ r a y h, tget s.radios u = some r ∧ r.state = .presumed a y h ∧ h ≤ s.partTime
      | .retireHoldExpiry u => ∃ r n y h, tget s.radios u = some r ∧ r.state = .retired n y h ∧ h ≤ s.partTime
      | .heartbeatExpiry n =>
        ∃ x d, tget s.sites n = some x ∧ (x.state = .up d ∨ x.state = .degraded d) ∧ d ≤ s.partTime
      | .hangExpiry k => ∃ y d, tget s.calls k = some y ∧ y.state = .hang d ∧ d ≤ s.partTime
      | .queueHoldExpiry n k => ∃ y h, callStatus s k n = some (.queued y h) ∧ h ≤ s.partTime
      | _ => False

/-- Every command has a next state in every state, and no command touches the queue of commands, the count of free choices
or, but for power-on reset, part time. This is the model's choice: a command whose event does not come about leaves the state as it is
(log entry 4), no command takes time (log entry 1), and the queue and the count are the model's own (log entries 3 and 6). -/
def Obligations.EveryCommandAnswersNext : Prop :=
  ∀ (c : Instr) (s : State), ∃ t, exec c s = .next t ∧ t.pending = s.pending ∧ t.choices = s.choices ∧
    (c = .powerOnReset ∨ t.partTime = s.partTime)

/-- What a site frame, a deadline or a bulk step leaves unchanged: the phase, part time, the parameters, both receivers and
transmitters, the requests and the answers. A site frame that is taken leaves the head of the inbound queue, and one that is
not taken leaves the whole state (R186, and log entry 4 on a command that does not come about). -/
def Obligations.SiteSideCommandsKeepTheRest : Prop :=
  ∀ (c : Instr) (s t : State), takesSiteFrame c = true ∨ isExpiry c = true ∨ c = .bulkStep → exec c s = .next t →
    outer t = outer { s with siteIn := t.siteIn } ∧
    (takesSiteFrame c = false → t.siteIn = s.siteIn) ∧
    (takesSiteFrame c = true → t = s ∨ ∃ m, s.siteIn = m :: t.siteIn)

/-- What a request other than RESTART leaves unchanged: part time, the receivers, the transmitters and the Site Port's inbound
queue; the phase but for OPEN; the parameters but for SET-PARAMETER; the answer-lost indication but for PORT-STATUS. A
request that is taken leaves its queue and has one answer, with its number and kind, at the tail (R151, R153). One that is not at the
head, or that may not be taken, leaves the whole state, which is the model's choice (log entry 4). -/
def Obligations.RequestsKeepTheRest : Prop :=
  ∀ (q : Request) (s t : State), q ≠ .restart → exec (takenBy q) s = .next t →
    outer t = outer { s with
      requests := t.requests, answers := t.answers, phase := t.phase, params := t.params, answerLost := t.answerLost } ∧
    (q ≠ .openService → t.phase = s.phase) ∧
    ((∀ n v, q ≠ .setParameter n v) → t.params = s.params) ∧
    (q ≠ .portStatus → t.answerLost = s.answerLost) ∧
    (t = s ∨ ∃ e a, s.requests = e :: t.requests ∧ t.answers = s.answers ++ [a] ∧ a.number = entryNumber e ∧ a.kind = e.kind)

/-! ### Invariants that every step keeps -/

/-- Every step keeps the ports' queues within their sizes (R150, R151, R160, R182). -/
def Obligations.StepKeepsQueueBounds : Prop :=
  ∀ s t : State, PortsBounded s → step s = .next t → PortsBounded t

/-- Every step keeps the Directory in ascending order, within 2048 records, with units from 1 to 16,777,215 (R1). -/
def Obligations.StepKeepsDirectory : Prop :=
  ∀ s t : State, DirectoryOk s → step s = .next t → DirectoryOk t

/-- Every step keeps the occupancy plus the handover reserve at or below 512 (R184). -/
def Obligations.StepKeepsOutboundLimit : Prop :=
  ∀ s t : State, OutboundOk s → step s = .next t → OutboundOk t

/-- Every step keeps each registration count equal to the number of records counted at its site, and at most 255 (R97). -/
def Obligations.StepKeepsRegistrationCounts : Prop :=
  ∀ s t : State, CountsAgree s → step s = .next t → CountsAgree t

/-- Every step keeps every record's shape: its hearing list with the entries of its sites (R39), its group list (R118), and what
its state requires (R2, R9, R20). -/
def Obligations.StepKeepsRecordShapes : Prop :=
  ∀ s t : State, RecordsOk s → step s = .next t → RecordsOk t

/-- Every step keeps each group's member counts and total equal to the numbers of records they count (R114). -/
def Obligations.StepKeepsMemberCounts : Prop :=
  ∀ s t : State, MembersAgree s → step s = .next t → MembersAgree t

/-- Every step keeps each unreached count equal to the number of flags set, and 0 while the recall state is OFF (R122). -/
def Obligations.StepKeepsUnreachedCounts : Prop :=
  ∀ s t : State, RecallsAgree s → step s = .next t → RecallsAgree t

/-- Every step keeps each site's pool and queue in agreement with the calls' maps (R134). -/
def Obligations.StepKeepsChannelsAndQueues : Prop :=
  ∀ s t : State, ChannelsAgree s → step s = .next t → ChannelsAgree t

/-- Every step keeps call identifiers from 1 to 32, and a group's active call the one call of that group (R128). -/
def Obligations.StepKeepsCallTable : Prop :=
  ∀ s t : State, CallTableOk s → step s = .next t → CallTableOk t

/-- The state after power-on reset meets every invariant. -/
def Obligations.ResetMeetsTheInvariants : Prop :=
  PortsBounded State.reset ∧ DirectoryOk State.reset ∧ OutboundOk State.reset ∧ CountsAgree State.reset ∧
    RecordsOk State.reset ∧ MembersAgree State.reset ∧ RecallsAgree State.reset ∧ ChannelsAgree State.reset ∧
    CallTableOk State.reset

/-! ### Ports -/

/-- A receiver that hunts discards what comes before the start byte, then receives any frame that the framing sends, whole and
with its check passed, and goes on with what follows (R179, R180). -/
def Obligations.FramesAreReceivedAsSent : Prop :=
  ∀ (kind : Byte) (body noise rest : List Byte), 2 ≤ body.length → body.length ≤ 250 → startByte ∉ noise →
    receiveBytes .hunting (noise ++ frameBytes kind body ++ rest) =
      ((receiveBytes .hunting rest).1, .frame kind body true :: (receiveBytes .hunting rest).2)

/-- What the Site Port does with a frame: one that fits its kind enters the tail of the inbound queue while that holds fewer than
128; at a full queue, with a body that does not fit, with a wrong check or with an impossible length it is discarded (R179,
R181, R182). -/
def Obligations.SiteFramesEnterOrAreDiscarded : Prop :=
  ∀ (s : State) (kind : Byte) (body : List Byte), s.siteRx = .hunting → 2 ≤ body.length → body.length ≤ 250 →
    (∀ m, siteMessage kind body = some m → s.siteIn.length < 128 →
      exec (.siteFrameReceived (frameBytes kind body)) s = .next { s with siteIn := s.siteIn ++ [m] }) ∧
    (128 ≤ s.siteIn.length → exec (.siteFrameReceived (frameBytes kind body)) s = .next s) ∧
    (siteMessage kind body = none → exec (.siteFrameReceived (frameBytes kind body)) s = .next s) ∧
    (∀ check, check.length = 2 → check ≠ checkBytes (byte body.length :: kind :: body) →
      exec (.siteFrameReceived (startByte :: byte body.length :: kind :: body ++ check)) s = .next s) ∧
    (∀ len : Byte, len.toNat < 2 ∨ 250 < len.toNat → exec (.siteFrameReceived [startByte, len]) s = .next s)

/-- What the Dispatch Port does with a frame: it enters the tail of the request queue while that holds fewer than 16, marked rejected
where its check fails or its length is impossible; at a full queue it is answered FULL, and with the answer queue full too
the answer-lost indication is set (R150, R179). -/
def Obligations.RequestFramesEnterOrAreAnsweredFull : Prop :=
  ∀ (s : State) (kind : Byte) (body : List Byte), s.dispatchRx = .hunting → 2 ≤ body.length → body.length ≤ 250 →
    (s.requests.length < 16 →
      exec (.dispatchFrameReceived (frameBytes kind body)) s =
        .next { s with requests := s.requests ++ [{ rejected := false, kind := kind, body := body }] } ∧
      (∀ check, check.length = 2 → check ≠ checkBytes (byte body.length :: kind :: body) →
        exec (.dispatchFrameReceived (startByte :: byte body.length :: kind :: body ++ check)) s =
          .next { s with requests := s.requests ++ [{ rejected := true, kind := kind, body := body }] }) ∧
      (∀ len : Byte, len.toNat < 2 ∨ 250 < len.toNat →
        exec (.dispatchFrameReceived [startByte, len]) s =
          .next { s with requests := s.requests ++ [{ rejected := true, kind := 0, body := [] }] })) ∧
    (16 ≤ s.requests.length → s.answers.length < 32 →
      exec (.dispatchFrameReceived (frameBytes kind body)) s =
        .next { s with
          answers := s.answers ++ [{ number := body.headD 0, kind := kind, code := .full, content := .none }] }) ∧
    (16 ≤ s.requests.length → 32 ≤ s.answers.length →
      exec (.dispatchFrameReceived (frameBytes kind body)) s = .next { s with answerLost := true })

/-- A frame clocked out leaves the head of its queue (R151, R183); a frame that a RESTART left partly sent goes first (R191); with
nothing to send the line carries the fill byte 00 hex (R179). That the transmit pins are shown as the whole frame sent last, or as one
fill byte, is the model's choice (log entry 7), and so is the place of the frame that a RESTART left (log entry 8). -/
def Obligations.SentFramesLeaveTheirQueues : Prop :=
  ∀ s : State,
    (∀ f, s.siteResidue = some f →
      exec .outboundEntrySent s =
        .next { s with siteResidue := none, siteSent := frameBytes (siteFrame f).1 (siteFrame f).2 }) ∧
    (∀ f rest, s.siteResidue = none → s.outbound = f :: rest →
      exec .outboundEntrySent s = .next { s with outbound := rest, siteSent := frameBytes (siteFrame f).1 (siteFrame f).2 }) ∧
    (s.siteResidue = none → s.outbound = [] → exec .outboundEntrySent s = .next { s with siteSent := [0x00#8] }) ∧
    (∀ a rest, s.answers = a :: rest →
      exec .answerSent s = .next { s with answers := rest, dispatchSent := frameBytes 0x80#8 (answerBody a) }) ∧
    (s.answers = [] → exec .answerSent s = .next { s with dispatchSent := [0x00#8] })

/-- Power-on reset leaves CONFIG phase, part time 0, the tag counter 0, the default parameters, and no record, definition, call,
operation, frame, answer, notice or indication, with both receivers hunting and both transmitters at the fill byte (R190,
R188, R65, R179). The queue of commands and the count of choices are the model's (log entry 20), and the two fields of bytes sent are its view of the
transmit pins (log entry 7). -/
def Obligations.PowerOnResetLeavesTheResetState : Prop :=
  ∀ s : State, exec .powerOnReset s = .next
    { phase := .config, partTime := 0, tagCounter := 0,
      params := {
        lease := 300, presumeHold := 180, retireHold := 600, settleTime := 5, handoverTimeout := 5,
        declineBackoff := 30, heartbeatTimeout := 20, ageDecay := 10, callHang := 3, queueHold := 10 },
      radios := [], sites := [], groups := [], calls := [], bulk := none, bulkWaiting := none, bulkLast := none,
      siteRx := .hunting, siteIn := [], outbound := [], siteResidue := none, siteSent := [0x00#8],
      dispatchRx := .hunting, requests := [], answers := [], dispatchSent := [0x00#8],
      notices := [], noticeOverflow := false, answerLost := false,
      pending := s.pending, choices := s.choices }

/-! ### Reports and bursts -/

/-- Admission (R27): a report taken in CONFIG phase is answered NOT-READY, one from a site out of range or not configured
REFUSED-SITE, and one from a DOWN or DARK site NOT-READY; nothing else changes. -/
def Obligations.RefusedReportsOnlyGetTheirReceipt : Prop :=
  ∀ (s : State) (m : SiteMsg) (rest : List SiteMsg) (c : Instr) (site unit seq : Nat),
    s.siteIn = m :: rest → reportHead m = some (c, site, unit, seq) → roomForOne s →
    (s.phase = .config → exec c s = .next (receipted s rest site unit seq .notReady)) ∧
    (s.phase = .service → wfSite site = false ∨ tget s.sites site = none →
      exec c s = .next (receipted s rest site unit seq .refusedSite)) ∧
    (∀ x, s.phase = .service → wfSite site = true → tget s.sites site = some x → x.state = .down ∨ x.state = .dark →
      exec c s = .next (receipted s rest site unit seq .notReady))

/-- An admitted REG or EMERG copy for an absent unit creates a JOINING record with the values of R3 and opens its first burst, while
the Directory holds fewer than 2048 records; the receipt is TAKEN (R3, R6, R30). At 2048 records it reclaims the RETIRED record with the
earliest retired-at time, the lower unit on a tie, and enters in its place (R7). A RETIRED record is revived with the values of R3 by a
REG or EMERG copy that is newer, or a REG that is first-flagged (R8); any other REG or EMERG copy is DUPLICATE or STALE, and a HEARD
copy UNKNOWN, and nothing changes (R29). -/
def Obligations.CopiesOfAbsentUnitsCreateRecords : Prop :=
  (∀ (s : State) (site unit seq quality : Nat) (rest : List SiteMsg),
     roomForOne s → admitted s site → unit ≠ 0 → tget s.radios unit = none → s.radios.length < 2048 →
     (∀ first groups, s.siteIn = .reg site unit seq first quality groups :: rest →
       exec .reg s = .next { receipted s rest site unit seq .taken with
         radios := tput s.radios unit (newRecord s site seq quality (newBurst s site seq first (some groups) none)) }) ∧
     (s.siteIn = .emerg site unit seq quality :: rest →
       exec .emerg s = .next { receipted s rest site unit seq .taken with
         radios := tput s.radios unit (newRecord s site seq quality (newBurst s site seq false none (some site))) })) ∧
  ∀ (s : State) (m : SiteMsg) (c : Instr) (k : Copy) (rest : List SiteMsg),
    s.siteIn = m :: rest → copyHead m = some (c, k) → roomForOne s → admitted s k.site → k.unit ≠ 0 →
    (∀ v old n y h, carriesParts k = true → tget s.radios k.unit = none → Ascending s.radios → 2048 = s.radios.length →
      tget s.radios v = some old → old.state = .retired n y h → (∀ x ∈ old.groups, x.pending = false) →
      (∀ v' r' n' y' h', v' ≠ v → tget s.radios v' = some r' → r'.state = .retired n' y' h' → y < y' ∨ (y = y' ∧ v < v')) →
      exec c s = .next { receipted s rest k.site k.unit k.seq .taken with
        radios := tput (tdel s.radios v) k.unit (newRecord s k.site k.seq k.quality (burstOf s k)) }) ∧
    ∀ r, tget s.radios k.unit = some r → stateName r.state = .retired →
      (carriesParts k = true → k.first = true ∨ (1 ≤ (k.seq + 16 - r.lastSeq) % 16 ∧ (k.seq + 16 - r.lastSeq) % 16 ≤ 8) →
        exec c s = .next { receipted s rest k.site k.unit k.seq .taken with
          radios := tput s.radios k.unit (newRecord s k.site k.seq k.quality (burstOf s k)) }) ∧
      (carriesParts k = true → k.first = false → (k.seq + 16 - r.lastSeq) % 16 = 0 →
        exec c s = .next (receipted s rest k.site k.unit k.seq .duplicate)) ∧
      (carriesParts k = true → k.first = false → 9 ≤ (k.seq + 16 - r.lastSeq) % 16 →
        exec c s = .next (receipted s rest k.site k.unit k.seq .stale)) ∧
      (carriesParts k = false → exec c s = .next (receipted s rest k.site k.unit k.seq .unknown))

/-- A newer copy of any kind that meets an open burst closes it first, at its arrival (R26, R31). That close is the one that the settle
deadline would make were it now, in the state that the copy leaves with its receipt's place taken: lease, list, emergency, site selection,
counts and directives are those of SETTLE_EXPIRY there (R37). The copy then opens its own burst on the record as the close left it, its
receipt standing ahead of what the close sends; where the close freed the record, a HEARD copy is UNKNOWN, and a REG or EMERG copy creates
it anew. So a MOVING record has its lease renewed from the arrival (R10). An admitted HEARD copy 1 to 8 ahead of the last sequence
(R28) opens a burst on a record that has none and is not RETIRED: the last sequence, the burst, the previous set and the hearing list change
and nothing else; the receipt is TAKEN (R30). -/
def Obligations.NewerHeardOpensABurst : Prop :=
  (∀ (s : State) (m : SiteMsg) (c : Instr) (k : Copy) (rest : List SiteMsg) (r : Radio) (b : Burst), Ascending s.radios →
     s.radios.length ≤ 2048 → s.siteIn = m :: rest → copyHead m = some (c, k) → roomForOne s → admitted s k.site → k.unit ≠ 0 →
     tget s.radios k.unit = some r → stateName r.state ≠ .retired → newerCopy r k → r.burst = some b →
     let receipt (code : ReceiptCode) : SiteOut := .receipt k.site k.unit k.seq code [] none
     ∃ t₀ more, exec (.settleExpiry k.unit) (atArrival s rest (receipt .taken) k.unit r b) = .next t₀ ∧
       t₀.outbound = s.outbound ++ receipt .taken :: more ∧
       (∀ r', tget t₀.radios k.unit = some r' →
         ∃ t, exec c s = .next t ∧
           tget t.radios k.unit = some { r' with
             lastSeq := k.seq, burst := some (burstOf s k), prev := none, groups := deliveredTo r' k,
             hearing := updateHearing s r'.state r'.hearing k.site k.quality s.partTime s.partTime } ∧
           (∀ v, v ≠ k.unit → tget t.radios v = tget t₀.radios v) ∧
           t.outbound = s.outbound ++ receiptOf s r' k .taken :: more ∧
           (carriesParts k = false ∨ (∀ x ∈ r'.groups, x.pending = false) → t.groups = t₀.groups ∧ t.notices = t₀.notices) ∧
           t.sites = t₀.sites ∧ t.calls = t₀.calls ∧ t.tagCounter = t₀.tagCounter ∧ engine t = engine t₀ ∧ outer t = outer t₀) ∧
       (tget t₀.radios k.unit = none →
         (carriesParts k = false → exec c s = .next { t₀ with outbound := s.outbound ++ receipt .unknown :: more }) ∧
         (carriesParts k = true → exec c s = .next { t₀ with
           radios := tput t₀.radios k.unit (newRecord s k.site k.seq k.quality (burstOf s k)) }))) ∧
  (∀ (s : State) (site unit seq quality : Nat) (rest : List SiteMsg) (r : Radio),
     s.siteIn = .heard site unit seq quality :: rest → roomForOne s → admitted s site → unit ≠ 0 →
     tget s.radios unit = some r → stateName r.state ≠ .retired → r.burst = none →
     1 ≤ (seq + 16 - r.lastSeq) % 16 → (seq + 16 - r.lastSeq) % 16 ≤ 8 →
     exec .heard s = .next { receipted s rest site unit seq .taken with
       radios := tput s.radios unit { r with
         lastSeq := seq, burst := some (newBurst s site seq false none none), prev := none,
         hearing := updateHearing s r.state r.hearing site quality s.partTime s.partTime } }) ∧
  ∀ (s : State) (m : SiteMsg) (c : Instr) (k : Copy) (rest : List SiteMsg) (r : Radio),
    s.siteIn = m :: rest → copyHead m = some (c, k) → roomForOne s → admitted s k.site → k.unit ≠ 0 →
    tget s.radios k.unit = some r → newerCopy r k →
    (∀ b, servingSite r.state ≠ none ∨ stateName r.state = .lost → r.burst = some b →
      ∃ t r' recalled order more, exec c s = .next t ∧ tget t.radios k.unit = some r' ∧
        r' = { r with
          state := r'.state, groups := r'.groups, regroup := regroupAfter s r b.reported,
          emergency := emergencyAfter r b s.partTime, lastSeq := k.seq, burst := some (burstOf s k), prev := none,
          hearing := updateHearing s r'.state r.hearing k.site k.quality s.partTime s.partTime } ∧
        groupNumbers r'.groups = listAfter s r b.reported ∧
        (∀ v, v ≠ k.unit → tget t.radios v = tget s.radios v) ∧
        t.outbound = s.outbound ++ .receipt k.site k.unit k.seq .taken recalled order :: more ∧
        engineButGap t = engineButGap s ∧ outer t = outer { s with siteIn := rest }) ∧
    (∀ b a p l h, carriesParts k = false → r.state = .moving a p l h → r.burst = some b → b.reported = none →
      b.emergency = none →
      exec c s = .next { receipted s rest k.site k.unit k.seq .taken with
        radios := tput s.radios k.unit { r with
          state := .moving a p (s.partTime + s.params.lease * 10) h, lastSeq := k.seq, burst := some (burstOf s k), prev := none,
          hearing := updateHearing s r.state r.hearing k.site k.quality s.partTime s.partTime } }) ∧
    (∀ b, r.state = .joining → Ascending s.radios → s.radios.length ≤ 2048 → r.burst = some b → b.reported = none →
      b.emergency = none → r.emergency = none → (∀ x ∈ r.groups, x.pending = false) →
      adoptionChoice s s.partTime b.sites .joining r.hearing = none →
      (carriesParts k = false →
        exec c s = .next { receipted s rest k.site k.unit k.seq .unknown with radios := tdel s.radios k.unit }) ∧
      (carriesParts k = true →
        exec c s = .next { receipted s rest k.site k.unit k.seq .taken with
          radios := tput s.radios k.unit (newRecord s k.site k.seq k.quality (burstOf s k)) })) ∧
    (stateName r.state ≠ .retired → r.burst = none →
      ∃ t, exec c s = .next t ∧
        t.outbound = s.outbound ++ [receiptOf s r k .taken] ∧
        tget t.radios k.unit = some { r with
          lastSeq := k.seq, burst := some (burstOf s k), prev := none, groups := deliveredTo r k,
          hearing := updateHearing s r.state r.hearing k.site k.quality s.partTime s.partTime } ∧
        (∀ v, v ≠ k.unit → tget t.radios v = tget s.radios v) ∧
        t.sites = s.sites ∧ t.calls = s.calls ∧ t.tagCounter = s.tagCounter ∧ engine t = engine s ∧
        outer t = outer { s with siteIn := rest })

/-- An admitted HEARD copy of the last sequence: while the burst is open it is merged from a new site (R32) and DUPLICATE from a site in
the set; after the close it is LATE from a site not in the previous set, with the closed burst's opened-at as heard time, and
DUPLICATE from one in it (R34). So are REG and EMERG copies that are not newer. A merged EMERG copy sets the burst's emergency flag where
it is clear, a merged REG copy its first flag and its reported list where it has none, and the receipt carries the recall and regroup
parts (R32, R43 to R45). A LATE EMERG copy makes the emergency active from its arrival, with the notice EMERGENCY, and a LATE REG copy's
list is not used (R34). -/
def Obligations.SameHeardMergesOrIsLate : Prop :=
  (∀ (s : State) (site unit seq quality : Nat) (rest : List SiteMsg) (r : Radio),
     s.siteIn = .heard site unit seq quality :: rest → roomForOne s → admitted s site → unit ≠ 0 →
     tget s.radios unit = some r → stateName r.state ≠ .retired → (seq + 16 - r.lastSeq) % 16 = 0 →
     (∀ b, r.burst = some b → site ∉ b.sites →
       exec .heard s = .next { receipted s rest site unit seq .merged with
         radios := tput s.radios unit { r with
           burst := some { b with sites := b.sites ++ [site] },
           hearing := updateHearing s r.state r.hearing site quality s.partTime b.openedAt } }) ∧
     (∀ b, r.burst = some b → site ∈ b.sites → exec .heard s = .next (receipted s rest site unit seq .duplicate)) ∧
     (∀ p, r.burst = none → r.prev = some p → p.seq = seq → site ∉ p.sites →
       exec .heard s = .next { receipted s rest site unit seq .late with
         radios := tput s.radios unit { r with
           prev := some { p with sites := p.sites ++ [site] },
           hearing := updateHearing s r.state r.hearing site quality p.openedAt p.openedAt } }) ∧
     (∀ p, r.burst = none → r.prev = some p → p.seq = seq → site ∈ p.sites →
       exec .heard s = .next (receipted s rest site unit seq .duplicate)) ∧
     (r.burst = none → r.prev = none → exec .heard s = .next (receipted s rest site unit seq .duplicate))) ∧
  ∀ (s : State) (m : SiteMsg) (c : Instr) (k : Copy) (rest : List SiteMsg) (r : Radio),
    s.siteIn = m :: rest → copyHead m = some (c, k) → roomForOne s → admitted s k.site → k.unit ≠ 0 →
    tget s.radios k.unit = some r → stateName r.state ≠ .retired → sameCopy r k →
    (∀ b, r.burst = some b → k.site ∉ b.sites →
      ∃ t, exec c s = .next t ∧
        t.outbound = s.outbound ++ [receiptOf s r k .merged] ∧
        tget t.radios k.unit = some { r with
          groups := deliveredTo r k,
          hearing := updateHearing s r.state r.hearing k.site k.quality s.partTime b.openedAt,
          burst := some { b with
            sites := b.sites ++ [k.site], first := b.first || k.first
            emergency := (if k.emerg = true ∧ b.emergency = none then some k.site else b.emergency)
            reported := (if b.reported = none then k.groups else b.reported) } } ∧
        (∀ v, v ≠ k.unit → tget t.radios v = tget s.radios v) ∧
        t.sites = s.sites ∧ t.calls = s.calls ∧ t.tagCounter = s.tagCounter ∧ engine t = engine s ∧
        outer t = outer { s with siteIn := rest }) ∧
    (∀ b, r.burst = some b → k.site ∈ b.sites → exec c s = .next (receipted s rest k.site k.unit k.seq .duplicate)) ∧
    (∀ p, r.burst = none → r.prev = some p → p.seq = k.seq → k.site ∉ p.sites →
      let late (e : Option Emergency) : Radio := { r with
        prev := some { p with sites := p.sites ++ [k.site] }, emergency := e,
        hearing := updateHearing s r.state r.hearing k.site k.quality p.openedAt p.openedAt }
      (k.emerg = false ∨ r.emergency ≠ none →
        exec c s = .next { receipted s rest k.site k.unit k.seq .late with
          radios := tput s.radios k.unit (late r.emergency) }) ∧
      (k.emerg = true → r.emergency = none → s.notices.length < 64 →
        exec c s = .next { receipted s rest k.site k.unit k.seq .late with
          radios := tput s.radios k.unit (late (some { since := s.partTime, site := k.site }))
          notices := s.notices ++ [{ time := s.partTime, body := .emergency k.unit k.site (stateName r.state) }] })) ∧
    (r.burst = none → (∀ p, r.prev = some p → p.seq ≠ k.seq ∨ k.site ∈ p.sites) →
      exec c s = .next (receipted s rest k.site k.unit k.seq .duplicate))

/-- Admitted reports that change no record: an older HEARD, DEREG, EMERG or REG that is not first-flagged is STALE (R35); a HEARD or
DEREG of an absent unit is UNKNOWN (R29), and so is any report of unit 0 (R27); a REG or EMERG of an absent unit while 2048 records are
present and none is RETIRED is REFUSED-FULL (R6, R7). -/
def Obligations.UnusableReportsOnlyGetTheirReceipt : Prop :=
  (∀ (s : State) (m : SiteMsg) (c : Instr) (k : Copy) (rest : List SiteMsg),
     s.siteIn = m :: rest → copyHead m = some (c, k) → roomForOne s → admitted s k.site → k.unit ≠ 0 →
     (∀ r, tget s.radios k.unit = some r → stateName r.state ≠ .retired → k.first = false → 9 ≤ (k.seq + 16 - r.lastSeq) % 16 →
       exec c s = .next (receipted s rest k.site k.unit k.seq .stale)) ∧
     (tget s.radios k.unit = none → carriesParts k = true → 2048 ≤ s.radios.length →
       (∀ p ∈ s.radios, stateName p.2.state ≠ .retired) →
       exec c s = .next (receipted s rest k.site k.unit k.seq .refusedFull))) ∧
  ∀ (s : State) (site unit seq quality : Nat) (rest : List SiteMsg),
    roomForOne s → admitted s site →
    (∀ r, unit ≠ 0 → tget s.radios unit = some r → stateName r.state ≠ .retired → 9 ≤ (seq + 16 - r.lastSeq) % 16 →
      (s.siteIn = .heard site unit seq quality :: rest → exec .heard s = .next (receipted s rest site unit seq .stale)) ∧
      (s.siteIn = .dereg site unit seq :: rest → exec .dereg s = .next (receipted s rest site unit seq .stale))) ∧
    (unit = 0 ∨ tget s.radios unit = none →
      (s.siteIn = .heard site unit seq quality :: rest → exec .heard s = .next (receipted s rest site unit seq .unknown)) ∧
      (s.siteIn = .dereg site unit seq :: rest → exec .dereg s = .next (receipted s rest site unit seq .unknown))) ∧
    (unit = 0 → s.siteIn = .emerg site unit seq quality :: rest →
      exec .emerg s = .next (receipted s rest site unit seq .unknown)) ∧
    (∀ first groups, s.siteIn = .reg site unit seq first quality groups :: rest →
      (unit = 0 → exec .reg s = .next (receipted s rest site unit seq .unknown)) ∧
      (unit ≠ 0 → tget s.radios unit = none → 2048 ≤ s.radios.length →
        (∀ p ∈ s.radios, stateName p.2.state ≠ .retired) →
        exec .reg s = .next (receipted s rest site unit seq .refusedFull)))

/-- A newer DEREG that meets an open burst closes it first, at its arrival: that close is the one that the settle deadline would make were it
now, in the state that the DEREG leaves with its receipt's place taken. It then acts on the record as the close left it, HELD for an active
emergency and otherwise TAKEN, its receipt ahead of what the close sends (R36, R20). An admitted newer DEREG on a record without an open
burst: with no emergency, REGISTERED or PRESUMED at a becomes RETIRED with last site a, its retire hold running from now and its
recall-pending flags clear, and the count at a falls by one; with the emergency active it is held, and only the last sequence changes.
MOVING from a toward p becomes RETIRED with last site a and outcome ABORTED: CANCEL goes to p, then to a, where each works, and both counts
fall (R80). LOST becomes RETIRED with its last site, and no count moves. On a RETIRED record only the last sequence changes (R29). A DEREG of
the last sequence is MERGED and changes nothing. -/
def Obligations.DeregRetiresOrIsHeld : Prop :=
  (∀ (s : State) (site unit seq : Nat) (rest : List SiteMsg) (r : Radio) (b : Burst), Ascending s.radios →
     s.siteIn = .dereg site unit seq :: rest → roomForOne s → admitted s site → unit ≠ 0 →
     tget s.radios unit = some r → stateName r.state ≠ .retired → r.burst = some b →
     1 ≤ (seq + 16 - r.lastSeq) % 16 → (seq + 16 - r.lastSeq) % 16 ≤ 8 →
     let receipt (code : ReceiptCode) : SiteOut := .receipt site unit seq code [] none
     ∃ t₀ more, exec (.settleExpiry unit) (atArrival s rest (receipt .taken) unit r b) = .next t₀ ∧
       t₀.outbound = s.outbound ++ receipt .taken :: more ∧
       (tget t₀.radios unit = none → exec .dereg s = .next t₀) ∧
       ∀ r', tget t₀.radios unit = some r' →
         let retired (n : Nat) (how : Option (HandoverEnd × Nat)) : Radio := { r' with
           state := .retired n s.partTime (s.partTime + s.params.retireHold * 10), lastSeq := seq, lastHandover := how
           groups := r'.groups.map fun m => { m with pending := false } }
         (r'.emergency.isSome = true →
           exec .dereg s = .next { t₀ with
             radios := tput t₀.radios unit { r' with lastSeq := seq }, outbound := s.outbound ++ receipt .held :: more }) ∧
         (r'.emergency = none →
           ∃ t, exec .dereg s = .next t ∧
             (∀ a, (∃ l, r'.state = .registered a l) ∨ (∃ y h, r'.state = .presumed a y h) →
               tget t.radios unit = some (retired a r'.lastHandover) ∧ t.outbound = t₀.outbound ∧
               ∀ n, (tget t.sites n).map Site.count = (tget t₀.sites n).map fun x => if n = a then x.count - 1 else x.count) ∧
             (∀ a p l h, r'.state = .moving a p l h →
               tget t.radios unit = some (retired a (some (.aborted, p))) ∧
               t.outbound = t₀.outbound ++ (if siteWorks s p then [.cancel p unit h.tag] else []) ++
                 (if siteWorks s a then [.cancel a unit h.tag] else []) ∧
               ∀ n, (tget t.sites n).map Site.count =
                 (tget t₀.sites n).map fun x => x.count - (if n = a then 1 else 0) - (if n = p then 1 else 0)) ∧
             (∀ n, r'.state = .lost n →
               tget t.radios unit = some (retired n r'.lastHandover) ∧ t.outbound = t₀.outbound ∧ t.sites = t₀.sites) ∧
             (∀ v, v ≠ unit → tget t.radios v = tget t₀.radios v) ∧
             t.calls = t₀.calls ∧ t.tagCounter = t₀.tagCounter ∧ engine t = engine t₀ ∧ outer t = outer t₀)) ∧
  (∀ (s : State) (site unit seq : Nat) (rest : List SiteMsg) (r : Radio),
     s.siteIn = .dereg site unit seq :: rest → roomForOne s → admitted s site → unit ≠ 0 →
     tget s.radios unit = some r → r.burst = none →
     1 ≤ (seq + 16 - r.lastSeq) % 16 → (seq + 16 - r.lastSeq) % 16 ≤ 8 →
     (∀ a, (∃ l, r.state = .registered a l) ∨ (∃ y h, r.state = .presumed a y h) → r.emergency = none →
       ∃ t, exec .dereg s = .next t ∧
         tget t.radios unit = some { r with
           state := .retired a s.partTime (s.partTime + s.params.retireHold * 10), lastSeq := seq,
           groups := r.groups.map fun m => { m with pending := false } } ∧
         (∀ v, v ≠ unit → tget t.radios v = tget s.radios v) ∧
         (∀ n, (tget t.sites n).map Site.count = (tget s.sites n).map fun x => if n = a then x.count - 1 else x.count) ∧
         t.outbound = s.outbound ++ [.receipt site unit seq .taken [] none] ∧
         t.calls = s.calls ∧ t.tagCounter = s.tagCounter ∧ engine t = engine s ∧
         outer t = outer { s with siteIn := rest }) ∧
     (r.emergency.isSome = true →
       exec .dereg s = .next { receipted s rest site unit seq .held with
         radios := tput s.radios unit { r with lastSeq := seq } })) ∧
  ∀ (s : State) (site unit seq : Nat) (rest : List SiteMsg) (r : Radio),
    s.siteIn = .dereg site unit seq :: rest → roomForOne s → admitted s site → unit ≠ 0 → tget s.radios unit = some r →
    ((seq + 16 - r.lastSeq) % 16 = 0 → exec .dereg s = .next (receipted s rest site unit seq .merged)) ∧
    (1 ≤ (seq + 16 - r.lastSeq) % 16 → (seq + 16 - r.lastSeq) % 16 ≤ 8 → r.burst = none → r.emergency = none →
      (∀ a p l k, r.state = .moving a p l k →
        ∃ t, exec .dereg s = .next t ∧
          tget t.radios unit = some { r with
            state := .retired a s.partTime (s.partTime + s.params.retireHold * 10), lastSeq := seq,
            lastHandover := some (.aborted, p), groups := r.groups.map fun m => { m with pending := false } } ∧
          (∀ v, v ≠ unit → tget t.radios v = tget s.radios v) ∧
          (∀ n, (tget t.sites n).map Site.count =
            (tget s.sites n).map fun x => x.count - (if n = a then 1 else 0) - (if n = p then 1 else 0)) ∧
          t.outbound = s.outbound ++ [.receipt site unit seq .taken [] none] ++
            (if siteWorks s p then [.cancel p unit k.tag] else []) ++ (if siteWorks s a then [.cancel a unit k.tag] else []) ∧
          t.calls = s.calls ∧ t.tagCounter = s.tagCounter ∧ engine t = engine s ∧ outer t = outer { s with siteIn := rest }) ∧
      (∀ n, r.state = .lost n →
        ∃ t, exec .dereg s = .next t ∧
          tget t.radios unit = some { r with
            state := .retired n s.partTime (s.partTime + s.params.retireHold * 10), lastSeq := seq,
            groups := r.groups.map fun m => { m with pending := false } } ∧
          (∀ v, v ≠ unit → tget t.radios v = tget s.radios v) ∧ t.sites = s.sites ∧
          t.outbound = s.outbound ++ [.receipt site unit seq .taken [] none] ∧
          t.calls = s.calls ∧ t.tagCounter = s.tagCounter ∧ engine t = engine s ∧ outer t = outer { s with siteIn := rest }) ∧
      (stateName r.state = .retired →
        exec .dereg s = .next { receipted s rest site unit seq .taken with
          radios := tput s.radios unit { r with lastSeq := seq } }))

/-- An admitted newer EMERG copy on a record without an open burst, not RETIRED: its receipt is TAKEN, carries the groups whose
recall-pending flag is set, in list order, and the ordered group list while the regroup state is ORDERED; every flag of the
record is then clear, and the burst it opens has its emergency flag set by the site (R30, R43, R44, R45). The emergency itself
waits for the close (R23). Each flag delivered lowers its group's unreached count (R122), and a count lowered to 0 while the recall is ACTIVE
and no RECALL of the group is running or suspended raises RECALL-COMPLETE (R124); the order of several is the model's choice (log entry
26). -/
def Obligations.EmergReceiptDeliversTheRecall : Prop :=
  ∀ (s : State) (site unit seq quality : Nat) (rest : List SiteMsg) (r : Radio),
    s.siteIn = .emerg site unit seq quality :: rest → roomForOne s → admitted s site → unit ≠ 0 →
    tget s.radios unit = some r → stateName r.state ≠ .retired → r.burst = none →
    1 ≤ (seq + 16 - r.lastSeq) % 16 → (seq + 16 - r.lastSeq) % 16 ≤ 8 →
    ∃ t, exec .emerg s = .next t ∧
      t.outbound = s.outbound ++ [.receipt site unit seq .taken (groupNumbers (r.groups.filter Membership.pending))
        (if r.regroup = .ordered then some (groupNumbers r.groups) else none)] ∧
      tget t.radios unit = some { r with
        lastSeq := seq, burst := some (newBurst s site seq false none (some site)), prev := none,
        hearing := updateHearing s r.state r.hearing site quality s.partTime s.partTime,
        groups := r.groups.map fun m => { m with pending := false } } ∧
      (∀ v, v ≠ unit → tget t.radios v = tget s.radios v) ∧
      ((groupNumbers r.groups).Nodup → unreachedAfter s t r.groups ∧
        (s.notices.length + r.groups.length ≤ 64 → t.notices = s.notices ++ recallsDone s r.groups)) ∧
      t.sites = s.sites ∧ t.calls = s.calls ∧ t.tagCounter = s.tagCounter ∧ engine t = engine s ∧
      outer t = outer { s with siteIn := rest }

/-! ### Handover -/

/-- An admitted READY or QUIESCED (R68 to R72, R74). The first of the two that matches the handover only sets its flag. The second
commits: COMMIT goes to both sites that work, to-site first, the record is REGISTERED at the to-site with the lease it had
and outcome COMPLETED, and the count at the from-site falls by one. A READY that matches no handover of its site is answered
with CANCEL under its tag, and such a QUIESCED is dropped. -/
def Obligations.HandoverAnswersSetFlagsAndCommit : Prop :=
  ∀ (s : State) (n u tag : Nat) (rest : List SiteMsg), roomForOne s → admitted s n →
    (s.siteIn = .ready n u tag :: rest →
      (∀ r a l k, tget s.radios u = some r → r.state = .moving a n l k → k.tag = tag →
        (k.quiescedSeen = false →
          exec .ready s = .next { s with
            siteIn := rest
            radios := tput s.radios u { r with state := .moving a n l { k with readySeen := true } } }) ∧
        (k.quiescedSeen = true →
          ∃ t, exec .ready s = .next t ∧
            tget t.radios u = some { r with state := .registered n l, lastHandover := some (.completed, n) } ∧
            (∀ v, v ≠ u → tget t.radios v = tget s.radios v) ∧
            t.outbound = s.outbound ++ [.commit n u tag] ++ (if siteWorks s a then [.commit a u tag] else []) ∧
            (∀ j, (tget t.sites j).map Site.count = (tget s.sites j).map fun x => if j = a then x.count - 1 else x.count) ∧
            t.calls = s.calls ∧ t.notices = s.notices ∧ t.tagCounter = s.tagCounter ∧ engine t = engine s ∧
            outer t = outer { s with siteIn := rest })) ∧
      ((∀ r a l k, tget s.radios u = some r → r.state = .moving a n l k → k.tag ≠ tag) →
        exec .ready s = .next { s with siteIn := rest, outbound := s.outbound ++ [.cancel n u tag] })) ∧
    (s.siteIn = .quiesced n u tag :: rest →
      (∀ r p l k, tget s.radios u = some r → r.state = .moving n p l k → k.tag = tag →
        (k.readySeen = false →
          exec .quiesced s = .next { s with
            siteIn := rest
            radios := tput s.radios u { r with state := .moving n p l { k with quiescedSeen := true } } }) ∧
        (k.readySeen = true →
          ∃ t, exec .quiesced s = .next t ∧
            tget t.radios u = some { r with state := .registered p l, lastHandover := some (.completed, p) } ∧
            (∀ v, v ≠ u → tget t.radios v = tget s.radios v) ∧
            t.outbound = s.outbound ++ (if siteWorks s p then [.commit p u tag] else []) ++ [.commit n u tag] ∧
            (∀ j, (tget t.sites j).map Site.count = (tget s.sites j).map fun x => if j = n then x.count - 1 else x.count) ∧
            t.calls = s.calls ∧ t.notices = s.notices ∧ t.tagCounter = s.tagCounter ∧ engine t = engine s ∧
            outer t = outer { s with siteIn := rest })) ∧
      ((∀ r p l k, tget s.radios u = some r → r.state = .moving n p l k → k.tag ≠ tag) →
        exec .quiesced s = .next { s with siteIn := rest }))

/-- A matching DECLINE, and the handover deadline, unwind the handover from a to p (R73, R75, R77): CANCEL goes to each site that works,
to-site first; the count at p falls by one; the record returns to a, REGISTERED with the lease it had while a works and
otherwise PRESUMED with cause SITE-DARK; the outcome is DECLINED, with the backoff set in the entry for p, or TIMED-OUT. -/
def Obligations.DeclineAndDeadlineUnwindHandovers : Prop :=
  ∀ (s : State) (u a p l : Nat) (k : Handover) (r : Radio), tget s.radios u = some r → r.state = .moving a p l k →
    (∀ reason rest, s.siteIn = .decline p u k.tag reason :: rest → roomForOne s → admitted s p →
      ∃ t, exec .decline s = .next t ∧
        tget t.radios u = some { r with
          state := (if siteWorks s a then .registered a l
            else .presumed a .siteDark (s.partTime + s.params.presumeHold * 10)),
          lastHandover := some (.declined, p),
          hearing := r.hearing.map fun h =>
            if h.site = p then { h with backoff := some (s.partTime + s.params.declineBackoff * 10) } else h } ∧
        (∀ v, v ≠ u → tget t.radios v = tget s.radios v) ∧
        t.outbound = s.outbound ++ [.cancel p u k.tag] ++ (if siteWorks s a then [.cancel a u k.tag] else []) ∧
        (∀ j, (tget t.sites j).map Site.count = (tget s.sites j).map fun x => if j = p then x.count - 1 else x.count) ∧
        t.calls = s.calls ∧ t.notices = s.notices ∧ t.tagCounter = s.tagCounter ∧ engine t = engine s ∧
        outer t = outer { s with siteIn := rest }) ∧
    (k.deadline ≤ s.partTime →
      ∃ t, exec (.handoverDeadlineExpiry u) s = .next t ∧
        tget t.radios u = some { r with
          state := (if siteWorks s a then .registered a l
            else .presumed a .siteDark (s.partTime + s.params.presumeHold * 10)),
          lastHandover := some (.timedOut, p) } ∧
        (∀ v, v ≠ u → tget t.radios v = tget s.radios v) ∧
        t.outbound = s.outbound ++ (if siteWorks s p then [.cancel p u k.tag] else []) ++
          (if siteWorks s a then [.cancel a u k.tag] else []) ∧
        (∀ j, (tget t.sites j).map Site.count = (tget s.sites j).map fun x => if j = p then x.count - 1 else x.count) ∧
        t.calls = s.calls ∧ t.notices = s.notices ∧ t.tagCounter = s.tagCounter ∧ engine t = engine s ∧ outer t = outer s)

/-- The score of a hearing entry (R51): G is 8 at a DEGRADED site and 0 at any other; the raw score is q + b − A − L − G; with quality,
bias and penalties in range it lies from −40 to 70; the score is the raw score clamped to 0 to 63. An entry of any site in any
state, confirmed or not, has one. The age penalty A is floor(a / D) up to 16 (R49); the occupancy o is floor(16 n' / c) below capacity and
16 at and above it, n' being the count at the serving site and one more elsewhere; and the load penalty L is 0 up to o = 12, then 2, 4, 6
and 8 (R50). -/
def Obligations.ScoresFollowTheRule : Prop :=
  (∀ d, degradedPenalty (.degraded d) = 8 ∧ degradedPenalty (.up d) = 0) ∧ degradedPenalty .down = 0 ∧
    degradedPenalty .dark = 0 ∧
  (∀ (q ageP loadP degP : Nat) (b : Int), rawScore q b ageP loadP degP = (q : Int) + b - ageP - loadP - degP ∧
    (q ≤ 63 → -8 ≤ b → b ≤ 7 → ageP ≤ 16 → loadP ≤ 8 → degP ≤ 8 →
      -40 ≤ rawScore q b ageP loadP degP ∧ rawScore q b ageP loadP degP ≤ 70)) ∧
  (∀ (a d n c : Nat), agePenalty a d ≤ 16 ∧ loadPenalty (siteOccupancy n c) ≤ 8) ∧
  (∀ (a d : Nat), 1 ≤ d → (a < 16 * d → agePenalty a d = a / d) ∧ (16 * d ≤ a → agePenalty a d = 16)) ∧
  (∀ (n c : Nat), 1 ≤ c → (n < c → siteOccupancy n c = 16 * n / c) ∧ (c ≤ n → siteOccupancy n c = 16)) ∧
  (∀ o, o ≤ 12 → loadPenalty o = 0) ∧ loadPenalty 13 = 2 ∧ loadPenalty 14 = 4 ∧ loadPenalty 15 = 6 ∧ loadPenalty 16 = 8 ∧
  (∀ raw : Int, (clampScore raw : Int) = min 63 (max 0 raw)) ∧
  ∀ (s : State) (t : Nat) (inSet : List Nat) (serving : Bool) (x : Site) (h : Hearing),
    score s t inSet serving x h ≤ 63 ∧
    score s t inSet serving x h = clampScore (rawScore h.quality x.bias
      (agePenalty (if h.site ∈ inSet then 0 else min 65535 ((t - h.heard) / 10)) s.params.ageDecay)
      (loadPenalty (siteOccupancy (if serving then x.count else x.count + 1) x.capacity)) (degradedPenalty x.state))

/-- A hearing-list update (R39 to R42) of a list of at most four entries, one for a site, in order of heard time, newest first: the result
is such a list again; the site has its entry with the quality and heard time given; it stands before every entry as old or
older; an entry of the serving or pending site stays; and no entry appears but the site's. A new entry is unconfirmed exactly
where the record is REGISTERED or MOVING and the site is neither its serving or pending site nor a neighbour of the serving
site; an unconfirmed entry is confirmed by a later burst. -/
def Obligations.HearingListUpdates : Prop :=
  ∀ (s : State) (st : RecordState) (l : List Hearing) (n q heard openedAt : Nat),
    l.length ≤ 4 → (l.map Hearing.site).Nodup → l.Pairwise (fun x y => y.heard ≤ x.heard) →
    let l' := updateHearing s st l n q heard openedAt
    l'.length ≤ 4 ∧ (l'.map Hearing.site).Nodup ∧ l'.Pairwise (fun x y => y.heard ≤ x.heard) ∧
    (∀ h ∈ l', h.site ≠ n → h ∈ l) ∧
    (∀ h ∈ l, h.site ≠ n → h.site ∈ countedSites st → h ∈ l') ∧
    (∀ old ∈ l, old.site = n →
      { old with quality := q, heard := heard, confirmed := old.confirmed || decide (old.heard < openedAt) } ∈ l' ∧
      ∀ h ∈ l, h.site ≠ n → h ∈ l') ∧
    (n ∉ l.map Hearing.site → ∃ h ∈ l', h.site = n ∧ h.quality = q ∧ h.heard = heard ∧ h.backoff = none ∧
      (h.confirmed = false ↔
        (stateName st = .registered ∨ stateName st = .moving) ∧ n ∉ countedSites st ∧
          ∀ a x, servingSite st = some a → tget s.sites a = some x → n ∉ x.neighbours)) ∧
    (l'.filter (fun h => h.site != n)).Sublist l ∧
    (l.length < 4 → ∀ h ∈ l, h.site ≠ n → h ∈ l') ∧
    (l.length = 4 → n ∉ l.map Hearing.site → ∀ e ∈ l, e.site ∉ countedSites st →
      (∀ h ∈ l, h.site ∉ countedSites st → e.heard < h.heard ∨ (e.heard = h.heard ∧ h.site ≤ e.site)) →
      e ∉ l' ∧ ∀ h ∈ l, h ≠ e → h ∈ l') ∧
    ∀ l₁ h l₂, l' = l₁ ++ h :: l₂ → h.site = n → ∀ x ∈ l₁, heard < x.heard

/-! ### The close of a burst, and the deadlines of a record -/

/-- The settle deadline of a record in REGISTERED, MOVING, PRESUMED or LOST closes its burst (R33, R37): the burst is gone, its set is the
previous set, and the last sequence, the hearing list and every other record are as they were. In MOVING, with no reported list
and no emergency, the close only renews the lease, from the settle deadline (R10, R57). A reported list is applied by the regroup state:
taken, confirmed or ignored, an entry gained while its recall is ACTIVE flagged (R115, R119), and in MOVING the member counts follow at
both sites (R82). An emergency flag makes the emergency active from the settle deadline (R23), with the notice EMERGENCY, first of the
close's where step 2 raised none: no list is reported, or no group has a call and no flag is set. The notice's own time is part time (log
entry 21). A REGISTERED record that stays only has its lease renewed, and a
first-flagged burst then sends ADOPT to its serving site, or sets the sync-lost flag for want of room (R38, R102). -/
def Obligations.SettleClosesTheBurst : Prop :=
  (∀ (s : State) (u : Nat) (r : Radio) (b : Burst), tget s.radios u = some r → r.burst = some b → b.settle ≤ s.partTime →
     (servingSite r.state ≠ none ∨ stateName r.state = .lost →
       ∃ t r', exec (.settleExpiry u) s = .next t ∧ tget t.radios u = some r' ∧ r'.burst = none ∧
         r'.prev = some { seq := b.seq, sites := b.sites, openedAt := b.openedAt } ∧
         r'.lastSeq = r.lastSeq ∧ r'.hearing = r.hearing ∧
         (∀ v, v ≠ u → tget t.radios v = tget s.radios v) ∧ engineButGap t = engineButGap s ∧ outer t = outer s) ∧
     (∀ a p l k, r.state = .moving a p l k → b.reported = none → b.emergency = none →
       exec (.settleExpiry u) s = .next { s with
         radios := tput s.radios u { r with
           state := .moving a p (b.settle + s.params.lease * 10) k, burst := none,
           prev := some { seq := b.seq, sites := b.sites, openedAt := b.openedAt } } })) ∧
  ∀ (s : State) (u : Nat) (r : Radio) (b : Burst), tget s.radios u = some r → r.burst = some b → b.settle ≤ s.partTime →
    (servingSite r.state ≠ none ∨ stateName r.state = .lost →
      ∃ t r', exec (.settleExpiry u) s = .next t ∧ tget t.radios u = some r' ∧ closedBy s r r' b b.settle ∧
        (∀ n, b.emergency = some n → r.emergency = none →
          b.reported = none ∨ (noActiveCalls s ∧ ∀ m ∈ r.groups, m.pending = false) → s.notices.length < 64 →
          ∃ more, t.notices = s.notices ++ { time := s.partTime, body := .emergency u n (stateName r.state) } :: more)) ∧
    (∀ a p l k, r.state = .moving a p l k → recordOk r → countsAscend s →
      ∃ t r', exec (.settleExpiry u) s = .next t ∧ tget t.radios u = some r' ∧
        r'.state = .moving a p (b.settle + s.params.lease * 10) k ∧
        (∀ g j, memberCount t g j =
          shifted (groupNumbers r.groups) (listAfter s r b.reported) [a, p] g j (memberCount s g j)) ∧
        (∀ j, (tget t.sites j).map Site.count = (tget s.sites j).map Site.count) ∧ t.tagCounter = s.tagCounter) ∧
    (∀ a l, r.state = .registered a l → b.reported = none → b.emergency = none →
      handoverDecision s b.settle b.sites a r.hearing = none →
      let stays : State := { s with
        radios := tput s.radios u { r with
          state := .registered a (b.settle + s.params.lease * 10), burst := none, prev := some (setOf b) } }
      (b.first = false ∨ siteWorks s a = false → exec (.settleExpiry u) s = .next stays) ∧
      (b.first = true → siteWorks s a = true → s.outbound.length + 1 ≤ 448 → roomForOne s →
        exec (.settleExpiry u) s = .next { stays with outbound := s.outbound ++ [.adopt a u (groupNumbers r.groups)] }) ∧
      (b.first = true → siteWorks s a = true → ¬(s.outbound.length + 1 ≤ 448 ∧ roomForOne s) →
        ∃ t, exec (.settleExpiry u) s = .next t ∧ t.radios = stays.radios ∧ t.outbound = s.outbound ∧
          (tget t.sites a).map Site.syncLost = some true))

/-- A close that finds a REGISTERED record and decides for a target p starts a handover (R10, R55, R65, R66): the record is MOVING from a to
p with the counter's tag, no flag seen, the handover deadline and the lease running from the close; the tag counter advances;
PREPARE to p and QUIESCE to a are queued first; and the count at p rises by one. -/
def Obligations.SettleStartsAHandover : Prop :=
  ∀ (s : State) (u a l p : Nat) (r : Radio) (b : Burst), Ascending s.radios →
    tget s.radios u = some r → r.state = .registered a l → r.burst = some b → b.settle ≤ s.partTime →
    b.reported = none → b.emergency = none → handoverDecision s b.settle b.sites a r.hearing = some p →
    ∃ t more, exec (.settleExpiry u) s = .next t ∧
      tget t.radios u = some { r with
        state := .moving a p (b.settle + s.params.lease * 10)
          { tag := s.tagCounter, readySeen := false, quiescedSeen := false,
            deadline := b.settle + s.params.handoverTimeout * 10 },
        burst := none, prev := some { seq := b.seq, sites := b.sites, openedAt := b.openedAt } } ∧
      (∀ v, v ≠ u → tget t.radios v = tget s.radios v) ∧
      t.tagCounter = (s.tagCounter + 1) % 65536 ∧
      t.outbound = s.outbound ++ .prepare p u s.tagCounter (groupNumbers r.groups) :: .quiesce a u s.tagCounter :: more ∧
      (∀ j, (tget t.sites j).map Site.count = (tget s.sites j).map fun x => if j = p then x.count + 1 else x.count) ∧
      engine t = engine s ∧ outer t = outer s

/-- A handover is decided exactly when its conditions hold (R52 to R55): the serving site works and has its entry; the target is the best
of the other sites that work, accept, have room, are confirmed and are not in backoff: no such target scores higher, nor equal with a
lower number; its score reaches the serving score plus the serving site's hysteresis; RELEASE-OUT is set at the serving site; and the
outbound queue has room for the two directives and the reserve. The evacuation choice is the best target alone, at part time and without a
closing burst (R62). -/
def Obligations.HandoverDecisionConditions : Prop :=
  ∀ (s : State) (a : Nat) (l : List Hearing), (l.map Hearing.site).Nodup →
    (∀ (t : Nat) (inSet : List Nat) (p : Nat), handoverDecision s t inSet a l = some p ↔
      ∃ ha xa v, ha ∈ l ∧ ha.site = a ∧ tget s.sites a = some xa ∧ working xa.state = true ∧ bestFor s t inSet a l p v ∧
        score s t inSet true xa ha + xa.hysteresis ≤ v ∧ xa.releaseOut = true ∧
        s.outbound.length + 2 * movingCount s + 4 ≤ 512) ∧
    ∀ p, evacuationChoice s a l = some p ↔ ∃ v, bestFor s s.partTime [] a l p v

/-- Adoption. A candidate is a confirmed entry whose site works and holds the radio in a tier (R58, R59); the choice is the candidate of
the lowest tier, then of the highest score, then the record's own site, then the lower site number, and there is none exactly where there
is no candidate (R60). At the close of a burst of a JOINING, PRESUMED or LOST record, with or without a reported list and an emergency,
a chosen site c has the record REGISTERED with its lease from the close; the count rises at c and, where a PRESUMED record leaves
another site, falls there; the member counts of JOINING and LOST follow; the over flag of c is set where its count had reached its
capacity (R9, R15, R17, R61). Where no group has a call and no membership is lost: DROP goes to the left site and ADOPT to c while they
have room, and the notices are EMERGENCY, SITE-OVER and FOUND, in that order. With none chosen, JOINING is freed unless its emergency is
active, and otherwise the state stays (R9, R15, R17). Notices carry part time (log entry 21), and late entries, which noActiveCalls sets
aside, stand by log entry 11. -/
def Obligations.AdoptionPlacesTheRecord : Prop :=
  (∀ (s : State) (t : Nat) (inSet : List Nat) (st : RecordState) (l : List Hearing), (l.map Hearing.site).Nodup →
    (adoptionChoice s t inSet st l = none ↔ ∀ h ∈ l, ∀ tier v, ¬offers s t inSet st h tier v) ∧
    ∀ c, adoptionChoice s t inSet st l = some c ↔
      ∃ h ∈ l, ∃ tier v, h.site = c ∧ offers s t inSet st h tier v ∧
        ∀ h' ∈ l, ∀ tier' v', h'.site ≠ c → offers s t inSet st h' tier' v' →
          tier < tier' ∨ (tier = tier' ∧ (v' < v ∨ (v = v' ∧
            (ownSite st = some c ∨ (ownSite st ≠ some h'.site ∧ c < h'.site)))))) ∧
  ∀ (s : State) (u : Nat) (r : Radio) (b : Burst), Ascending s.radios → tget s.radios u = some r → r.burst = some b →
    b.settle ≤ s.partTime → r.state = .joining ∨ stateName r.state = .presumed ∨ stateName r.state = .lost →
    (∀ c x, adoptionChoice s b.settle b.sites r.state r.hearing = some c → tget s.sites c = some x →
      ∃ t r', exec (.settleExpiry u) s = .next t ∧ tget t.radios u = some r' ∧ closedBy s r r' b b.settle ∧
        r'.state = .registered c (b.settle + s.params.lease * 10) ∧
        (∀ v, v ≠ u → tget t.radios v = tget s.radios v) ∧
        (servingSite r.state = some c → (tget t.sites c).map Site.count = some x.count ∧
          (tget t.sites c).map Site.overFlag = some x.overFlag) ∧
        (servingSite r.state ≠ some c → (tget t.sites c).map Site.count = some (x.count + 1) ∧
          (tget t.sites c).map Site.overFlag = some (x.overFlag || decide (x.capacity ≤ x.count))) ∧
        (∀ j, j ≠ c → (tget t.sites j).map Site.count =
          (tget s.sites j).map fun y => if servingSite r.state = some j then y.count - 1 else y.count) ∧
        (servingSite r.state = none → countsAscend s → (groupNumbers r.groups).Nodup →
          ∀ g y, tget s.groups g = some y → ∀ j,
            memberCount t g j = memberCount s g j + if g ∈ listAfter s r b.reported ∧ j = c then 1 else 0) ∧
        (noActiveCalls s → b.reported = none ∨ r.groups = [] →
          (s.outbound.length + 2 ≤ 448 → s.outbound.length + 2 * movingCount s + 2 ≤ 512 →
            t.outbound = s.outbound ++
              (match servingSite r.state with
                | some a => if a ≠ c ∧ siteWorks s a = true then [.drop a u] else []
                | none => []) ++ [.adopt c u (listAfter s r b.reported)] ∧
            (s.notices.length + 3 ≤ 64 → t.notices = s.notices ++
              (match b.emergency, r.emergency with
                | some n, none => [{ time := s.partTime, body := .emergency u n (stateName r.state) }]
                | _, _ => []) ++
              (if servingSite r.state ≠ some c ∧ x.capacity ≤ x.count ∧ x.overFlag = false then
                [{ time := s.partTime, body := .siteOver c (x.count + 1) x.capacity }] else []) ++
              (if stateName r.state = .lost then [{ time := s.partTime, body := .found u c }] else []))) ∧
          (¬(s.outbound.length + 1 ≤ 448 ∧ roomForOne s) →
            t.outbound = s.outbound ∧ (tget t.sites c).map Site.syncLost = some true)) ∧
        t.tagCounter = s.tagCounter ∧ engineButGap t = engineButGap s ∧ outer t = outer s) ∧
    (adoptionChoice s b.settle b.sites r.state r.hearing = none →
      ∃ t, exec (.settleExpiry u) s = .next t ∧
        (∀ v, v ≠ u → tget t.radios v = tget s.radios v) ∧
        (r.state = .joining → r.emergency = none → b.emergency = none →
          tget t.radios u = none ∧ t.sites = s.sites ∧ t.calls = s.calls ∧ t.outbound = s.outbound ∧
          (b.reported = none → (∀ m ∈ r.groups, m.pending = false) → t = { s with radios := tdel s.radios u })) ∧
        (r.state ≠ .joining ∨ emergencyAfter r b b.settle ≠ none →
          ∃ r', tget t.radios u = some r' ∧ closedBy s r r' b b.settle ∧ r'.state = r.state ∧
            ∀ j, (tget t.sites j).map Site.count = (tget s.sites j).map Site.count) ∧
        t.tagCounter = s.tagCounter ∧ engineButGap t = engineButGap s ∧ outer t = outer s)

/-- The expiry of a lease (R11, R12): REGISTERED becomes PRESUMED with cause LEASE at its serving site and nothing else changes; MOVING has its
handover aborted, with CANCEL to each site that works and the count at the pending site lowered, and becomes PRESUMED with cause
LEASE at its from-site. -/
def Obligations.LeaseExpiryPresumes : Prop :=
  ∀ (s : State) (u : Nat) (r : Radio), tget s.radios u = some r →
    (∀ a l, r.state = .registered a l → l ≤ s.partTime →
      exec (.leaseExpiry u) s = .next { s with
        radios := tput s.radios u { r with state := .presumed a .lease (s.partTime + s.params.presumeHold * 10) } }) ∧
    (∀ a p l k, r.state = .moving a p l k → l ≤ s.partTime →
      ∃ t, exec (.leaseExpiry u) s = .next t ∧
        tget t.radios u = some { r with
          state := .presumed a .lease (s.partTime + s.params.presumeHold * 10), lastHandover := some (.aborted, p) } ∧
        (∀ v, v ≠ u → tget t.radios v = tget s.radios v) ∧
        t.outbound = s.outbound ++ (if siteWorks s p then [.cancel p u k.tag] else []) ++
          (if siteWorks s a then [.cancel a u k.tag] else []) ∧
        (∀ j, (tget t.sites j).map Site.count = (tget s.sites j).map fun x => if j = p then x.count - 1 else x.count) ∧
        t.calls = s.calls ∧ t.notices = s.notices ∧ t.tagCounter = s.tagCounter ∧ engine t = engine s ∧ outer t = outer s)

/-- The expiry of a hold: a PRESUMED record at a becomes LOST with last site a, keeps its groups, flags and emergency, leaves the count at a,
DROP goes to a while a works and an ordinary directive has room, and LOST is raised (R16, R19); a RETIRED record without flags is
freed, and nothing else changes (R4, R22). -/
def Obligations.HoldExpiriesLoseAndFree : Prop :=
  ∀ (s : State) (u : Nat) (r : Radio), Ascending s.radios → tget s.radios u = some r →
    (∀ a y h, r.state = .presumed a y h → h ≤ s.partTime →
      ∃ t, exec (.presumeHoldExpiry u) s = .next t ∧
        tget t.radios u = some { r with state := .lost a } ∧
        (∀ v, v ≠ u → tget t.radios v = tget s.radios v) ∧
        (∀ j, (tget t.sites j).map Site.count = (tget s.sites j).map fun x => if j = a then x.count - 1 else x.count) ∧
        (siteWorks s a = true → s.outbound.length + 1 ≤ 448 → roomForOne s →
          t.outbound = s.outbound ++ [.drop a u] ∧
          (s.notices.length < 64 →
            t.notices = s.notices ++ [{ time := s.partTime, body := .lost u a r.emergency.isSome }])) ∧
        (siteWorks s a = false → t.outbound = s.outbound ∧
          (s.notices.length < 64 →
            t.notices = s.notices ++ [{ time := s.partTime, body := .lost u a r.emergency.isSome }]) ∧
          (64 ≤ s.notices.length → t.notices = s.notices ∧ t.noticeOverflow = true)) ∧
        t.calls = s.calls ∧ t.tagCounter = s.tagCounter ∧ engine t = engine s ∧ outer t = outer s) ∧
    (∀ n y h, r.state = .retired n y h → h ≤ s.partTime → (∀ m ∈ r.groups, m.pending = false) →
      exec (.retireHoldExpiry u) s = .next { s with radios := tdel s.radios u })

/-! ### Sites -/

/-- What a GOOD or STRAINED status does. At an UP or DEGRADED site it sets the state, restarts the heartbeat and records the
condition, and nothing else (R90 to R92, R96). At a DOWN site it makes the site UP or DEGRADED with its heartbeat, and SITE-UP is raised with
the new state and 0 restored (R95). At a DARK site, besides, every record that is PRESUMED with cause SITE-DARK there is REGISTERED again with
a fresh lease, every other record stays as it was, and no count moves (R14); ADOPT goes to the site for each, in ascending order of unit,
while ordinary directives have room, and without room they are dropped and the sync-lost flag is set (R102); SITE-UP carries the number
restored. -/
def Obligations.StatusesMoveTheSiteState : Prop :=
  (∀ (s : State) (n v : Nat) (x : Site) (rest : List SiteMsg) (c : Condition) (st : SiteState) (name : SiteStateName),
     s.phase = .service → wfSite n = true → tget s.sites n = some x → s.siteIn = .status n v :: rest →
     (v = 1 ∧ c = .good ∧ st = .up (s.partTime + s.params.heartbeatTimeout * 10) ∧ name = .up) ∨
       (v = 2 ∧ c = .strained ∧ st = .degraded (s.partTime + s.params.heartbeatTimeout * 10) ∧ name = .degraded) →
     (x.state = .down → s.notices.length < 64 →
       exec .siteStatus s = .next { s with
         siteIn := rest, sites := tput s.sites n { x with condition := some c, state := st }
         notices := s.notices ++ [timed s (.siteUp n name 0)] }) ∧
     (x.state = .dark → Ascending s.radios →
       let back := s.radios.filter fun p => awaitsSite n p.2
       ∃ t, exec .siteStatus s = .next t ∧ (tget t.sites n).map Site.state = some st ∧
         (tget t.sites n).map Site.condition = some (some c) ∧
         (∀ u r, tget s.radios u = some r → tget t.radios u = some (if awaitsSite n r then
           { r with state := .registered n (s.partTime + s.params.lease * 10) } else r)) ∧
         (∀ u, tget s.radios u = none → tget t.radios u = none) ∧
         (∀ j, (tget t.sites j).map Site.count = (tget s.sites j).map Site.count) ∧
         (s.outbound.length + back.length ≤ 448 → s.outbound.length + 2 * movingCount s + back.length ≤ 512 →
           t.outbound = s.outbound ++ back.map (fun p => .adopt n p.1 (groupNumbers p.2.groups)) ∧
           t.sites = tput s.sites n { x with condition := some c, state := st } ∧
           (s.notices.length < 64 → t.notices = s.notices ++ [timed s (.siteUp n name back.length)])) ∧
         (¬(s.outbound.length + 1 ≤ 448 ∧ roomForOne s) →
           t.outbound = s.outbound ∧ (back ≠ [] → (tget t.sites n).map Site.syncLost = some true) ∧
           (s.notices.length + 2 ≤ 64 → t.notices = s.notices ++
             (if back ≠ [] ∧ x.syncLost = false then [timed s (.syncLost n)] else []) ++
             [timed s (.siteUp n name back.length)])) ∧
         t.groups = s.groups ∧ t.calls = s.calls ∧ t.tagCounter = s.tagCounter ∧ engineButGap t = engineButGap s ∧
         outer t = outer { s with siteIn := rest })) ∧
  ∀ (s : State) (n : Nat) (x : Site) (rest : List SiteMsg), s.phase = .service → wfSite n = true →
    tget s.sites n = some x →
    (∀ d, x.state = .up d ∨ x.state = .degraded d →
      (s.siteIn = .status n 1 :: rest →
        exec .siteStatus s = .next { s with
          siteIn := rest
          sites := tput s.sites n { x with
            condition := some .good, state := .up (s.partTime + s.params.heartbeatTimeout * 10) } }) ∧
      (s.siteIn = .status n 2 :: rest →
        exec .siteStatus s = .next { s with
          siteIn := rest
          sites := tput s.sites n { x with
            condition := some .strained, state := .degraded (s.partTime + s.params.heartbeatTimeout * 10) } })) ∧
    (s.siteIn = .status n 1 :: rest → x.state = .down → s.notices.length < 64 →
      exec .siteStatus s = .next { s with
        siteIn := rest
        sites := tput s.sites n { x with
          condition := some .good, state := .up (s.partTime + s.params.heartbeatTimeout * 10) }
        notices := s.notices ++ [{ time := s.partTime, body := .siteUp n .up 0 }] }) ∧
    (s.siteIn = .status n 1 :: rest → x.state = .dark → Ascending s.radios →
      ∃ t, exec .siteStatus s = .next t ∧
        (tget t.sites n).map Site.state = some (.up (s.partTime + s.params.heartbeatTimeout * 10)) ∧
        (∀ u r, tget s.radios u = some r → tget t.radios u = some (if awaitsSite n r then
          { r with state := .registered n (s.partTime + s.params.lease * 10) } else r)) ∧
        (∀ u, tget s.radios u = none → tget t.radios u = none) ∧
        (∀ j, (tget t.sites j).map Site.count = (tget s.sites j).map Site.count) ∧
        t.groups = s.groups ∧ t.calls = s.calls ∧ t.tagCounter = s.tagCounter ∧ engineButGap t = engineButGap s ∧
        outer t = outer { s with siteIn := rest })

/-- A site goes DARK when its heartbeat deadline is reached or a FAILING status is taken from it (R92 to R94). It is DARK; REGISTERED records
served there are PRESUMED with cause SITE-DARK (R13); a MOVING record that leaves it has quiesced-seen set, and commits where the
READY was seen (R78); one that goes to it from a working site is REGISTERED again where it came from, outcome ABORTED (R79); other
records stay; no call has a status there; and its queue is empty. Its count falls by one for each handover that commits or is aborted, and
no other site's record moves. In ascending order of unit, COMMIT goes to the to site of each handover that commits and CANCEL to the from
site of each that is aborted, where that site works, and nothing else is sent. SITE-DARK is raised with its cause and the count so
left. -/
def Obligations.SilentOrFailingSitesGoDark : Prop :=
  ∀ (s : State) (n d : Nat) (x : Site), Ascending s.radios → Ascending s.calls → (∀ p ∈ s.calls, Ascending p.2.map) →
    tget s.sites n = some x → x.state = .up d ∨ x.state = .degraded d →
    ∀ (c : Instr) (after : List SiteMsg),
      (c = .heartbeatExpiry n ∧ d ≤ s.partTime ∧ after = s.siteIn) ∨
        (c = .siteStatus ∧ s.phase = .service ∧ wfSite n = true ∧ s.siteIn = .status n 3 :: after) →
      ∃ t y, exec c s = .next t ∧ tget t.sites n = some y ∧ y.state = .dark ∧ y.queue = [] ∧
        (∀ k, callStatus t k n = none) ∧
        (∀ k j, j ≠ n → callStatus t k j = callStatus s k j) ∧
        (∀ u r a l, tget s.radios u = some r → r.state = .registered a l →
          tget t.radios u = some (if a = n then
            { r with state := .presumed n .siteDark (s.partTime + s.params.presumeHold * 10) } else r)) ∧
        (∀ u r p l k, tget s.radios u = some r → r.state = .moving n p l k → p ≠ n →
          tget t.radios u = some (if k.readySeen then
            { r with state := .registered p l, lastHandover := some (.completed, p) }
            else { r with state := .moving n p l { k with quiescedSeen := true } })) ∧
        (∀ u r a l k, tget s.radios u = some r → r.state = .moving a n l k → siteWorks s a = true → a ≠ n →
          tget t.radios u = some { r with state := .registered a l, lastHandover := some (.aborted, n) }) ∧
        (∀ u r, tget s.radios u = some r → n ∉ countedSites r.state ∨ stateName r.state = .presumed →
          tget t.radios u = some r) ∧
        (let left := s.radios.countP fun p => leavesDark n p.2
         y = { x with
           state := .dark, queue := [], count := x.count - left
           condition := if c = .siteStatus then some .failing else x.condition
           overFlag := x.overFlag && !(decide (0 < left) && decide (x.count - left < x.capacity)) }) ∧
        (∀ j, j ≠ n → tget t.sites j = tget s.sites j) ∧
        t.outbound = s.outbound ++ s.radios.flatMap (darkDirectives s n) ∧
        (s.notices.length < 64 →
          t.notices = s.notices ++ [timed s (.siteDark n (decide (c = .siteStatus)) y.count)]) ∧
        t.tagCounter = s.tagCounter ∧ engine t = engine s ∧ outer t = outer { s with siteIn := after }

/-! ### Calls -/

/-- A CALL-REQUEST from an admitted site for a configured group without a call, while fewer than 32 calls exist, creates one (R128 to R131): it
has the lowest free identifier, the group, the origin site, the talker and the time; its priority is EMERGENCY where the unit's
emergency is active and the group's otherwise; the group holds it as its active call; and ACCEPTED with the number of sites granted
stands where the request's answer was placed, ahead of the grants. For a group with a call it joins: talker, origin and state are set,
the priority is raised by an active emergency, and the call is arbitrated at the origin where it has no status there and nowhere else
(R129, R132). At 32 calls a request below EMERGENCY, or one that meets only EMERGENCY calls, is REFUSED-FULL and changes nothing; an
EMERGENCY one ends the lowest-priority, earliest-created call, with the notice CALL-PREEMPTED, and takes its identifier (R133). -/
def Obligations.CallRequestCreatesACall : Prop :=
  (∀ (s : State) (n g u : Nat) (x : Group) (rest : List SiteMsg),
     s.siteIn = .callRequest n g u :: rest → roomForOne s → admitted s n → wfGroup g = true → tget s.groups g = some x →
     x.activeCall = none → s.calls.length < 32 →
     ∃ t c y more, exec .callRequest s = .next t ∧
       1 ≤ c ∧ c ≤ 32 ∧ tget s.calls c = none ∧ (∀ k, 1 ≤ k → k < c → tget s.calls k ≠ none) ∧
       tget t.calls c = some y ∧ y.group = g ∧ y.state = .active ∧ y.origin = n ∧ y.talker = u ∧ y.created = s.partTime ∧
       y.priority = (if ((tget s.radios u).bind Radio.emergency).isSome then .emergency else x.priority) ∧
       (tget t.groups g).map Group.activeCall = some (some c) ∧
       t.outbound = s.outbound ++ .callAnswer n .accepted c
         (y.map.countP fun p => (heldChannel (some p.2)).isSome) :: more ∧
       t.radios = s.radios ∧ t.tagCounter = s.tagCounter ∧ engine t = engine s ∧ outer t = outer { s with siteIn := rest }) ∧
  ∀ (s : State) (n g u : Nat) (x : Group) (rest : List SiteMsg),
    s.siteIn = .callRequest n g u :: rest → roomForOne s → admitted s n → wfGroup g = true → tget s.groups g = some x →
    (∀ c y, x.activeCall = some c → tget s.calls c = some y →
      let joined : Call := { y with
        talker := u, origin := n, state := .active
        priority := if ((tget s.radios u).bind Radio.emergency).isSome then .emergency else y.priority }
      (tget y.map n ≠ none →
        exec .callRequest s = .next { s with
          siteIn := rest
          calls := tput s.calls c joined
          outbound := s.outbound ++ [.callAnswer n .accepted c (grantsOf y.map)] }) ∧
      (tget y.map n = none →
        ∃ t y' more, exec .callRequest s = .next t ∧ tget t.calls c = some y' ∧ y' = { joined with map := y'.map } ∧
          tget y'.map n ≠ none ∧ (∀ j, j ≠ n → tget y'.map j = tget y.map j) ∧
          t.outbound = s.outbound ++ .callAnswer n .accepted c (grantsOf y'.map) :: more ∧
          t.radios = s.radios ∧ t.groups = s.groups ∧ t.tagCounter = s.tagCounter ∧ engine t = engine s ∧
          outer t = outer { s with siteIn := rest } ∧
          ∀ ch z, tget s.sites n = some z → 1 ≤ ch → ch ≤ z.voice → ch ∉ channelsHeld s n →
            (∀ k, 1 ≤ k → k < ch → k ∈ channelsHeld s n) → s.outbound.length + 2 * movingCount s + 2 ≤ 512 →
            y'.map = tput y.map n (.granted ch s.partTime) ∧ more = [.callGrant n c y.group ch])) ∧
    (x.activeCall = none → 32 ≤ s.calls.length →
      let asked : Priority := if ((tget s.radios u).bind Radio.emergency).isSome then .emergency else x.priority
      (asked ≠ .emergency ∨ (∀ p ∈ s.calls, p.2.priority = .emergency) →
        exec .callRequest s = .next { s with
          siteIn := rest, outbound := s.outbound ++ [.callAnswer n .refusedFull 0 0] }) ∧
      (∀ e y, asked = .emergency → CallTableOk s → endedForRoom s e y → s.notices.length < 64 →
        ∃ t z more notices, exec .callRequest s = .next t ∧ tget t.calls e = some z ∧
          z.group = g ∧ z.priority = .emergency ∧ z.state = .active ∧ z.origin = n ∧ z.talker = u ∧ z.created = s.partTime ∧
          (tget t.groups g).map Group.activeCall = some (some e) ∧
          (tget t.groups y.group).map Group.activeCall = some none ∧
          t.outbound = s.outbound ++ .callAnswer n .accepted e (grantsOf z.map) :: more ∧
          t.notices = s.notices ++ { time := s.partTime, body := .callPreempted e y.group 0 e } :: notices ∧
          t.radios = s.radios ∧ t.tagCounter = s.tagCounter ∧ engine t = engine s ∧ outer t = outer { s with siteIn := rest }))

/-- The end of a call (R143 to R145). A CALL-END from the origin site of an ACTIVE call starts its hang time and changes nothing else, and
ends the call at once where the call hang is 0. The hang deadline and FORCE-END end it too. A call that ended is gone, its group has
no active call, every other call stays, and no radio record changes. Its queue entries leave their queues; then, site by site in ascending
order, CALL-DROP goes out where it was GRANTED, and the freed channel goes to the head of that site's queue, with its CALL-GRANT, while
the outbound queue has room for them all (R140, R144). -/
def Obligations.CallsHangAndEnd : Prop :=
  (∀ (s : State) (c : Nat) (x : Call), tget s.calls c = some x → Ascending s.calls →
     (∀ n rest, s.siteIn = .callEnd n c :: rest → admitted s n → wfCall c = true → x.state = .active → x.origin = n →
       s.params.callHang ≠ 0 →
       exec .callEnd s = .next { s with
         siteIn := rest
         calls := tput s.calls c { x with state := .hang (s.partTime + s.params.callHang * 10) } }) ∧
     ∀ (i : Instr) (u : State), endsCall s c x i u →
       ∃ t, exec i s = .next t ∧ tget t.calls c = none ∧
         (∀ k, k ≠ c → (tget t.calls k).map Call.group = (tget s.calls k).map Call.group) ∧
         (∀ g, (tget t.groups g).map Group.activeCall =
           (tget s.groups g).map fun y => if g = x.group then none else y.activeCall) ∧
         t.radios = s.radios ∧ t.tagCounter = s.tagCounter ∧ t.notices = s.notices ∧ engine t = engine s ∧ outer t = outer u) ∧
  ∀ (s : State) (c : Nat) (x : Call) (i : Instr) (u : State), tget s.calls c = some x → Ascending s.calls → Ascending x.map →
    endsCall s c x i u →
    (∀ n ch since z, tget x.map n = some (.granted ch since) → tget s.sites n = some z → c ∉ z.queue) →
    s.outbound.length + 2 * movingCount s + 2 * x.map.length ≤ 512 →
    ∃ t, exec i s = .next t ∧ t.outbound = s.outbound ++ x.map.flatMap (endDirectives s c) ∧
      (∀ j z, tget s.sites j = some z → tget t.sites j = some { z with
        queue :=
          match tget x.map j with
          | some (.queued _ _) => z.queue.erase c
          | some (.granted _ _) =>
            (match channelQueue s j with
              | k :: _ => z.queue.erase k
              | [] => z.queue)
          | _ => z.queue }) ∧
      ∀ k y j, k ≠ c → tget s.calls k = some y → callStatus t k j =
        match tget x.map j with
        | some (.granted ch _) => if (channelQueue s j).head? = some k then some (.granted ch s.partTime) else tget y.map j
        | _ => tget y.map j

/-- The queue-hold deadline of a QUEUED entry makes the call BUSY-OUT at the site and takes it out of the queue; no other status, no other
queue and no other record changes, and no directive or notice follows (R138). -/
def Obligations.QueueHoldExpiryMakesBusyOut : Prop :=
  ∀ (s : State) (n c y h : Nat), callStatus s c n = some (.queued y h) → h ≤ s.partTime →
    ∃ t, exec (.queueHoldExpiry n c) s = .next t ∧ callStatus t c n = some .busyOut ∧
      (∀ k j, k ≠ c ∨ j ≠ n → callStatus t k j = callStatus s k j) ∧
      (∀ j, tget t.sites j = (tget s.sites j).map fun x => if j = n then { x with queue := x.queue.erase c } else x) ∧
      t = { s with sites := t.sites, calls := t.calls }

/-- The arbitration of a call at a site with a free channel (R135): with room for the CALL-GRANT the call is GRANTED the lowest-numbered free
channel from now and CALL-GRANT is queued; without room it is BUSY-OUT and the channel stays free (R141). No other call or queue
changes. With no channel free, an EMERGENCY call takes the channel of the victim, which is BUSY-OUT, with CALL-DROP, CALL-GRANT and the
notice CALL-PREEMPTED, or is BUSY-OUT itself where both have no room (R136); any other call, or one that finds no victim, joins a queue
of fewer than eight, and at a full one displaces the last entry, where that ranks lower, or is BUSY-OUT (R137). The queue's order is by
priority, then by joining. A group and site passed for late entry arbitrate the group's call where the site works and the call has no
status there, and change nothing otherwise (R116, R142). -/
def Obligations.ArbitrationGrantsTheLowestFreeChannel : Prop :=
  (∀ (s : State) (c n ch : Nat) (x : Call) (z : Site), tget s.calls c = some x → tget s.sites n = some z →
     1 ≤ ch → ch ≤ z.voice → ch ∉ channelsHeld s n → (∀ k, 1 ≤ k → k < ch → k ∈ channelsHeld s n) →
     (roomForOne s → arbitrate s c n = { s with
       calls := tput s.calls c { x with map := tput x.map n (.granted ch s.partTime) }
       outbound := s.outbound ++ [.callGrant n c x.group ch] }) ∧
     (¬roomForOne s → arbitrate s c n = { s with calls := tput s.calls c { x with map := tput x.map n .busyOut } })) ∧
  (∀ (s : State) (n : Nat) (z : Site), tget s.sites n = some z →
    (channelQueue s n).Pairwise (fun k l => priorityRank (callPriority s l) ≤ priorityRank (callPriority s k)) ∧
    ∀ p, (channelQueue s n).filter (fun k => callPriority s k == p) = z.queue.filter (fun k => callPriority s k == p)) ∧
  (∀ (s : State) (c n : Nat) (x : Call) (z : Site), Ascending s.calls → tget s.calls c = some x → tget s.sites n = some z →
    noChannelFree s n z →
    let out (st : CallStatus) : Call := { x with map := tput x.map n st }
    let waits : CallStatus := .queued s.partTime (s.partTime + s.params.queueHold * 10)
    (∀ v y ch since, x.priority = .emergency → victimAt s n v y ch since →
      (s.outbound.length + 2 * movingCount s + 2 ≤ 512 → s.notices.length < 64 →
        arbitrate s c n = { s with
          calls := tput (tput s.calls v { y with map := tput y.map n .busyOut }) c (out (.granted ch s.partTime))
          outbound := s.outbound ++ [.callDrop n v ch, .callGrant n c x.group ch]
          notices := s.notices ++ [{ time := s.partTime, body := .callPreempted v y.group n c }] }) ∧
      (¬(s.outbound.length + 2 * movingCount s + 2 ≤ 512) →
        arbitrate s c n = { s with calls := tput s.calls c (out .busyOut) })) ∧
    (x.priority ≠ .emergency ∨ (∀ k y ch since, tget s.calls k = some y → tget y.map n = some (.granted ch since) →
        y.priority = .emergency) →
      (z.queue.length < 8 →
        arbitrate s c n = { s with
          sites := tput s.sites n { z with queue := z.queue ++ [c] }, calls := tput s.calls c (out waits) }) ∧
      (∀ k y, 8 ≤ z.queue.length → (channelQueue s n).getLast? = some k → k ≠ c → tget s.calls k = some y →
        (priorityRank y.priority < priorityRank x.priority →
          arbitrate s c n = { s with
            sites := tput s.sites n { z with queue := z.queue.erase k ++ [c] }
            calls := tput (tput s.calls k { y with map := tput y.map n .busyOut }) c (out waits) }) ∧
        (priorityRank x.priority ≤ priorityRank y.priority →
          arbitrate s c n = { s with calls := tput s.calls c (out .busyOut) })))) ∧
  ∀ (s : State) (g n : Nat) (x : Group), tget s.groups g = some x →
    (∀ c, x.activeCall = some c → siteWorks s n = true → callStatus s c n = none → passToCalls s (g, n) = arbitrate s c n) ∧
    ((∀ c, x.activeCall = some c → siteWorks s n = false ∨ callStatus s c n ≠ none) → passToCalls s (g, n) = s)

/-! ### Bulk operations -/

/-- A bulk request whose parameters exist, taken in SERVICE while the engine is IDLE, starts its operation with cursor, counts and page at
their start and is answered DONE (R166): RECALL makes its group ACTIVE, CANCEL-RECALL makes it CANCELLING (R174), EVACUATE clears ACCEPT-IN
of its site (R175), and ROSTER, RESYNC and PURGE have no start effect. A ROSTER limit above 32 is clamped and answered
DONE-CLAMPED; its filter is a site, a group or a class, and its cursor is its start key (R173). A parameter that names no filter, group
or site is NO-SUCH, in any state of the engine. -/
def Obligations.BulkRequestsStartWhenIdle : Prop :=
  (∀ (s : State) (e : RequestEntry) (rest : List RequestEntry) (wait : Bool), s.phase = .service → s.bulk = none →
     (∀ start limit, requestReady s e rest (.roster wait 3 9 start limit) →
       exec .roster s = .next { answered s e rest (if limit ≤ 32 then .done else .doneClamped) .none with
         bulk := some (startedAt (.roster (.cls .all) start (min 32 limit)) start) }) ∧
     (∀ g x, wfGroup g = true → tget s.groups g = some x →
       (requestReady s e rest (.recallGroup wait g) →
         exec .recallGroup s = .next { answered s e rest .done .none with
           groups := tput s.groups g { x with recallState := .active }
           bulk := some (startedAt (.recallGroup g) 0) }) ∧
       (requestReady s e rest (.cancelRecall wait g) →
         exec .cancelRecall s = .next { answered s e rest .done .none with
           groups := tput s.groups g { x with recallState := .cancelling }
           bulk := some (startedAt (.cancelRecall g) 0) })) ∧
     (∀ n x, wfSite n = true → tget s.sites n = some x →
       (requestReady s e rest (.evacuate wait n) →
         exec .evacuate s = .next { answered s e rest .done .none with
           sites := tput s.sites n { x with acceptIn := false }
           bulk := some (startedAt (.evacuate n) 0) }) ∧
       (requestReady s e rest (.resync wait n) →
         exec .resync s = .next { answered s e rest .done .none with
           bulk := some (startedAt (.resync n) 0) })) ∧
     (requestReady s e rest (.purge wait) →
       exec .purge s = .next { answered s e rest .done .none with
         bulk := some (startedAt .purge 0) })) ∧
  ∀ (s : State) (e : RequestEntry) (rest : List RequestEntry) (wait : Bool), s.phase = .service →
    (∀ form value start limit, requestReady s e rest (.roster wait form value start limit) →
      (∀ f, namesFilter s form value f → s.bulk = none →
        exec .roster s = .next { answered s e rest (if limit ≤ 32 then .done else .doneClamped) .none with
          bulk := some (startedAt (.roster f start (min 32 limit)) start) }) ∧
      ((∀ f, ¬namesFilter s form value f) → exec .roster s = .next (answered s e rest .noSuch .none))) ∧
    (∀ g, wfGroup g = false ∨ tget s.groups g = none →
      (requestReady s e rest (.recallGroup wait g) → exec .recallGroup s = .next (answered s e rest .noSuch .none)) ∧
      (requestReady s e rest (.cancelRecall wait g) → exec .cancelRecall s = .next (answered s e rest .noSuch .none))) ∧
    (∀ n, wfSite n = false ∨ tget s.sites n = none →
      (requestReady s e rest (.evacuate wait n) → exec .evacuate s = .next (answered s e rest .noSuch .none)) ∧
      (requestReady s e rest (.resync wait n) → exec .resync s = .next (answered s e rest .noSuch .none)))

/-- A step of the engine (R167). Without an operation, or while it is suspended, nothing changes. A RESYNC's step is held, with the room wait
set, while an ordinary directive has no room (R176; that the wait becomes set at this attempt, not when the room is lost, is the model's choice,
log entry 29). Otherwise the cursor moves to the next unit present and the visited count
rises: a RECALL visit of a member that is REGISTERED, MOVING, PRESUMED or LOST with its flag clear sets the flag and raises the
unreached count and the counter (R123, R174); a PURGE visit frees a RETIRED record without flags and counts it (R177). With no unit
above the cursor, a PURGE completes: its account is the last result, BULK-DONE is raised, and with no request waiting the
engine is IDLE (R171). So for the other kinds: a ROSTER visit collects a match, counts it with limit 0, or completes with the more flag
(R173); CANCEL-RECALL clears flags; EVACUATE moves, defers, strands or counts (R175); RESYNC sends ADOPT or counts what the site misses
(R176); a record that a kind does not act on is passed over. Completions: RECALL-COMPLETE where none is unreached, recall OFF, sync-lost
cleared without a gap; and a request that waits starts. -/
def Obligations.BulkStepVisitsOrCompletes : Prop :=
  (∀ s : State, Ascending s.radios →
     (s.bulk = none → exec .bulkStep s = .next s) ∧
     ∀ b, s.bulk = some b →
       (b.suspended = true → exec .bulkStep s = .next s) ∧
       (∀ n, b.suspended = false → b.op = .resync n → ¬(s.outbound.length + 1 ≤ 448 ∧ roomForOne s) →
         exec .bulkStep s = .next { s with bulk := some { b with roomWait := true } }) ∧
       (∀ u r g x, b.suspended = false → b.op = .recallGroup g → tnext s.radios b.cursor = some u →
         tget s.radios u = some r → servingSite r.state ≠ none ∨ stateName r.state = .lost →
         { group := g, pending := false } ∈ r.groups → tget s.groups g = some x →
         exec .bulkStep s = .next { s with
           radios := tput s.radios u { r with
             groups := r.groups.map fun m => if m.group = g then { m with pending := true } else m }
           groups := tput s.groups g { x with unreached := x.unreached + 1 }
           bulk := some { b with
             roomWait := false, cursor := u, visited := min 65535 (b.visited + 1),
             counters := { b.counters with c1 := min 65535 (b.counters.c1 + 1) } } }) ∧
       (∀ u r, b.suspended = false → b.op = .purge → tnext s.radios b.cursor = some u → tget s.radios u = some r →
         stateName r.state = .retired → (∀ m ∈ r.groups, m.pending = false) →
         exec .bulkStep s = .next { s with
           radios := tdel s.radios u
           bulk := some { b with
             roomWait := false, cursor := u, visited := min 65535 (b.visited + 1),
             counters := { b.counters with c1 := min 65535 (b.counters.c1 + 1) } } }) ∧
       (b.suspended = false → b.op = .purge → tnext s.radios b.cursor = none → s.bulkWaiting = none → s.notices.length < 64 →
         exec .bulkStep s = .next { s with
           bulk := none
           bulkLast := some ({ op := .purge, completed := true, visited := b.visited, counters := b.counters }, s.partTime)
           notices := s.notices ++ [{
             time := s.partTime
             body := .bulkDone { op := .purge, completed := true, visited := b.visited, counters := b.counters } none }] })) ∧
  ∀ (s : State) (b : BulkRun), Ascending s.radios → s.bulk = some b → b.suspended = false →
    (∀ u r, tnext s.radios b.cursor = some u → tget s.radios u = some r →
      let passed : State := { s with bulk := some (atUnit b u) }
      let counts (i : Nat) : State := { s with bulk := some (raised (atUnit b u) i) }
      (∀ f start limit, b.op = .roster f start limit →
        (¬matchesFilter r f → exec .bulkStep s = .next passed) ∧
        (matchesFilter r f → limit = 0 → exec .bulkStep s = .next (counts 2)) ∧
        (matchesFilter r f → limit ≠ 0 → b.page.length < limit →
          exec .bulkStep s = .next { s with
            bulk := some { raised (atUnit b u) 1 with
              page := b.page ++ [{
                unit := u, state := stateName r.state
                site := ((servingSite r.state).or (lastSite r.state)).getD 0, emergency := r.emergency.isSome }] } }) ∧
        (matchesFilter r f → limit ≠ 0 → limit ≤ b.page.length → s.notices.length < 64 →
          exec .bulkStep s = .next
            (begunWaiting (endedWith s (atUnit b u) true [] (some (true, limit - b.page.length, b.page)))))) ∧
      (∀ g, b.op = .recallGroup g →
        r.state = .joining ∨ stateName r.state = .retired ∨ { group := g, pending := false } ∉ r.groups →
        exec .bulkStep s = .next passed) ∧
      (∀ g, b.op = .cancelRecall g →
        ({ group := g, pending := true } ∉ r.groups → exec .bulkStep s = .next passed) ∧
        (∀ x, { group := g, pending := true } ∈ r.groups → tget s.groups g = some x → x.recallState ≠ .active →
          exec .bulkStep s = .next { counts 1 with
            radios := tput s.radios u { r with
              groups := r.groups.map fun m => if m.group = g then { m with pending := false } else m }
            groups := tput s.groups g { x with unreached := x.unreached - 1 } })) ∧
      (∀ n, b.op = .evacuate n →
        (∀ l, r.state = .registered n l → evacuationChoice s n r.hearing = none → exec .bulkStep s = .next (counts 3)) ∧
        (∀ l p, r.state = .registered n l → evacuationChoice s n r.hearing = some p →
          ¬(s.outbound.length + 2 * movingCount s + 4 ≤ 512) → exec .bulkStep s = .next (counts 2)) ∧
        (∀ l p, r.state = .registered n l → evacuationChoice s n r.hearing = some p →
          s.outbound.length + 2 * movingCount s + 4 ≤ 512 →
          ∃ t more, exec .bulkStep s = .next t ∧
            tget t.radios u = some { r with
              state := .moving n p l {
                tag := s.tagCounter, readySeen := false, quiescedSeen := false,
                deadline := s.partTime + s.params.handoverTimeout * 10 } } ∧
            (∀ v, v ≠ u → tget t.radios v = tget s.radios v) ∧
            t.tagCounter = (s.tagCounter + 1) % 65536 ∧
            t.outbound = s.outbound ++ .prepare p u s.tagCounter (groupNumbers r.groups) ::
              ((if siteWorks s n then [.quiesce n u s.tagCounter] else []) ++ more) ∧
            (∀ j, (tget t.sites j).map Site.count = (tget s.sites j).map fun x => if j = p then x.count + 1 else x.count) ∧
            engine t = engine (counts 1) ∧ outer t = outer s) ∧
        (∀ a p l k, r.state = .moving a p l k → n = a ∨ n = p → exec .bulkStep s = .next (counts 4)) ∧
        (n ∉ countedSites r.state ∨ stateName r.state = .presumed → exec .bulkStep s = .next passed)) ∧
      (∀ n, b.op = .resync n → s.outbound.length + 1 ≤ 448 → roomForOne s →
        ((∃ l, r.state = .registered n l) ∨ (∃ y h, r.state = .presumed n y h) →
          (siteWorks s n = true →
            exec .bulkStep s = .next { counts 1 with outbound := s.outbound ++ [.adopt n u (groupNumbers r.groups)] }) ∧
          (siteWorks s n = false →
            exec .bulkStep s = .next { s with bulk := some { raised (atUnit b u) 2 with gap := true } })) ∧
        (∀ a p l k, r.state = .moving a p l k → n = a ∨ n = p → exec .bulkStep s = .next (counts 3)) ∧
        (n ∉ countedSites r.state → exec .bulkStep s = .next passed)) ∧
      (b.op = .purge → stateName r.state ≠ .retired → exec .bulkStep s = .next passed)) ∧
    (tnext s.radios b.cursor = none →
      (s.notices.length + 2 ≤ 64 →
        let done := { b with roomWait := false }
        (∀ f start limit, b.op = .roster f start limit →
          exec .bulkStep s = .next (begunWaiting (endedWith s done true [] (some (b.more, limit - b.page.length, b.page))))) ∧
        (∀ g x, b.op = .recallGroup g → tget s.groups g = some x →
          exec .bulkStep s = .next
            (begunWaiting (endedWith s done true (if x.unreached = 0 then [.recallComplete g] else []) none))) ∧
        (∀ g x, b.op = .cancelRecall g → tget s.groups g = some x →
          exec .bulkStep s = .next (begunWaiting { endedWith s done true [] none with
            groups := tput s.groups g { x with recallState := .off } })) ∧
        (∀ n, b.op = .evacuate n → exec .bulkStep s = .next (begunWaiting (endedWith s done true [] none))) ∧
        (b.op = .purge → exec .bulkStep s = .next (begunWaiting (endedWith s done true [] none))) ∧
        (∀ n x, b.op = .resync n → tget s.sites n = some x → s.outbound.length + 1 ≤ 448 → roomForOne s →
          exec .bulkStep s = .next (begunWaiting { endedWith s done true [] none with
            sites := if b.gap then s.sites else tput s.sites n { x with syncLost := false } }))) ∧
      (∀ op, s.bulkWaiting = some op → b.op = .purge →
        ∃ t, exec .bulkStep s = .next t ∧ t.bulkWaiting = none ∧
          t.bulk = some (startedAt op (match op with | .roster _ start _ => start | _ => 0)) ∧
          t.bulkLast = some ({ op := .purge, completed := true, visited := b.visited, counters := b.counters }, s.partTime) ∧
          (∀ g x, op = .recallGroup g → tget s.groups g = some x →
            t.groups = tput s.groups g { x with recallState := .active }) ∧
          (∀ g x, op = .cancelRecall g → tget s.groups g = some x →
            t.groups = tput s.groups g { x with recallState := .cancelling }) ∧
          (∀ n x, op = .evacuate n → tget s.sites n = some x → t.sites = tput s.sites n { x with acceptIn := false })))

/-- Control of the engine (R166, R169, R170). BULK-SUSPEND and BULK-RESUME act on a running and a suspended operation and are otherwise
WRONG-STATE. A bulk request met by an operation waits in the empty slot when it carries WAIT and is BUSY otherwise. BULK-ABORT of the
waiting request with its kind empties the slot; of the current operation, of whatever kind, it ends it as not completed, without completion
work: recall state, sync-lost flag and ACCEPT-IN stay, a ROSTER reports its page with more clear, and a request that waits in the slot
starts (R171, R173 to R176). With another kind or nothing to abort it is WRONG-STATE. Waiting and BUSY hold for every kind whose parameters
exist, a ROSTER waiting with its limit as clamped, and neither has another effect (R165, R166). -/
def Obligations.BulkControlRequests : Prop :=
  (∀ (s : State) (e : RequestEntry) (rest : List RequestEntry) (kind : Nat) (b : BulkRun), s.phase = .service →
     requestReady s e rest (.bulkAbort 1 kind) → s.bulk = some b → bulkKind b.op = kind → s.notices.length < 64 →
     exec .bulkAbort s = .next (begunWaiting (endedWith (answered s e rest .done .none) b false [] (rosterOf b false)))) ∧
  (∀ (s : State) (e : RequestEntry) (rest : List RequestEntry), s.phase = .service →
     (requestReady s e rest .bulkSuspend →
       (∀ b, s.bulk = some b → b.suspended = false →
         exec .bulkSuspend s = .next { answered s e rest .done .none with bulk := some { b with suspended := true } }) ∧
       ((∀ b, s.bulk = some b → b.suspended = true) → exec .bulkSuspend s = .next (answered s e rest .wrongState .none))) ∧
     (requestReady s e rest .bulkResume →
       (∀ b, s.bulk = some b → b.suspended = true →
         exec .bulkResume s = .next { answered s e rest .done .none with bulk := some { b with suspended := false } }) ∧
       ((∀ b, s.bulk = some b → b.suspended = false) → exec .bulkResume s = .next (answered s e rest .wrongState .none))) ∧
     (∀ wait b, requestReady s e rest (.purge wait) → s.bulk = some b →
       (wait = true → s.bulkWaiting = none →
         exec .purge s = .next { answered s e rest .doneWaiting .none with bulkWaiting := some .purge }) ∧
       (wait = false ∨ s.bulkWaiting ≠ none → exec .purge s = .next (answered s e rest .busy .none))) ∧
     (∀ scope kind, requestReady s e rest (.bulkAbort scope kind) →
       (∀ op, scope = 2 → s.bulkWaiting = some op → bulkKind op = kind →
         exec .bulkAbort s = .next { answered s e rest .done .none with bulkWaiting := none }) ∧
       (∀ b, scope = 1 → s.bulk = some b → b.op = .purge → kind = 0x56 → s.bulkWaiting = none → s.notices.length < 64 →
         exec .bulkAbort s = .next { answered s e rest .done .none with
           bulk := none
           bulkLast := some ({ op := .purge, completed := false, visited := b.visited, counters := b.counters }, s.partTime)
           notices := s.notices ++ [{
             time := s.partTime
             body := .bulkDone { op := .purge, completed := false, visited := b.visited, counters := b.counters } none }] }) ∧
       ((scope = 1 ∧ ∀ b, s.bulk = some b → bulkKind b.op ≠ kind) ∨
           (scope = 2 ∧ ∀ op, s.bulkWaiting = some op → bulkKind op ≠ kind) ∨ (scope ≠ 1 ∧ scope ≠ 2) →
         exec .bulkAbort s = .next (answered s e rest .wrongState .none)))) ∧
  ∀ (s : State) (e : RequestEntry) (rest : List RequestEntry) (q : Request) (wait : Bool) (op : BulkOp), s.phase = .service →
    requestReady s e rest q → asksFor s q wait op → s.bulk ≠ none →
    (wait = true → s.bulkWaiting = none →
      exec (takenBy q) s = .next { answered s e rest .doneWaiting .none with bulkWaiting := some op }) ∧
    (wait = false ∨ s.bulkWaiting ≠ none → exec (takenBy q) s = .next (answered s e rest .busy .none))

/-! ### Requests -/

/-- A request that is rejected, unrecognised or misfitting is answered FRAME-REJECT, and one in the wrong phase WRONG-PHASE; neither has
another effect (R152). -/
def Obligations.RefusedRequestsOnlyGetTheirAnswer : Prop :=
  ∀ (s : State) (e : RequestEntry) (rest : List RequestEntry),
    (s.requests = e :: rest → entryRequest e = none → s.answers.length < 32 →
      (∀ a ∈ s.answers, ¬(a.kind = 0x1A#8 ∧ a.code = .done)) →
      exec .rejectedRequest s = .next (answered s e rest .frameReject .none)) ∧
    ∀ q, requestReady s e rest q →
      (s.phase = .service ∧ configRequest q = true) ∨ (s.phase = .config ∧ serviceRequest q = true) →
      exec (takenBy q) s = .next (answered s e rest .wrongPhase .none)

/-- DEFINE-SITE in CONFIG phase (R103, R104): a site not configured is configured DOWN with the values carried or their defaults, clamped; a
configured one has its values and policies replaced and keeps the rest; a number out of range is NO-SUCH. UNDEFINE-SITE (R107)
removes the site, and its number from every neighbour list and fixed site set. -/
def Obligations.SitesAreDefinedAndUndefined : Prop :=
  ∀ (s : State) (e : RequestEntry) (rest : List RequestEntry) (n : Nat), s.phase = .config →
    (∀ (c v h : Option Nat) (b : Option Int) i o, requestReady s e rest (.defineSite n c v b h i o) →
      (1 ≤ n → n ≤ 48 → tget s.sites n = none →
        exec .defineSite s = .next { answered s e rest
            (if (∀ y, c = some y → 1 ≤ y ∧ y ≤ 255) ∧ (∀ y, v = some y → 1 ≤ y ∧ y ≤ 16) ∧
              (∀ y, b = some y → -8 ≤ y ∧ y ≤ 7) ∧ (∀ y, h = some y → y ≤ 15) then .done else .doneClamped) .none with
          sites := tput s.sites n {
            state := .down, condition := none, capacity := min 255 (max 1 (c.getD 64)), count := 0,
            voice := min 16 (max 1 (v.getD 4)), bias := min 7 (max (-8) (b.getD 0)), hysteresis := min 15 (h.getD 4),
            neighbours := [], acceptIn := i, releaseOut := o, overFlag := false, syncLost := false, queue := [] } }) ∧
      (∀ x, 1 ≤ n → n ≤ 48 → tget s.sites n = some x →
        exec .defineSite s = .next { answered s e rest
            (if (∀ y, c = some y → 1 ≤ y ∧ y ≤ 255) ∧ (∀ y, v = some y → 1 ≤ y ∧ y ≤ 16) ∧
              (∀ y, b = some y → -8 ≤ y ∧ y ≤ 7) ∧ (∀ y, h = some y → y ≤ 15) then .done else .doneClamped) .none with
          sites := tput s.sites n { x with
            capacity := min 255 (max 1 (c.getD 64)), voice := min 16 (max 1 (v.getD 4)),
            bias := min 7 (max (-8) (b.getD 0)), hysteresis := min 15 (h.getD 4), acceptIn := i, releaseOut := o } }) ∧
      (n = 0 ∨ 48 < n → exec .defineSite s = .next (answered s e rest .noSuch .none))) ∧
    (requestReady s e rest (.undefineSite n) →
      (1 ≤ n → n ≤ 48 → tget s.sites n ≠ none →
        exec .undefineSite s = .next { answered s e rest .done .none with
          sites := (tdel s.sites n).map fun p => (p.1, { p.2 with neighbours := p.2.neighbours.filter (· != n) })
          groups := s.groups.map fun p => (p.1, { p.2 with fixed := p.2.fixed.filter (· != n) }) }) ∧
      (n = 0 ∨ 48 < n ∨ tget s.sites n = none → exec .undefineSite s = .next (answered s e rest .noSuch .none)))

/-- SET-SITE (R105) and SET-NEIGHBOURS (R106). Each field present is clamped to its range and replaces the site's value, an absent field
stays, and a value clamped makes the answer DONE-CLAMPED (R103). In SERVICE a voice-channel number other than the site's refuses the whole
request; in CONFIG it is replaced. A capacity below the count sets the over flag, with SITE-OVER where it was clear, and one above it clears
the flag (R98; that the test is made where no capacity is carried is log entry 18). A neighbour list is kept in order without the site
itself, unconfigured sites and repeats, up to six. A number that names no configured site is NO-SUCH. -/
def Obligations.SitesAreChanged : Prop :=
  (∀ (s : State) (e : RequestEntry) (rest : List RequestEntry) (n : Nat),
     (∀ (c v h : Option Nat) (b : Option Int) (i o : Option Bool), requestReady s e rest (.setSite n c v b h i o) →
       (n = 0 ∨ 48 < n ∨ tget s.sites n = none → exec .setSite s = .next (answered s e rest .noSuch .none)) ∧
       ∀ x, 1 ≤ n → n ≤ 48 → tget s.sites n = some x →
         (∀ w, v = some w → s.phase = .config ∨ min 16 (max 1 w) = x.voice) →
         let cap := (c.map fun y => min 255 (max 1 y)).getD x.capacity
         let code : Code := if (∀ y, c = some y → 1 ≤ y ∧ y ≤ 255) ∧ (∀ y, v = some y → 1 ≤ y ∧ y ≤ 16) ∧
           (∀ y, b = some y → -8 ≤ y ∧ y ≤ 7) ∧ (∀ y, h = some y → y ≤ 15) then .done else .doneClamped
         let changed (flag : Bool) : State := { answered s e rest code .none with
           sites := tput s.sites n { x with
             capacity := cap, voice := (v.map fun y => min 16 (max 1 y)).getD x.voice,
             bias := (b.map fun y => min 7 (max (-8) y)).getD x.bias, hysteresis := (h.map fun y => min 15 y).getD x.hysteresis,
             acceptIn := i.getD x.acceptIn, releaseOut := o.getD x.releaseOut, overFlag := flag } }
         (x.count < cap → exec .setSite s = .next (changed false)) ∧
         (x.count = cap → exec .setSite s = .next (changed x.overFlag)) ∧
         (cap < x.count → x.overFlag = true → exec .setSite s = .next (changed true)) ∧
         (cap < x.count → x.overFlag = false → s.notices.length < 64 →
           exec .setSite s = .next { changed true with notices := s.notices ++ [timed s (.siteOver n x.count cap)] })) ∧
     (∀ list, requestReady s e rest (.setNeighbours n list) → n = 0 ∨ 48 < n ∨ tget s.sites n = none →
       exec .setNeighbours s = .next (answered s e rest .noSuch .none))) ∧
  ∀ (s : State) (e : RequestEntry) (rest : List RequestEntry) (n : Nat) (x : Site),
    1 ≤ n → n ≤ 48 → tget s.sites n = some x →
    (∀ c, 1 ≤ c → c ≤ 255 → requestReady s e rest (.setSite n (some c) none none none none none) →
      (x.count < c → exec .setSite s = .next { answered s e rest .done .none with
        sites := tput s.sites n { x with capacity := c, overFlag := false } }) ∧
      (x.count = c → exec .setSite s = .next { answered s e rest .done .none with
        sites := tput s.sites n { x with capacity := c } }) ∧
      (c < x.count → x.overFlag = true → exec .setSite s = .next { answered s e rest .done .none with
        sites := tput s.sites n { x with capacity := c } }) ∧
      (c < x.count → x.overFlag = false → s.notices.length < 64 → exec .setSite s = .next { answered s e rest .done .none with
        sites := tput s.sites n { x with capacity := c, overFlag := true }
        notices := s.notices ++ [{ time := s.partTime, body := .siteOver n x.count c }] })) ∧
    (∀ (c h : Option Nat) (v : Nat) (b : Option Int) i o,
      requestReady s e rest (.setSite n c (some v) b h i o) → s.phase = .service → min 16 (max 1 v) ≠ x.voice →
      exec .setSite s = .next (answered s e rest .wrongPhase .none)) ∧
    (∀ (b : Int) (h : Nat) (i o : Bool), -8 ≤ b → b ≤ 7 → h ≤ 15 → x.count = x.capacity →
      requestReady s e rest (.setSite n none none (some b) (some h) (some i) (some o)) →
      exec .setSite s = .next { answered s e rest .done .none with
        sites := tput s.sites n { x with bias := b, hysteresis := h, acceptIn := i, releaseOut := o } }) ∧
    (∀ list, requestReady s e rest (.setNeighbours n list) →
      ∃ kept code, exec .setNeighbours s = .next { answered s e rest code .none with
          sites := tput s.sites n { x with neighbours := kept } } ∧
        kept.Sublist list ∧ kept.Nodup ∧ kept.length ≤ 6 ∧
        (∀ m ∈ kept, m ≠ n ∧ wfSite m = true ∧ tget s.sites m ≠ none) ∧
        (kept.length < 6 → ∀ m ∈ list, m ≠ n → wfSite m = true → tget s.sites m ≠ none → m ∈ kept) ∧
        (code = if kept = list then .done else .doneClamped))

/-- UNDEFINE-GROUP is allowed in CONFIG phase and answered WRONG-PHASE in SERVICE phase; a number outside 1 to 128, or a group not configured, is
NO-SUCH; otherwise the record is gone, nothing else changes and the answer is DONE. UNDEFINE-SITE removes an undefined site from the
fixed site set of every configured group, keeping the order (R113). -/
def Obligations.UndefineGroupRule : Prop :=
  ∀ (s : State) (e : RequestEntry) (rest : List RequestEntry) (g : Nat),
    (requestReady s e rest (.undefineGroup g) →
      (s.phase = .service → exec .undefineGroup s = .next (answered s e rest .wrongPhase .none)) ∧
      (s.phase = .config → g = 0 ∨ 128 < g ∨ tget s.groups g = none →
        exec .undefineGroup s = .next (answered s e rest .noSuch .none)) ∧
      (s.phase = .config → 1 ≤ g → g ≤ 128 → tget s.groups g ≠ none →
        exec .undefineGroup s = .next { answered s e rest .done .none with groups := tdel s.groups g } ∧
        (Ascending s.groups → tget (tdel s.groups g) g = none) ∧
        ∀ k, k ≠ g → tget (tdel s.groups g) k = tget s.groups k)) ∧
    (∀ n, requestReady s e rest (.undefineSite n) → s.phase = .config → 1 ≤ n → n ≤ 48 → tget s.sites n ≠ none →
      ∃ t, exec .undefineSite s = .next t ∧
        t.groups = s.groups.map fun p => (p.1, { p.2 with fixed := p.2.fixed.filter (· != n) })) ∧
    (ConfigQuiet s → s.phase = .config → s.radios = [] ∧ s.calls = [])

/-- DEFINE-GROUP in CONFIG phase (R110, R111) and SET-GROUP in either (R112): priorities 1 and 2 are ROUTINE and TACTICAL and any other is
COMMAND; the fixed set keeps configured sites, each once, in order; a value replaced or dropped makes the answer DONE-CLAMPED; an absent
field of SET-GROUP stays; counts, recall state and active call of a configured group stay. DEFINE-GROUP of a number out of range, and
SET-GROUP of a group not configured, are NO-SUCH. -/
def Obligations.GroupsAreDefinedAndChanged : Prop :=
  (∀ (s : State) (e : RequestEntry) (rest : List RequestEntry) (g : Nat),
     (∀ priority list, s.phase = .config → requestReady s e rest (.defineGroup g priority list) → g = 0 ∨ 128 < g →
       exec .defineGroup s = .next (answered s e rest .noSuch .none)) ∧
     ∀ priority list, requestReady s e rest (.setGroup g priority list) →
       (g = 0 ∨ 128 < g ∨ tget s.groups g = none → exec .setGroup s = .next (answered s e rest .noSuch .none)) ∧
       ∀ x, 1 ≤ g → g ≤ 128 → tget s.groups g = some x →
         ∃ kept code, exec .setGroup s = .next { answered s e rest code .none with
             groups := tput s.groups g { x with
               priority :=
                 match priority with
                 | none => x.priority
                 | some p => if p = 1 then .routine else if p = 2 then .tactical else .command
               fixed := kept } } ∧
           (list = none → kept = x.fixed) ∧
           (∀ l, list = some l → kept.Sublist l ∧ kept.Nodup ∧ ∀ n, n ∈ kept ↔ n ∈ l ∧ wfSite n = true ∧ tget s.sites n ≠ none) ∧
           code = if (∀ p, priority = some p → 1 ≤ p ∧ p ≤ 3) ∧ (∀ l, list = some l → kept = l) then .done else .doneClamped) ∧
  ∀ (s : State) (e : RequestEntry) (rest : List RequestEntry) (g : Nat), 1 ≤ g → g ≤ 128 →
    (∀ priority list, s.phase = .config → requestReady s e rest (.defineGroup g priority list) →
      ∃ kept code, kept.Sublist list ∧ kept.Nodup ∧ (∀ n, n ∈ kept ↔ n ∈ list ∧ wfSite n = true ∧ tget s.sites n ≠ none) ∧
        (code = if (1 ≤ priority ∧ priority ≤ 3) ∧ kept = list then .done else .doneClamped) ∧
        (tget s.groups g = none →
          exec .defineGroup s = .next { answered s e rest code .none with
            groups := tput s.groups g {
              priority := if priority = 1 then .routine else if priority = 2 then .tactical else .command
              fixed := kept, counts := [], total := 0, recallState := .off, unreached := 0, activeCall := none } }) ∧
        (∀ x, tget s.groups g = some x →
          exec .defineGroup s = .next { answered s e rest code .none with
            groups := tput s.groups g { x with
              priority := if priority = 1 then .routine else if priority = 2 then .tactical else .command
              fixed := kept } })) ∧
    (∀ x priority, tget s.groups g = some x → requestReady s e rest (.setGroup g (some priority) none) →
      exec .setGroup s = .next { answered s e rest (if 1 ≤ priority ∧ priority ≤ 3 then .done else .doneClamped) .none with
        groups := tput s.groups g { x with
          priority := if priority = 1 then .routine else if priority = 2 then .tactical else .command } }) ∧
    (∀ x, tget s.groups g = some x → requestReady s e rest (.setGroup g none (some [])) →
      exec .setGroup s = .next { answered s e rest .done .none with groups := tput s.groups g { x with fixed := [] } })

/-- SET-PARAMETER (R188), in either phase, clamps the value to the range of each of the ten parameters, answers with the value in force and
leaves the other parameters; a parameter that is none of the ten is NO-SUCH. OPEN in CONFIG phase (R189) moves to SERVICE where a site is
configured and is WRONG-STATE otherwise. -/
def Obligations.ParametersAreSetAndServiceOpens : Prop :=
  ∀ (s : State) (e : RequestEntry) (rest : List RequestEntry),
    (∀ k v, requestReady s e rest (.setParameter k v) →
      (k = 1 → exec .setParameter s = .next
        { answered s e rest (if 30 ≤ v ∧ v ≤ 1800 then .done else .doneClamped) (.value (min 1800 (max 30 v))) with
          params := { s.params with lease := min 1800 (max 30 v) } }) ∧
      (k = 2 → exec .setParameter s = .next
        { answered s e rest (if 30 ≤ v ∧ v ≤ 1800 then .done else .doneClamped) (.value (min 1800 (max 30 v))) with
          params := { s.params with presumeHold := min 1800 (max 30 v) } }) ∧
      (k = 3 → exec .setParameter s = .next
        { answered s e rest (if 60 ≤ v ∧ v ≤ 3600 then .done else .doneClamped) (.value (min 3600 (max 60 v))) with
          params := { s.params with retireHold := min 3600 (max 60 v) } }) ∧
      (k = 4 → exec .setParameter s = .next
        { answered s e rest (if 1 ≤ v ∧ v ≤ 20 then .done else .doneClamped) (.value (min 20 (max 1 v))) with
          params := { s.params with settleTime := min 20 (max 1 v) } }) ∧
      (k = 5 → exec .setParameter s = .next
        { answered s e rest (if 1 ≤ v ∧ v ≤ 30 then .done else .doneClamped) (.value (min 30 (max 1 v))) with
          params := { s.params with handoverTimeout := min 30 (max 1 v) } }) ∧
      (k = 6 → exec .setParameter s = .next
        { answered s e rest (if v ≤ 255 then .done else .doneClamped) (.value (min 255 v)) with
          params := { s.params with declineBackoff := min 255 v } }) ∧
      (k = 7 → exec .setParameter s = .next
        { answered s e rest (if 5 ≤ v ∧ v ≤ 120 then .done else .doneClamped) (.value (min 120 (max 5 v))) with
          params := { s.params with heartbeatTimeout := min 120 (max 5 v) } }) ∧
      (k = 8 → exec .setParameter s = .next
        { answered s e rest (if 1 ≤ v ∧ v ≤ 60 then .done else .doneClamped) (.value (min 60 (max 1 v))) with
          params := { s.params with ageDecay := min 60 (max 1 v) } }) ∧
      (k = 9 → exec .setParameter s = .next
        { answered s e rest (if v ≤ 10 then .done else .doneClamped) (.value (min 10 v)) with
          params := { s.params with callHang := min 10 v } }) ∧
      (k = 10 → exec .setParameter s = .next
        { answered s e rest (if 1 ≤ v ∧ v ≤ 60 then .done else .doneClamped) (.value (min 60 (max 1 v))) with
          params := { s.params with queueHold := min 60 (max 1 v) } }) ∧
      (k = 0 ∨ 10 < k → exec .setParameter s = .next (answered s e rest .noSuch .none))) ∧
    (requestReady s e rest .openService → s.phase = .config →
      (s.sites ≠ [] → exec .openService s = .next { answered s e rest .done .none with phase := .service }) ∧
      (s.sites = [] → exec .openService s = .next (answered s e rest .wrongState .none)))

/-- RESTART (R191, with R25, R108, R127, R149, R164, R178): no record, call, operation, outbound entry, notice or indication is left, the phase
is CONFIG, site and group definitions keep their configured values with every live field cleared, and part time, the tag counter,
the parameters, the receivers, the inbound frames and the waiting requests and answers stay. A frame partly clocked out is left to be
sent to its end; whether there is one is the command's operand (the model's choice, log entry 8). -/
def Obligations.RestartKeepsOnlyDefinitions : Prop :=
  ∀ (s : State) (e : RequestEntry) (rest : List RequestEntry) (partly : Bool), requestReady s e rest .restart →
    exec (.restart partly) s = .next { answered s e rest .done .none with
      phase := .config, radios := [], calls := [], bulk := none, bulkWaiting := none, bulkLast := none
      sites := s.sites.map fun p => (p.1, { p.2 with
        state := .down, condition := none, count := 0, overFlag := false, syncLost := false, queue := [] })
      groups := s.groups.map fun p => (p.1, { p.2 with
        counts := [], total := 0, recallState := .off, unreached := 0, activeCall := none })
      outbound := [], notices := [], noticeOverflow := false, answerLost := false
      siteResidue := if s.siteResidue.isSome then s.siteResidue else if partly then s.outbound.head? else none }

/-- LOCATE (R154) changes nothing but the queues and answers NO-SUCH for an absent unit, and for one present its state, sites, cause, last
sequence, open burst, regroup state, emergency, last outcome, groups with their flags, and in REGISTERED the seconds of lease left,
in MOVING besides those the handover context. -/
def Obligations.LocateAnswersTheRecord : Prop :=
  ∀ (s : State) (e : RequestEntry) (rest : List RequestEntry) (u : Nat), requestReady s e rest (.locate u) →
    (u = 0 ∨ 16777215 < u ∨ tget s.radios u = none → exec .locate s = .next (answered s e rest .noSuch .none)) ∧
    (∀ r, 1 ≤ u → u ≤ 16777215 → tget s.radios u = some r →
      ∃ y, exec .locate s = .next (answered s e rest .done (.locate y)) ∧
        y.unit = u ∧ y.state = stateName r.state ∧ y.serving = servingSite r.state ∧ y.pending = pendingSite r.state ∧
        y.last = lastSite r.state ∧ y.lastSeq = r.lastSeq ∧ y.burstOpen = r.burst.isSome ∧ y.regroup = r.regroup ∧
        y.lastHandover = r.lastHandover ∧ y.groups = r.groups ∧
        y.emergency = r.emergency.map (fun x => (min 65535 ((s.partTime - x.since) / 10), x.site)) ∧
        y.hearing.map HearingReply.site = r.hearing.map Hearing.site ∧
        (∀ a l, r.state = .registered a l → y.deadline = .lease (min 65535 ((l - s.partTime) / 10)) ∧ y.handover = none) ∧
        (∀ a p l k, r.state = .moving a p l k →
          y.deadline = .lease (min 65535 ((l - s.partTime) / 10)) ∧
          y.handover = some {
            tag := k.tag, fromSite := a, toSite := p, readySeen := k.readySeen,
            quiescedSeen := k.quiescedSeen, seconds := min 65535 ((k.deadline - s.partTime) / 10) }) ∧
        (∀ a c h, r.state = .presumed a c h →
          y.cause = some c ∧ y.deadline = .presumeHold (min 65535 ((h - s.partTime) / 10))))

/-- SITE-QUERY, GROUP-QUERY and CALL-QUERY (R155 to R157) change nothing but the queues; each answers NO-SUCH for a number that names nothing and
otherwise the fields of the record. The carry set of a group is the working sites that are fixed or have members (R117). -/
def Obligations.QueriesAnswerTheRecords : Prop :=
  ∀ (s : State) (e : RequestEntry) (rest : List RequestEntry) (n : Nat),
    (requestReady s e rest (.siteQuery n) →
      (n = 0 ∨ 48 < n ∨ tget s.sites n = none → exec .siteQuery s = .next (answered s e rest .noSuch .none)) ∧
      (∀ x, 1 ≤ n → n ≤ 48 → tget s.sites n = some x →
        ∃ y, exec .siteQuery s = .next (answered s e rest .done (.site y)) ∧
          y.site = n ∧ y.state = siteStateName x.state ∧ y.condition = x.condition ∧ y.count = x.count ∧
          y.capacity = x.capacity ∧ y.voice = x.voice ∧ y.bias = x.bias ∧ y.hysteresis = x.hysteresis ∧
          y.acceptIn = x.acceptIn ∧ y.releaseOut = x.releaseOut ∧ y.overFlag = x.overFlag ∧ y.syncLost = x.syncLost ∧
          y.neighbours = x.neighbours ∧ y.queueLength = x.queue.length ∧ y.channelsHeld = (channelsHeld s n).length ∧
          (∀ d, x.state = .up d ∨ x.state = .degraded d → y.heartbeat = some (min 65535 ((d - s.partTime) / 10))) ∧
          (x.state = .down ∨ x.state = .dark → y.heartbeat = none))) ∧
    (requestReady s e rest (.groupQuery n) →
      (n = 0 ∨ 128 < n ∨ tget s.groups n = none → exec .groupQuery s = .next (answered s e rest .noSuch .none)) ∧
      (∀ x, 1 ≤ n → n ≤ 128 → tget s.groups n = some x →
        ∃ y, exec .groupQuery s = .next (answered s e rest .done (.group y)) ∧
          y.group = n ∧ y.priority = x.priority ∧ y.fixed = x.fixed ∧ y.total = x.total ∧ y.counts = x.counts ∧
          y.recallState = x.recallState ∧ y.unreached = x.unreached ∧ y.activeCall = x.activeCall ∧
          ∀ j, j ∈ y.carry ↔ siteWorks s j = true ∧ (j ∈ x.fixed ∨ 0 < memberCount s n j))) ∧
    (requestReady s e rest (.callQuery n) →
      (n = 0 ∨ 32 < n ∨ tget s.calls n = none → exec .callQuery s = .next (answered s e rest .noSuch .none)) ∧
      (∀ x, 1 ≤ n → n ≤ 32 → tget s.calls n = some x →
        ∃ y, exec .callQuery s = .next (answered s e rest .done (.call y)) ∧
          y.call = n ∧ y.group = x.group ∧ y.priority = x.priority ∧ y.origin = x.origin ∧ y.talker = x.talker ∧
          y.createdFor = min 65535 ((s.partTime - x.created) / 10) ∧ y.map.length = x.map.length ∧
          (x.state = .active → y.hang = none) ∧
          (∀ d, x.state = .hang d → y.hang = some (min 65535 ((d - s.partTime) / 10)))))

/-- BULK-STATUS (R172), NEXT-NOTICE (R162) and PORT-STATUS (R163): the first changes nothing but the queues; the second takes the oldest notice
whole with the number left, or answers NONE; the third reports both ports and clears the overflow and answer-lost indications. -/
def Obligations.StatusRequestsAnswerThePart : Prop :=
  ∀ (s : State) (e : RequestEntry) (rest : List RequestEntry),
    (requestReady s e rest .bulkStatus →
      exec .bulkStatus s = .next (answered s e rest .done (.bulk
        { present := s.radios.length, waiting := s.bulkWaiting, current := s.bulk, last := s.bulkLast }))) ∧
    (requestReady s e rest .nextNotice →
      (∀ x more, s.notices = x :: more →
        exec .nextNotice s = .next { answered s e rest .done (.notice more.length x) with notices := more }) ∧
      (s.notices = [] → exec .nextNotice s = .next (answered s e rest .none .none))) ∧
    (requestReady s e rest .portStatus →
      exec .portStatus s = .next { answered s e rest .done (.port
          { phase := s.phase, partTime := s.partTime, siteIn := s.siteIn.length, hold := decide (128 ≤ s.siteIn.length),
            outbound := s.outbound.length, requests := rest.length, answers := s.answers.length,
            notices := s.notices.length, overflow := s.noticeOverflow, answerLost := s.answerLost }) with
        noticeOverflow := false, answerLost := false })

/-- The notice-pending line is asserted exactly while the notice queue holds a notice: a notice entering an empty queue asserts it, the NEXT-NOTICE
that takes the last one deasserts it, a notice dropped at a full queue leaves it asserted, the overflow indication and the other
queues do not enter into it, and after either reset it is deasserted (R161). -/
def Obligations.NoticePendingLineRule : Prop :=
  (∀ s : State, noticePendingLine s = true ↔ s.notices ≠ []) ∧
    (∀ (s : State) (x : NoticeBody), noticePendingLine (raise s x) = true) ∧
    (∀ (s : State) (x : NoticeBody), 64 ≤ s.notices.length → (raise s x).notices = s.notices) ∧
    (∀ (s t : State) (e : RequestEntry) (rest : List RequestEntry) (x : Notice), requestReady s e rest .nextNotice →
      s.notices = [x] → exec .nextNotice s = .next t → noticePendingLine t = false) ∧
    (∀ (s : State) (o : Bool) (a : List Answer) (q : List RequestEntry),
      noticePendingLine { s with noticeOverflow := o, answers := a, requests := q } = noticePendingLine s) ∧
    (∀ s t : State, exec .powerOnReset s = .next t → t.notices = [] ∧ noticePendingLine t = false) ∧
    (∀ (s t : State) (e : RequestEntry) (rest : List RequestEntry) (partly : Bool), requestReady s e rest .restart →
      exec (.restart partly) s = .next t → t.notices = [] ∧ noticePendingLine t = false)

/-- FORCE-RELEASE of a unit present (R21): JOINING is freed; REGISTERED or PRESUMED at a becomes RETIRED with last site a, without
emergency, burst or recall-pending flags, leaves the count at a, and DROP goes to a while a works and an ordinary directive has
room; RETIRED only loses its burst and emergency. An absent unit is NO-SUCH (R158). MOVING from a toward p becomes RETIRED with last site a
and outcome ABORTED, leaves both counts, and CANCEL goes to p and DROP to a, where each works and the DROP has room (R80; log entry 10).
LOST becomes RETIRED with its last site, and no count moves. Each flag cleared, by retirement or by freeing, lowers its group's unreached count
(R4, R20, R122), and a count lowered to 0 while the recall is ACTIVE and no RECALL of the group is running or suspended raises RECALL-COMPLETE
(R124); the order of several is the model's choice (log entry 26). -/
def Obligations.ForceReleaseRetires : Prop :=
  (∀ (s : State) (e : RequestEntry) (rest : List RequestEntry) (u : Nat) (r : Radio),
     Ascending s.radios → s.phase = .service → requestReady s e rest (.forceRelease u) → 1 ≤ u → u ≤ 16777215 →
     tget s.radios u = some r → stateName r.state ≠ .retired → (groupNumbers r.groups).Nodup →
     ∃ t, exec .forceRelease s = .next t ∧ unreachedAfter s t r.groups ∧
       ((∀ a, servingSite r.state = some a → siteWorks s a = false ∨ (s.outbound.length + 2 ≤ 448 ∧ roomForOne s)) →
         s.notices.length + r.groups.length ≤ 64 → t.notices = s.notices ++ recallsDone s r.groups) ∧
       (r.state = .joining → t.radios = tdel s.radios u ∧ t.sites = s.sites ∧ t.outbound = s.outbound ∧ t.calls = s.calls ∧
         t.tagCounter = s.tagCounter ∧ engine t = engine s ∧ outer t = outer (answered s e rest .done .none))) ∧
  (∀ (s : State) (e : RequestEntry) (rest : List RequestEntry) (u : Nat),
     Ascending s.radios → s.phase = .service → requestReady s e rest (.forceRelease u) →
     (u = 0 ∨ 16777215 < u ∨ tget s.radios u = none → exec .forceRelease s = .next (answered s e rest .noSuch .none)) ∧
     ∀ r, 1 ≤ u → u ≤ 16777215 → tget s.radios u = some r →
       (r.state = .joining → (∀ m ∈ r.groups, m.pending = false) →
         exec .forceRelease s = .next { answered s e rest .done .none with radios := tdel s.radios u }) ∧
       (∀ n y h, r.state = .retired n y h →
         exec .forceRelease s = .next { answered s e rest .done .none with
           radios := tput s.radios u { r with emergency := none, burst := none } }) ∧
       (∀ a, (∃ l, r.state = .registered a l) ∨ (∃ y h, r.state = .presumed a y h) →
         ∃ t, exec .forceRelease s = .next t ∧
           tget t.radios u = some { r with
             state := .retired a s.partTime (s.partTime + s.params.retireHold * 10), emergency := none, burst := none,
             groups := r.groups.map fun m => { m with pending := false } } ∧
           (∀ v, v ≠ u → tget t.radios v = tget s.radios v) ∧
           (∀ j, (tget t.sites j).map Site.count = (tget s.sites j).map fun x => if j = a then x.count - 1 else x.count) ∧
           (siteWorks s a = true → s.outbound.length + 1 ≤ 448 → roomForOne s →
             t.outbound = s.outbound ++ [.drop a u]) ∧
           (siteWorks s a = false → t.outbound = s.outbound) ∧
           t.calls = s.calls ∧ t.tagCounter = s.tagCounter ∧ engine t = engine s ∧
           outer t = outer (answered s e rest .done .none))) ∧
  ∀ (s : State) (e : RequestEntry) (rest : List RequestEntry) (u : Nat) (r : Radio),
    Ascending s.radios → s.phase = .service → requestReady s e rest (.forceRelease u) → 1 ≤ u → u ≤ 16777215 →
    tget s.radios u = some r →
    let retired (n : Nat) (how : Option (HandoverEnd × Nat)) : Radio := { r with
      state := .retired n s.partTime (s.partTime + s.params.retireHold * 10), emergency := none, burst := none
      lastHandover := how, groups := r.groups.map fun m => { m with pending := false } }
    (∀ a p l k, r.state = .moving a p l k →
      ∃ t, exec .forceRelease s = .next t ∧ tget t.radios u = some (retired a (some (.aborted, p))) ∧
        (∀ v, v ≠ u → tget t.radios v = tget s.radios v) ∧
        (∀ j, (tget t.sites j).map Site.count =
          (tget s.sites j).map fun x => x.count - (if j = a then 1 else 0) - (if j = p then 1 else 0)) ∧
        (siteWorks s a = false ∨ (s.outbound.length + 2 ≤ 448 ∧ roomForOne s) →
          t.outbound = s.outbound ++ (if siteWorks s p then [.cancel p u k.tag] else []) ++
            (if siteWorks s a then [.drop a u] else [])) ∧
        t.calls = s.calls ∧ t.tagCounter = s.tagCounter ∧ engine t = engine s ∧ outer t = outer (answered s e rest .done .none)) ∧
    (∀ n, r.state = .lost n →
      ∃ t, exec .forceRelease s = .next t ∧ tget t.radios u = some (retired n r.lastHandover) ∧
        (∀ v, v ≠ u → tget t.radios v = tget s.radios v) ∧ t.sites = s.sites ∧ t.outbound = s.outbound ∧
        t.calls = s.calls ∧ t.tagCounter = s.tagCounter ∧ engine t = engine s ∧ outer t = outer (answered s e rest .done .none)) ∧
    (servingSite r.state ≠ none ∨ stateName r.state = .lost → (groupNumbers r.groups).Nodup →
      ∃ t, exec .forceRelease s = .next t ∧
        ∀ g, (tget t.groups g).map Group.unreached =
          (tget s.groups g).map fun x => if { group := g, pending := true } ∈ r.groups then x.unreached - 1 else x.unreached)

/-- CLEAR-EMERGENCY (R24) removes an active emergency, and frees a JOINING record without a burst and without flags; an inactive one is
WRONG-STATE. CLEAR-LOST (R18) frees a LOST record without emergency and without flags, and is WRONG-STATE for any other. CLEAR-REGROUP
(R121) makes the regroup state NONE. Each is NO-SUCH for an absent unit (R158). -/
def Obligations.ClearRequestsActOnTheRecord : Prop :=
  ∀ (s : State) (e : RequestEntry) (rest : List RequestEntry) (u : Nat), Ascending s.radios → s.phase = .service →
    (∀ q ∈ [Request.clearEmergency u, .clearLost u, .clearRegroup u], requestReady s e rest q →
      u = 0 ∨ 16777215 < u ∨ tget s.radios u = none →
      exec (takenBy q) s = .next (answered s e rest .noSuch .none)) ∧
    ∀ r, 1 ≤ u → u ≤ 16777215 → tget s.radios u = some r →
      (requestReady s e rest (.clearEmergency u) →
        (r.emergency = none → exec .clearEmergency s = .next (answered s e rest .wrongState .none)) ∧
        (r.emergency ≠ none → ¬(r.state = .joining ∧ r.burst = none) →
          exec .clearEmergency s = .next { answered s e rest .done .none with
            radios := tput s.radios u { r with emergency := none } }) ∧
        (r.emergency ≠ none → r.state = .joining → r.burst = none → (∀ m ∈ r.groups, m.pending = false) →
          exec .clearEmergency s = .next { answered s e rest .done .none with radios := tdel s.radios u })) ∧
      (requestReady s e rest (.clearLost u) →
        (stateName r.state = .lost → r.emergency = none → (∀ m ∈ r.groups, m.pending = false) →
          exec .clearLost s = .next { answered s e rest .done .none with radios := tdel s.radios u }) ∧
        (stateName r.state ≠ .lost ∨ r.emergency ≠ none →
          exec .clearLost s = .next (answered s e rest .wrongState .none))) ∧
      (requestReady s e rest (.clearRegroup u) →
        exec .clearRegroup s = .next { answered s e rest .done .none with
          radios := tput s.radios u { r with regroup := .none } })

/-- SET-GROUPS (R118, R120) on a record in REGISTERED, MOVING or PRESUMED makes the trimmed list its group list and its regroup state ORDERED: the
list keeps configured groups, each once, at most four, in order; the record keeps its state; other records stay; and DONE-CLAMPED says
that something was trimmed. JOINING, LOST and RETIRED are WRONG-STATE. A kept group keeps its flag, and a gained one is flagged while its
recall is ACTIVE; the member counts at the record's sites, the totals and the unreached counts follow (R115, R122). Where no group has a
call (R116; log entry 11), REGROUP with the new list goes to the serving and then the pending site, where each works; without room it is
dropped and the site's sync-lost flag set (R102). A loss that lowers an unreached count to 0 while the recall is ACTIVE and no RECALL of
the group is running or suspended raises RECALL-COMPLETE (R124), in the order of the old list (R115). -/
def Obligations.SetGroupsOrdersARegroup : Prop :=
  (∀ (s : State) (e : RequestEntry) (rest : List RequestEntry) (u : Nat) (list : List Nat) (r : Radio),
     s.phase = .service → requestReady s e rest (.setGroups u list) → 1 ≤ u → u ≤ 16777215 → tget s.radios u = some r →
     (servingSite r.state = none → exec .setGroups s = .next (answered s e rest .wrongState .none)) ∧
     (servingSite r.state ≠ none →
       ∃ t r' kept code, exec .setGroups s = .next t ∧ tget t.radios u = some r' ∧ groupNumbers r'.groups = kept ∧
         r'.regroup = .ordered ∧ r'.state = r.state ∧ r'.hearing = r.hearing ∧ r'.burst = r.burst ∧
         (∀ v, v ≠ u → tget t.radios v = tget s.radios v) ∧
         kept.Sublist list ∧ kept.Nodup ∧ kept.length ≤ 4 ∧ (∀ g ∈ kept, wfGroup g = true ∧ tget s.groups g ≠ none) ∧
         (kept.length < 4 → ∀ g ∈ list, wfGroup g = true → tget s.groups g ≠ none → g ∈ kept) ∧
         (code = if kept = list then .done else .doneClamped) ∧
         (∀ j, (tget t.sites j).map Site.count = (tget s.sites j).map Site.count) ∧
         t.tagCounter = s.tagCounter ∧ engine t = engine s ∧ outer t = outer (answered s e rest code .none))) ∧
  ∀ (s : State) (e : RequestEntry) (rest : List RequestEntry) (u : Nat) (list : List Nat) (r : Radio),
    s.phase = .service → requestReady s e rest (.setGroups u list) → 1 ≤ u → u ≤ 16777215 → tget s.radios u = some r →
    servingSite r.state ≠ none → recordOk r →
    ∃ t r' kept, exec .setGroups s = .next t ∧ tget t.radios u = some r' ∧ groupNumbers r'.groups = kept ∧
      entriesFollow s r.groups r'.groups ∧
      (countsAscend s → ∀ g j, memberCount t g j =
        shifted (groupNumbers r.groups) kept (countedSites r.state) g j (memberCount s g j)) ∧
      (∀ g, (tget t.groups g).map Group.total = (tget s.groups g).map fun x =>
        if g ∈ groupNumbers r.groups ∧ g ∉ kept then x.total - 1
        else if g ∉ groupNumbers r.groups ∧ g ∈ kept then x.total + 1 else x.total) ∧
      (∀ g, (tget t.groups g).map Group.unreached = (tget s.groups g).map fun x =>
        if { group := g, pending := true } ∈ r.groups ∧ g ∉ kept then x.unreached - 1
        else if g ∉ groupNumbers r.groups ∧ g ∈ kept ∧ x.recallState = .active then x.unreached + 1 else x.unreached) ∧
      (noActiveCalls s →
        (s.outbound.length + 2 ≤ 448 → s.outbound.length + 2 * movingCount s + 2 ≤ 512 →
          t.outbound = s.outbound ++ (((countedSites r.state).filter (siteWorks s)).map fun n => .regroup n u kept) ∧
          (s.notices.length + 4 ≤ 64 →
            t.notices = s.notices ++ recallsDone s (r.groups.filter fun m => !kept.contains m.group))) ∧
        (¬(s.outbound.length + 1 ≤ 448 ∧ roomForOne s) → t.outbound = s.outbound ∧
          ∀ n ∈ countedSites r.state, siteWorks s n = true → (tget t.sites n).map Site.syncLost = some true))
end

