-- ==== Sys2Proof/Laws/State.lean ====
section
/-! SUPPORT. What each named update leaves in each field of the state, one lemma for a field and an update, so that no proof
unfolds an update. -/

namespace Sys2Proof.Machine

variable (s : State)

/-! ### putRadio -/

@[simp] theorem putRadio_phase (u : Nat) (r : Radio) : (putRadio s u r).phase = s.phase := rfl
@[simp] theorem putRadio_partTime (u : Nat) (r : Radio) : (putRadio s u r).partTime = s.partTime := rfl
@[simp] theorem putRadio_tagCounter (u : Nat) (r : Radio) : (putRadio s u r).tagCounter = s.tagCounter := rfl
@[simp] theorem putRadio_params (u : Nat) (r : Radio) : (putRadio s u r).params = s.params := rfl
@[simp] theorem putRadio_radios (u : Nat) (r : Radio) : (putRadio s u r).radios = tput s.radios u r := rfl
@[simp] theorem putRadio_sites (u : Nat) (r : Radio) : (putRadio s u r).sites = s.sites := rfl
@[simp] theorem putRadio_groups (u : Nat) (r : Radio) : (putRadio s u r).groups = s.groups := rfl
@[simp] theorem putRadio_calls (u : Nat) (r : Radio) : (putRadio s u r).calls = s.calls := rfl
@[simp] theorem putRadio_bulk (u : Nat) (r : Radio) : (putRadio s u r).bulk = s.bulk := rfl
@[simp] theorem putRadio_bulkWaiting (u : Nat) (r : Radio) : (putRadio s u r).bulkWaiting = s.bulkWaiting := rfl
@[simp] theorem putRadio_bulkLast (u : Nat) (r : Radio) : (putRadio s u r).bulkLast = s.bulkLast := rfl
@[simp] theorem putRadio_siteRx (u : Nat) (r : Radio) : (putRadio s u r).siteRx = s.siteRx := rfl
@[simp] theorem putRadio_siteIn (u : Nat) (r : Radio) : (putRadio s u r).siteIn = s.siteIn := rfl
@[simp] theorem putRadio_outbound (u : Nat) (r : Radio) : (putRadio s u r).outbound = s.outbound := rfl
@[simp] theorem putRadio_siteResidue (u : Nat) (r : Radio) : (putRadio s u r).siteResidue = s.siteResidue := rfl
@[simp] theorem putRadio_siteSent (u : Nat) (r : Radio) : (putRadio s u r).siteSent = s.siteSent := rfl
@[simp] theorem putRadio_dispatchRx (u : Nat) (r : Radio) : (putRadio s u r).dispatchRx = s.dispatchRx := rfl
@[simp] theorem putRadio_requests (u : Nat) (r : Radio) : (putRadio s u r).requests = s.requests := rfl
@[simp] theorem putRadio_answers (u : Nat) (r : Radio) : (putRadio s u r).answers = s.answers := rfl
@[simp] theorem putRadio_dispatchSent (u : Nat) (r : Radio) : (putRadio s u r).dispatchSent = s.dispatchSent := rfl
@[simp] theorem putRadio_notices (u : Nat) (r : Radio) : (putRadio s u r).notices = s.notices := rfl
@[simp] theorem putRadio_noticeOverflow (u : Nat) (r : Radio) : (putRadio s u r).noticeOverflow = s.noticeOverflow := rfl
@[simp] theorem putRadio_answerLost (u : Nat) (r : Radio) : (putRadio s u r).answerLost = s.answerLost := rfl
@[simp] theorem putRadio_pending (u : Nat) (r : Radio) : (putRadio s u r).pending = s.pending := rfl
@[simp] theorem putRadio_choices (u : Nat) (r : Radio) : (putRadio s u r).choices = s.choices := rfl

/-! ### delRadio -/

@[simp] theorem delRadio_phase (u : Nat) : (delRadio s u).phase = s.phase := rfl
@[simp] theorem delRadio_partTime (u : Nat) : (delRadio s u).partTime = s.partTime := rfl
@[simp] theorem delRadio_tagCounter (u : Nat) : (delRadio s u).tagCounter = s.tagCounter := rfl
@[simp] theorem delRadio_params (u : Nat) : (delRadio s u).params = s.params := rfl
@[simp] theorem delRadio_radios (u : Nat) : (delRadio s u).radios = tdel s.radios u := rfl
@[simp] theorem delRadio_sites (u : Nat) : (delRadio s u).sites = s.sites := rfl
@[simp] theorem delRadio_groups (u : Nat) : (delRadio s u).groups = s.groups := rfl
@[simp] theorem delRadio_calls (u : Nat) : (delRadio s u).calls = s.calls := rfl
@[simp] theorem delRadio_bulk (u : Nat) : (delRadio s u).bulk = s.bulk := rfl
@[simp] theorem delRadio_bulkWaiting (u : Nat) : (delRadio s u).bulkWaiting = s.bulkWaiting := rfl
@[simp] theorem delRadio_bulkLast (u : Nat) : (delRadio s u).bulkLast = s.bulkLast := rfl
@[simp] theorem delRadio_siteRx (u : Nat) : (delRadio s u).siteRx = s.siteRx := rfl
@[simp] theorem delRadio_siteIn (u : Nat) : (delRadio s u).siteIn = s.siteIn := rfl
@[simp] theorem delRadio_outbound (u : Nat) : (delRadio s u).outbound = s.outbound := rfl
@[simp] theorem delRadio_siteResidue (u : Nat) : (delRadio s u).siteResidue = s.siteResidue := rfl
@[simp] theorem delRadio_siteSent (u : Nat) : (delRadio s u).siteSent = s.siteSent := rfl
@[simp] theorem delRadio_dispatchRx (u : Nat) : (delRadio s u).dispatchRx = s.dispatchRx := rfl
@[simp] theorem delRadio_requests (u : Nat) : (delRadio s u).requests = s.requests := rfl
@[simp] theorem delRadio_answers (u : Nat) : (delRadio s u).answers = s.answers := rfl
@[simp] theorem delRadio_dispatchSent (u : Nat) : (delRadio s u).dispatchSent = s.dispatchSent := rfl
@[simp] theorem delRadio_notices (u : Nat) : (delRadio s u).notices = s.notices := rfl
@[simp] theorem delRadio_noticeOverflow (u : Nat) : (delRadio s u).noticeOverflow = s.noticeOverflow := rfl
@[simp] theorem delRadio_answerLost (u : Nat) : (delRadio s u).answerLost = s.answerLost := rfl
@[simp] theorem delRadio_pending (u : Nat) : (delRadio s u).pending = s.pending := rfl
@[simp] theorem delRadio_choices (u : Nat) : (delRadio s u).choices = s.choices := rfl

/-! ### modRadio -/

@[simp] theorem modRadio_phase (u : Nat) (f : Radio → Radio) : (modRadio s u f).phase = s.phase := rfl
@[simp] theorem modRadio_partTime (u : Nat) (f : Radio → Radio) : (modRadio s u f).partTime = s.partTime := rfl
@[simp] theorem modRadio_tagCounter (u : Nat) (f : Radio → Radio) : (modRadio s u f).tagCounter = s.tagCounter := rfl
@[simp] theorem modRadio_params (u : Nat) (f : Radio → Radio) : (modRadio s u f).params = s.params := rfl
@[simp] theorem modRadio_radios (u : Nat) (f : Radio → Radio) : (modRadio s u f).radios = tmod s.radios u f := rfl
@[simp] theorem modRadio_sites (u : Nat) (f : Radio → Radio) : (modRadio s u f).sites = s.sites := rfl
@[simp] theorem modRadio_groups (u : Nat) (f : Radio → Radio) : (modRadio s u f).groups = s.groups := rfl
@[simp] theorem modRadio_calls (u : Nat) (f : Radio → Radio) : (modRadio s u f).calls = s.calls := rfl
@[simp] theorem modRadio_bulk (u : Nat) (f : Radio → Radio) : (modRadio s u f).bulk = s.bulk := rfl
@[simp] theorem modRadio_bulkWaiting (u : Nat) (f : Radio → Radio) : (modRadio s u f).bulkWaiting = s.bulkWaiting := rfl
@[simp] theorem modRadio_bulkLast (u : Nat) (f : Radio → Radio) : (modRadio s u f).bulkLast = s.bulkLast := rfl
@[simp] theorem modRadio_siteRx (u : Nat) (f : Radio → Radio) : (modRadio s u f).siteRx = s.siteRx := rfl
@[simp] theorem modRadio_siteIn (u : Nat) (f : Radio → Radio) : (modRadio s u f).siteIn = s.siteIn := rfl
@[simp] theorem modRadio_outbound (u : Nat) (f : Radio → Radio) : (modRadio s u f).outbound = s.outbound := rfl
@[simp] theorem modRadio_siteResidue (u : Nat) (f : Radio → Radio) : (modRadio s u f).siteResidue = s.siteResidue := rfl
@[simp] theorem modRadio_siteSent (u : Nat) (f : Radio → Radio) : (modRadio s u f).siteSent = s.siteSent := rfl
@[simp] theorem modRadio_dispatchRx (u : Nat) (f : Radio → Radio) : (modRadio s u f).dispatchRx = s.dispatchRx := rfl
@[simp] theorem modRadio_requests (u : Nat) (f : Radio → Radio) : (modRadio s u f).requests = s.requests := rfl
@[simp] theorem modRadio_answers (u : Nat) (f : Radio → Radio) : (modRadio s u f).answers = s.answers := rfl
@[simp] theorem modRadio_dispatchSent (u : Nat) (f : Radio → Radio) : (modRadio s u f).dispatchSent = s.dispatchSent := rfl
@[simp] theorem modRadio_notices (u : Nat) (f : Radio → Radio) : (modRadio s u f).notices = s.notices := rfl
@[simp] theorem modRadio_noticeOverflow (u : Nat) (f : Radio → Radio) : (modRadio s u f).noticeOverflow = s.noticeOverflow := rfl
@[simp] theorem modRadio_answerLost (u : Nat) (f : Radio → Radio) : (modRadio s u f).answerLost = s.answerLost := rfl
@[simp] theorem modRadio_pending (u : Nat) (f : Radio → Radio) : (modRadio s u f).pending = s.pending := rfl
@[simp] theorem modRadio_choices (u : Nat) (f : Radio → Radio) : (modRadio s u f).choices = s.choices := rfl

/-! ### setRecordState -/

@[simp] theorem setRecordState_phase (u : Nat) (st : RecordState) : (setRecordState s u st).phase = s.phase := rfl
@[simp] theorem setRecordState_partTime (u : Nat) (st : RecordState) : (setRecordState s u st).partTime = s.partTime := rfl
@[simp] theorem setRecordState_tagCounter (u : Nat) (st : RecordState) : (setRecordState s u st).tagCounter = s.tagCounter := rfl
@[simp] theorem setRecordState_params (u : Nat) (st : RecordState) : (setRecordState s u st).params = s.params := rfl
@[simp] theorem setRecordState_radios (u : Nat) (st : RecordState) : (setRecordState s u st).radios = tmod s.radios u fun r => { r with state := st } := rfl
@[simp] theorem setRecordState_sites (u : Nat) (st : RecordState) : (setRecordState s u st).sites = s.sites := rfl
@[simp] theorem setRecordState_groups (u : Nat) (st : RecordState) : (setRecordState s u st).groups = s.groups := rfl
@[simp] theorem setRecordState_calls (u : Nat) (st : RecordState) : (setRecordState s u st).calls = s.calls := rfl
@[simp] theorem setRecordState_bulk (u : Nat) (st : RecordState) : (setRecordState s u st).bulk = s.bulk := rfl
@[simp] theorem setRecordState_bulkWaiting (u : Nat) (st : RecordState) : (setRecordState s u st).bulkWaiting = s.bulkWaiting := rfl
@[simp] theorem setRecordState_bulkLast (u : Nat) (st : RecordState) : (setRecordState s u st).bulkLast = s.bulkLast := rfl
@[simp] theorem setRecordState_siteRx (u : Nat) (st : RecordState) : (setRecordState s u st).siteRx = s.siteRx := rfl
@[simp] theorem setRecordState_siteIn (u : Nat) (st : RecordState) : (setRecordState s u st).siteIn = s.siteIn := rfl
@[simp] theorem setRecordState_outbound (u : Nat) (st : RecordState) : (setRecordState s u st).outbound = s.outbound := rfl
@[simp] theorem setRecordState_siteResidue (u : Nat) (st : RecordState) : (setRecordState s u st).siteResidue = s.siteResidue := rfl
@[simp] theorem setRecordState_siteSent (u : Nat) (st : RecordState) : (setRecordState s u st).siteSent = s.siteSent := rfl
@[simp] theorem setRecordState_dispatchRx (u : Nat) (st : RecordState) : (setRecordState s u st).dispatchRx = s.dispatchRx := rfl
@[simp] theorem setRecordState_requests (u : Nat) (st : RecordState) : (setRecordState s u st).requests = s.requests := rfl
@[simp] theorem setRecordState_answers (u : Nat) (st : RecordState) : (setRecordState s u st).answers = s.answers := rfl
@[simp] theorem setRecordState_dispatchSent (u : Nat) (st : RecordState) : (setRecordState s u st).dispatchSent = s.dispatchSent := rfl
@[simp] theorem setRecordState_notices (u : Nat) (st : RecordState) : (setRecordState s u st).notices = s.notices := rfl
@[simp] theorem setRecordState_noticeOverflow (u : Nat) (st : RecordState) : (setRecordState s u st).noticeOverflow = s.noticeOverflow := rfl
@[simp] theorem setRecordState_answerLost (u : Nat) (st : RecordState) : (setRecordState s u st).answerLost = s.answerLost := rfl
@[simp] theorem setRecordState_pending (u : Nat) (st : RecordState) : (setRecordState s u st).pending = s.pending := rfl
@[simp] theorem setRecordState_choices (u : Nat) (st : RecordState) : (setRecordState s u st).choices = s.choices := rfl

/-! ### modSite -/

@[simp] theorem modSite_phase (n : Nat) (f : Site → Site) : (modSite s n f).phase = s.phase := rfl
@[simp] theorem modSite_partTime (n : Nat) (f : Site → Site) : (modSite s n f).partTime = s.partTime := rfl
@[simp] theorem modSite_tagCounter (n : Nat) (f : Site → Site) : (modSite s n f).tagCounter = s.tagCounter := rfl
@[simp] theorem modSite_params (n : Nat) (f : Site → Site) : (modSite s n f).params = s.params := rfl
@[simp] theorem modSite_radios (n : Nat) (f : Site → Site) : (modSite s n f).radios = s.radios := rfl
@[simp] theorem modSite_sites (n : Nat) (f : Site → Site) : (modSite s n f).sites = tmod s.sites n f := rfl
@[simp] theorem modSite_groups (n : Nat) (f : Site → Site) : (modSite s n f).groups = s.groups := rfl
@[simp] theorem modSite_calls (n : Nat) (f : Site → Site) : (modSite s n f).calls = s.calls := rfl
@[simp] theorem modSite_bulk (n : Nat) (f : Site → Site) : (modSite s n f).bulk = s.bulk := rfl
@[simp] theorem modSite_bulkWaiting (n : Nat) (f : Site → Site) : (modSite s n f).bulkWaiting = s.bulkWaiting := rfl
@[simp] theorem modSite_bulkLast (n : Nat) (f : Site → Site) : (modSite s n f).bulkLast = s.bulkLast := rfl
@[simp] theorem modSite_siteRx (n : Nat) (f : Site → Site) : (modSite s n f).siteRx = s.siteRx := rfl
@[simp] theorem modSite_siteIn (n : Nat) (f : Site → Site) : (modSite s n f).siteIn = s.siteIn := rfl
@[simp] theorem modSite_outbound (n : Nat) (f : Site → Site) : (modSite s n f).outbound = s.outbound := rfl
@[simp] theorem modSite_siteResidue (n : Nat) (f : Site → Site) : (modSite s n f).siteResidue = s.siteResidue := rfl
@[simp] theorem modSite_siteSent (n : Nat) (f : Site → Site) : (modSite s n f).siteSent = s.siteSent := rfl
@[simp] theorem modSite_dispatchRx (n : Nat) (f : Site → Site) : (modSite s n f).dispatchRx = s.dispatchRx := rfl
@[simp] theorem modSite_requests (n : Nat) (f : Site → Site) : (modSite s n f).requests = s.requests := rfl
@[simp] theorem modSite_answers (n : Nat) (f : Site → Site) : (modSite s n f).answers = s.answers := rfl
@[simp] theorem modSite_dispatchSent (n : Nat) (f : Site → Site) : (modSite s n f).dispatchSent = s.dispatchSent := rfl
@[simp] theorem modSite_notices (n : Nat) (f : Site → Site) : (modSite s n f).notices = s.notices := rfl
@[simp] theorem modSite_noticeOverflow (n : Nat) (f : Site → Site) : (modSite s n f).noticeOverflow = s.noticeOverflow := rfl
@[simp] theorem modSite_answerLost (n : Nat) (f : Site → Site) : (modSite s n f).answerLost = s.answerLost := rfl
@[simp] theorem modSite_pending (n : Nat) (f : Site → Site) : (modSite s n f).pending = s.pending := rfl
@[simp] theorem modSite_choices (n : Nat) (f : Site → Site) : (modSite s n f).choices = s.choices := rfl

/-! ### modGroup -/

@[simp] theorem modGroup_phase (g : Nat) (f : Group → Group) : (modGroup s g f).phase = s.phase := rfl
@[simp] theorem modGroup_partTime (g : Nat) (f : Group → Group) : (modGroup s g f).partTime = s.partTime := rfl
@[simp] theorem modGroup_tagCounter (g : Nat) (f : Group → Group) : (modGroup s g f).tagCounter = s.tagCounter := rfl
@[simp] theorem modGroup_params (g : Nat) (f : Group → Group) : (modGroup s g f).params = s.params := rfl
@[simp] theorem modGroup_radios (g : Nat) (f : Group → Group) : (modGroup s g f).radios = s.radios := rfl
@[simp] theorem modGroup_sites (g : Nat) (f : Group → Group) : (modGroup s g f).sites = s.sites := rfl
@[simp] theorem modGroup_groups (g : Nat) (f : Group → Group) : (modGroup s g f).groups = tmod s.groups g f := rfl
@[simp] theorem modGroup_calls (g : Nat) (f : Group → Group) : (modGroup s g f).calls = s.calls := rfl
@[simp] theorem modGroup_bulk (g : Nat) (f : Group → Group) : (modGroup s g f).bulk = s.bulk := rfl
@[simp] theorem modGroup_bulkWaiting (g : Nat) (f : Group → Group) : (modGroup s g f).bulkWaiting = s.bulkWaiting := rfl
@[simp] theorem modGroup_bulkLast (g : Nat) (f : Group → Group) : (modGroup s g f).bulkLast = s.bulkLast := rfl
@[simp] theorem modGroup_siteRx (g : Nat) (f : Group → Group) : (modGroup s g f).siteRx = s.siteRx := rfl
@[simp] theorem modGroup_siteIn (g : Nat) (f : Group → Group) : (modGroup s g f).siteIn = s.siteIn := rfl
@[simp] theorem modGroup_outbound (g : Nat) (f : Group → Group) : (modGroup s g f).outbound = s.outbound := rfl
@[simp] theorem modGroup_siteResidue (g : Nat) (f : Group → Group) : (modGroup s g f).siteResidue = s.siteResidue := rfl
@[simp] theorem modGroup_siteSent (g : Nat) (f : Group → Group) : (modGroup s g f).siteSent = s.siteSent := rfl
@[simp] theorem modGroup_dispatchRx (g : Nat) (f : Group → Group) : (modGroup s g f).dispatchRx = s.dispatchRx := rfl
@[simp] theorem modGroup_requests (g : Nat) (f : Group → Group) : (modGroup s g f).requests = s.requests := rfl
@[simp] theorem modGroup_answers (g : Nat) (f : Group → Group) : (modGroup s g f).answers = s.answers := rfl
@[simp] theorem modGroup_dispatchSent (g : Nat) (f : Group → Group) : (modGroup s g f).dispatchSent = s.dispatchSent := rfl
@[simp] theorem modGroup_notices (g : Nat) (f : Group → Group) : (modGroup s g f).notices = s.notices := rfl
@[simp] theorem modGroup_noticeOverflow (g : Nat) (f : Group → Group) : (modGroup s g f).noticeOverflow = s.noticeOverflow := rfl
@[simp] theorem modGroup_answerLost (g : Nat) (f : Group → Group) : (modGroup s g f).answerLost = s.answerLost := rfl
@[simp] theorem modGroup_pending (g : Nat) (f : Group → Group) : (modGroup s g f).pending = s.pending := rfl
@[simp] theorem modGroup_choices (g : Nat) (f : Group → Group) : (modGroup s g f).choices = s.choices := rfl

/-! ### modCall -/

@[simp] theorem modCall_phase (c : Nat) (f : Call → Call) : (modCall s c f).phase = s.phase := rfl
@[simp] theorem modCall_partTime (c : Nat) (f : Call → Call) : (modCall s c f).partTime = s.partTime := rfl
@[simp] theorem modCall_tagCounter (c : Nat) (f : Call → Call) : (modCall s c f).tagCounter = s.tagCounter := rfl
@[simp] theorem modCall_params (c : Nat) (f : Call → Call) : (modCall s c f).params = s.params := rfl
@[simp] theorem modCall_radios (c : Nat) (f : Call → Call) : (modCall s c f).radios = s.radios := rfl
@[simp] theorem modCall_sites (c : Nat) (f : Call → Call) : (modCall s c f).sites = s.sites := rfl
@[simp] theorem modCall_groups (c : Nat) (f : Call → Call) : (modCall s c f).groups = s.groups := rfl
@[simp] theorem modCall_calls (c : Nat) (f : Call → Call) : (modCall s c f).calls = tmod s.calls c f := rfl
@[simp] theorem modCall_bulk (c : Nat) (f : Call → Call) : (modCall s c f).bulk = s.bulk := rfl
@[simp] theorem modCall_bulkWaiting (c : Nat) (f : Call → Call) : (modCall s c f).bulkWaiting = s.bulkWaiting := rfl
@[simp] theorem modCall_bulkLast (c : Nat) (f : Call → Call) : (modCall s c f).bulkLast = s.bulkLast := rfl
@[simp] theorem modCall_siteRx (c : Nat) (f : Call → Call) : (modCall s c f).siteRx = s.siteRx := rfl
@[simp] theorem modCall_siteIn (c : Nat) (f : Call → Call) : (modCall s c f).siteIn = s.siteIn := rfl
@[simp] theorem modCall_outbound (c : Nat) (f : Call → Call) : (modCall s c f).outbound = s.outbound := rfl
@[simp] theorem modCall_siteResidue (c : Nat) (f : Call → Call) : (modCall s c f).siteResidue = s.siteResidue := rfl
@[simp] theorem modCall_siteSent (c : Nat) (f : Call → Call) : (modCall s c f).siteSent = s.siteSent := rfl
@[simp] theorem modCall_dispatchRx (c : Nat) (f : Call → Call) : (modCall s c f).dispatchRx = s.dispatchRx := rfl
@[simp] theorem modCall_requests (c : Nat) (f : Call → Call) : (modCall s c f).requests = s.requests := rfl
@[simp] theorem modCall_answers (c : Nat) (f : Call → Call) : (modCall s c f).answers = s.answers := rfl
@[simp] theorem modCall_dispatchSent (c : Nat) (f : Call → Call) : (modCall s c f).dispatchSent = s.dispatchSent := rfl
@[simp] theorem modCall_notices (c : Nat) (f : Call → Call) : (modCall s c f).notices = s.notices := rfl
@[simp] theorem modCall_noticeOverflow (c : Nat) (f : Call → Call) : (modCall s c f).noticeOverflow = s.noticeOverflow := rfl
@[simp] theorem modCall_answerLost (c : Nat) (f : Call → Call) : (modCall s c f).answerLost = s.answerLost := rfl
@[simp] theorem modCall_pending (c : Nat) (f : Call → Call) : (modCall s c f).pending = s.pending := rfl
@[simp] theorem modCall_choices (c : Nat) (f : Call → Call) : (modCall s c f).choices = s.choices := rfl

/-! ### pushOut -/

@[simp] theorem pushOut_phase (f : SiteOut) : (pushOut s f).phase = s.phase := rfl
@[simp] theorem pushOut_partTime (f : SiteOut) : (pushOut s f).partTime = s.partTime := rfl
@[simp] theorem pushOut_tagCounter (f : SiteOut) : (pushOut s f).tagCounter = s.tagCounter := rfl
@[simp] theorem pushOut_params (f : SiteOut) : (pushOut s f).params = s.params := rfl
@[simp] theorem pushOut_radios (f : SiteOut) : (pushOut s f).radios = s.radios := rfl
@[simp] theorem pushOut_sites (f : SiteOut) : (pushOut s f).sites = s.sites := rfl
@[simp] theorem pushOut_groups (f : SiteOut) : (pushOut s f).groups = s.groups := rfl
@[simp] theorem pushOut_calls (f : SiteOut) : (pushOut s f).calls = s.calls := rfl
@[simp] theorem pushOut_bulk (f : SiteOut) : (pushOut s f).bulk = s.bulk := rfl
@[simp] theorem pushOut_bulkWaiting (f : SiteOut) : (pushOut s f).bulkWaiting = s.bulkWaiting := rfl
@[simp] theorem pushOut_bulkLast (f : SiteOut) : (pushOut s f).bulkLast = s.bulkLast := rfl
@[simp] theorem pushOut_siteRx (f : SiteOut) : (pushOut s f).siteRx = s.siteRx := rfl
@[simp] theorem pushOut_siteIn (f : SiteOut) : (pushOut s f).siteIn = s.siteIn := rfl
@[simp] theorem pushOut_outbound (f : SiteOut) : (pushOut s f).outbound = s.outbound ++ [f] := rfl
@[simp] theorem pushOut_siteResidue (f : SiteOut) : (pushOut s f).siteResidue = s.siteResidue := rfl
@[simp] theorem pushOut_siteSent (f : SiteOut) : (pushOut s f).siteSent = s.siteSent := rfl
@[simp] theorem pushOut_dispatchRx (f : SiteOut) : (pushOut s f).dispatchRx = s.dispatchRx := rfl
@[simp] theorem pushOut_requests (f : SiteOut) : (pushOut s f).requests = s.requests := rfl
@[simp] theorem pushOut_answers (f : SiteOut) : (pushOut s f).answers = s.answers := rfl
@[simp] theorem pushOut_dispatchSent (f : SiteOut) : (pushOut s f).dispatchSent = s.dispatchSent := rfl
@[simp] theorem pushOut_notices (f : SiteOut) : (pushOut s f).notices = s.notices := rfl
@[simp] theorem pushOut_noticeOverflow (f : SiteOut) : (pushOut s f).noticeOverflow = s.noticeOverflow := rfl
@[simp] theorem pushOut_answerLost (f : SiteOut) : (pushOut s f).answerLost = s.answerLost := rfl
@[simp] theorem pushOut_pending (f : SiteOut) : (pushOut s f).pending = s.pending := rfl
@[simp] theorem pushOut_choices (f : SiteOut) : (pushOut s f).choices = s.choices := rfl

/-! ### setOut -/

@[simp] theorem setOut_phase (place : Nat) (f : SiteOut) : (setOut s place f).phase = s.phase := rfl
@[simp] theorem setOut_partTime (place : Nat) (f : SiteOut) : (setOut s place f).partTime = s.partTime := rfl
@[simp] theorem setOut_tagCounter (place : Nat) (f : SiteOut) : (setOut s place f).tagCounter = s.tagCounter := rfl
@[simp] theorem setOut_params (place : Nat) (f : SiteOut) : (setOut s place f).params = s.params := rfl
@[simp] theorem setOut_radios (place : Nat) (f : SiteOut) : (setOut s place f).radios = s.radios := rfl
@[simp] theorem setOut_sites (place : Nat) (f : SiteOut) : (setOut s place f).sites = s.sites := rfl
@[simp] theorem setOut_groups (place : Nat) (f : SiteOut) : (setOut s place f).groups = s.groups := rfl
@[simp] theorem setOut_calls (place : Nat) (f : SiteOut) : (setOut s place f).calls = s.calls := rfl
@[simp] theorem setOut_bulk (place : Nat) (f : SiteOut) : (setOut s place f).bulk = s.bulk := rfl
@[simp] theorem setOut_bulkWaiting (place : Nat) (f : SiteOut) : (setOut s place f).bulkWaiting = s.bulkWaiting := rfl
@[simp] theorem setOut_bulkLast (place : Nat) (f : SiteOut) : (setOut s place f).bulkLast = s.bulkLast := rfl
@[simp] theorem setOut_siteRx (place : Nat) (f : SiteOut) : (setOut s place f).siteRx = s.siteRx := rfl
@[simp] theorem setOut_siteIn (place : Nat) (f : SiteOut) : (setOut s place f).siteIn = s.siteIn := rfl
@[simp] theorem setOut_outbound (place : Nat) (f : SiteOut) : (setOut s place f).outbound = s.outbound.set place f := rfl
@[simp] theorem setOut_siteResidue (place : Nat) (f : SiteOut) : (setOut s place f).siteResidue = s.siteResidue := rfl
@[simp] theorem setOut_siteSent (place : Nat) (f : SiteOut) : (setOut s place f).siteSent = s.siteSent := rfl
@[simp] theorem setOut_dispatchRx (place : Nat) (f : SiteOut) : (setOut s place f).dispatchRx = s.dispatchRx := rfl
@[simp] theorem setOut_requests (place : Nat) (f : SiteOut) : (setOut s place f).requests = s.requests := rfl
@[simp] theorem setOut_answers (place : Nat) (f : SiteOut) : (setOut s place f).answers = s.answers := rfl
@[simp] theorem setOut_dispatchSent (place : Nat) (f : SiteOut) : (setOut s place f).dispatchSent = s.dispatchSent := rfl
@[simp] theorem setOut_notices (place : Nat) (f : SiteOut) : (setOut s place f).notices = s.notices := rfl
@[simp] theorem setOut_noticeOverflow (place : Nat) (f : SiteOut) : (setOut s place f).noticeOverflow = s.noticeOverflow := rfl
@[simp] theorem setOut_answerLost (place : Nat) (f : SiteOut) : (setOut s place f).answerLost = s.answerLost := rfl
@[simp] theorem setOut_pending (place : Nat) (f : SiteOut) : (setOut s place f).pending = s.pending := rfl
@[simp] theorem setOut_choices (place : Nat) (f : SiteOut) : (setOut s place f).choices = s.choices := rfl

/-! ### setGap -/

@[simp] theorem setGap_phase : (setGap s).phase = s.phase := rfl
@[simp] theorem setGap_partTime : (setGap s).partTime = s.partTime := rfl
@[simp] theorem setGap_tagCounter : (setGap s).tagCounter = s.tagCounter := rfl
@[simp] theorem setGap_params : (setGap s).params = s.params := rfl
@[simp] theorem setGap_radios : (setGap s).radios = s.radios := rfl
@[simp] theorem setGap_sites : (setGap s).sites = s.sites := rfl
@[simp] theorem setGap_groups : (setGap s).groups = s.groups := rfl
@[simp] theorem setGap_calls : (setGap s).calls = s.calls := rfl
@[simp] theorem setGap_bulk : (setGap s).bulk = s.bulk.map fun b => { b with gap := true } := rfl
@[simp] theorem setGap_bulkWaiting : (setGap s).bulkWaiting = s.bulkWaiting := rfl
@[simp] theorem setGap_bulkLast : (setGap s).bulkLast = s.bulkLast := rfl
@[simp] theorem setGap_siteRx : (setGap s).siteRx = s.siteRx := rfl
@[simp] theorem setGap_siteIn : (setGap s).siteIn = s.siteIn := rfl
@[simp] theorem setGap_outbound : (setGap s).outbound = s.outbound := rfl
@[simp] theorem setGap_siteResidue : (setGap s).siteResidue = s.siteResidue := rfl
@[simp] theorem setGap_siteSent : (setGap s).siteSent = s.siteSent := rfl
@[simp] theorem setGap_dispatchRx : (setGap s).dispatchRx = s.dispatchRx := rfl
@[simp] theorem setGap_requests : (setGap s).requests = s.requests := rfl
@[simp] theorem setGap_answers : (setGap s).answers = s.answers := rfl
@[simp] theorem setGap_dispatchSent : (setGap s).dispatchSent = s.dispatchSent := rfl
@[simp] theorem setGap_notices : (setGap s).notices = s.notices := rfl
@[simp] theorem setGap_noticeOverflow : (setGap s).noticeOverflow = s.noticeOverflow := rfl
@[simp] theorem setGap_answerLost : (setGap s).answerLost = s.answerLost := rfl
@[simp] theorem setGap_pending : (setGap s).pending = s.pending := rfl
@[simp] theorem setGap_choices : (setGap s).choices = s.choices := rfl

/-! ### modBulk -/

@[simp] theorem modBulk_phase (f : BulkRun → BulkRun) : (modBulk s f).phase = s.phase := rfl
@[simp] theorem modBulk_partTime (f : BulkRun → BulkRun) : (modBulk s f).partTime = s.partTime := rfl
@[simp] theorem modBulk_tagCounter (f : BulkRun → BulkRun) : (modBulk s f).tagCounter = s.tagCounter := rfl
@[simp] theorem modBulk_params (f : BulkRun → BulkRun) : (modBulk s f).params = s.params := rfl
@[simp] theorem modBulk_radios (f : BulkRun → BulkRun) : (modBulk s f).radios = s.radios := rfl
@[simp] theorem modBulk_sites (f : BulkRun → BulkRun) : (modBulk s f).sites = s.sites := rfl
@[simp] theorem modBulk_groups (f : BulkRun → BulkRun) : (modBulk s f).groups = s.groups := rfl
@[simp] theorem modBulk_calls (f : BulkRun → BulkRun) : (modBulk s f).calls = s.calls := rfl
@[simp] theorem modBulk_bulk (f : BulkRun → BulkRun) : (modBulk s f).bulk = s.bulk.map f := rfl
@[simp] theorem modBulk_bulkWaiting (f : BulkRun → BulkRun) : (modBulk s f).bulkWaiting = s.bulkWaiting := rfl
@[simp] theorem modBulk_bulkLast (f : BulkRun → BulkRun) : (modBulk s f).bulkLast = s.bulkLast := rfl
@[simp] theorem modBulk_siteRx (f : BulkRun → BulkRun) : (modBulk s f).siteRx = s.siteRx := rfl
@[simp] theorem modBulk_siteIn (f : BulkRun → BulkRun) : (modBulk s f).siteIn = s.siteIn := rfl
@[simp] theorem modBulk_outbound (f : BulkRun → BulkRun) : (modBulk s f).outbound = s.outbound := rfl
@[simp] theorem modBulk_siteResidue (f : BulkRun → BulkRun) : (modBulk s f).siteResidue = s.siteResidue := rfl
@[simp] theorem modBulk_siteSent (f : BulkRun → BulkRun) : (modBulk s f).siteSent = s.siteSent := rfl
@[simp] theorem modBulk_dispatchRx (f : BulkRun → BulkRun) : (modBulk s f).dispatchRx = s.dispatchRx := rfl
@[simp] theorem modBulk_requests (f : BulkRun → BulkRun) : (modBulk s f).requests = s.requests := rfl
@[simp] theorem modBulk_answers (f : BulkRun → BulkRun) : (modBulk s f).answers = s.answers := rfl
@[simp] theorem modBulk_dispatchSent (f : BulkRun → BulkRun) : (modBulk s f).dispatchSent = s.dispatchSent := rfl
@[simp] theorem modBulk_notices (f : BulkRun → BulkRun) : (modBulk s f).notices = s.notices := rfl
@[simp] theorem modBulk_noticeOverflow (f : BulkRun → BulkRun) : (modBulk s f).noticeOverflow = s.noticeOverflow := rfl
@[simp] theorem modBulk_answerLost (f : BulkRun → BulkRun) : (modBulk s f).answerLost = s.answerLost := rfl
@[simp] theorem modBulk_pending (f : BulkRun → BulkRun) : (modBulk s f).pending = s.pending := rfl
@[simp] theorem modBulk_choices (f : BulkRun → BulkRun) : (modBulk s f).choices = s.choices := rfl

/-! ### addReg -/

@[simp] theorem addReg_phase (n : Nat) : (addReg s n).phase = s.phase := rfl
@[simp] theorem addReg_partTime (n : Nat) : (addReg s n).partTime = s.partTime := rfl
@[simp] theorem addReg_tagCounter (n : Nat) : (addReg s n).tagCounter = s.tagCounter := rfl
@[simp] theorem addReg_params (n : Nat) : (addReg s n).params = s.params := rfl
@[simp] theorem addReg_radios (n : Nat) : (addReg s n).radios = s.radios := rfl
@[simp] theorem addReg_sites (n : Nat) : (addReg s n).sites = tmod s.sites n fun x => { x with count := x.count + 1 } := rfl
@[simp] theorem addReg_groups (n : Nat) : (addReg s n).groups = s.groups := rfl
@[simp] theorem addReg_calls (n : Nat) : (addReg s n).calls = s.calls := rfl
@[simp] theorem addReg_bulk (n : Nat) : (addReg s n).bulk = s.bulk := rfl
@[simp] theorem addReg_bulkWaiting (n : Nat) : (addReg s n).bulkWaiting = s.bulkWaiting := rfl
@[simp] theorem addReg_bulkLast (n : Nat) : (addReg s n).bulkLast = s.bulkLast := rfl
@[simp] theorem addReg_siteRx (n : Nat) : (addReg s n).siteRx = s.siteRx := rfl
@[simp] theorem addReg_siteIn (n : Nat) : (addReg s n).siteIn = s.siteIn := rfl
@[simp] theorem addReg_outbound (n : Nat) : (addReg s n).outbound = s.outbound := rfl
@[simp] theorem addReg_siteResidue (n : Nat) : (addReg s n).siteResidue = s.siteResidue := rfl
@[simp] theorem addReg_siteSent (n : Nat) : (addReg s n).siteSent = s.siteSent := rfl
@[simp] theorem addReg_dispatchRx (n : Nat) : (addReg s n).dispatchRx = s.dispatchRx := rfl
@[simp] theorem addReg_requests (n : Nat) : (addReg s n).requests = s.requests := rfl
@[simp] theorem addReg_answers (n : Nat) : (addReg s n).answers = s.answers := rfl
@[simp] theorem addReg_dispatchSent (n : Nat) : (addReg s n).dispatchSent = s.dispatchSent := rfl
@[simp] theorem addReg_notices (n : Nat) : (addReg s n).notices = s.notices := rfl
@[simp] theorem addReg_noticeOverflow (n : Nat) : (addReg s n).noticeOverflow = s.noticeOverflow := rfl
@[simp] theorem addReg_answerLost (n : Nat) : (addReg s n).answerLost = s.answerLost := rfl
@[simp] theorem addReg_pending (n : Nat) : (addReg s n).pending = s.pending := rfl
@[simp] theorem addReg_choices (n : Nat) : (addReg s n).choices = s.choices := rfl

/-! ### subReg -/

@[simp] theorem subReg_phase (n : Nat) : (subReg s n).phase = s.phase := rfl
@[simp] theorem subReg_partTime (n : Nat) : (subReg s n).partTime = s.partTime := rfl
@[simp] theorem subReg_tagCounter (n : Nat) : (subReg s n).tagCounter = s.tagCounter := rfl
@[simp] theorem subReg_params (n : Nat) : (subReg s n).params = s.params := rfl
@[simp] theorem subReg_radios (n : Nat) : (subReg s n).radios = s.radios := rfl
@[simp] theorem subReg_sites (n : Nat) : (subReg s n).sites = tmod s.sites n fun x => clearOver { x with count := x.count - 1 } := rfl
@[simp] theorem subReg_groups (n : Nat) : (subReg s n).groups = s.groups := rfl
@[simp] theorem subReg_calls (n : Nat) : (subReg s n).calls = s.calls := rfl
@[simp] theorem subReg_bulk (n : Nat) : (subReg s n).bulk = s.bulk := rfl
@[simp] theorem subReg_bulkWaiting (n : Nat) : (subReg s n).bulkWaiting = s.bulkWaiting := rfl
@[simp] theorem subReg_bulkLast (n : Nat) : (subReg s n).bulkLast = s.bulkLast := rfl
@[simp] theorem subReg_siteRx (n : Nat) : (subReg s n).siteRx = s.siteRx := rfl
@[simp] theorem subReg_siteIn (n : Nat) : (subReg s n).siteIn = s.siteIn := rfl
@[simp] theorem subReg_outbound (n : Nat) : (subReg s n).outbound = s.outbound := rfl
@[simp] theorem subReg_siteResidue (n : Nat) : (subReg s n).siteResidue = s.siteResidue := rfl
@[simp] theorem subReg_siteSent (n : Nat) : (subReg s n).siteSent = s.siteSent := rfl
@[simp] theorem subReg_dispatchRx (n : Nat) : (subReg s n).dispatchRx = s.dispatchRx := rfl
@[simp] theorem subReg_requests (n : Nat) : (subReg s n).requests = s.requests := rfl
@[simp] theorem subReg_answers (n : Nat) : (subReg s n).answers = s.answers := rfl
@[simp] theorem subReg_dispatchSent (n : Nat) : (subReg s n).dispatchSent = s.dispatchSent := rfl
@[simp] theorem subReg_notices (n : Nat) : (subReg s n).notices = s.notices := rfl
@[simp] theorem subReg_noticeOverflow (n : Nat) : (subReg s n).noticeOverflow = s.noticeOverflow := rfl
@[simp] theorem subReg_answerLost (n : Nat) : (subReg s n).answerLost = s.answerLost := rfl
@[simp] theorem subReg_pending (n : Nat) : (subReg s n).pending = s.pending := rfl
@[simp] theorem subReg_choices (n : Nat) : (subReg s n).choices = s.choices := rfl

/-! ### leaveQueue -/

@[simp] theorem leaveQueue_phase (n c : Nat) : (leaveQueue s n c).phase = s.phase := rfl
@[simp] theorem leaveQueue_partTime (n c : Nat) : (leaveQueue s n c).partTime = s.partTime := rfl
@[simp] theorem leaveQueue_tagCounter (n c : Nat) : (leaveQueue s n c).tagCounter = s.tagCounter := rfl
@[simp] theorem leaveQueue_params (n c : Nat) : (leaveQueue s n c).params = s.params := rfl
@[simp] theorem leaveQueue_radios (n c : Nat) : (leaveQueue s n c).radios = s.radios := rfl
@[simp] theorem leaveQueue_sites (n c : Nat) : (leaveQueue s n c).sites = tmod s.sites n fun x => { x with queue := x.queue.erase c } := rfl
@[simp] theorem leaveQueue_groups (n c : Nat) : (leaveQueue s n c).groups = s.groups := rfl
@[simp] theorem leaveQueue_calls (n c : Nat) : (leaveQueue s n c).calls = s.calls := rfl
@[simp] theorem leaveQueue_bulk (n c : Nat) : (leaveQueue s n c).bulk = s.bulk := rfl
@[simp] theorem leaveQueue_bulkWaiting (n c : Nat) : (leaveQueue s n c).bulkWaiting = s.bulkWaiting := rfl
@[simp] theorem leaveQueue_bulkLast (n c : Nat) : (leaveQueue s n c).bulkLast = s.bulkLast := rfl
@[simp] theorem leaveQueue_siteRx (n c : Nat) : (leaveQueue s n c).siteRx = s.siteRx := rfl
@[simp] theorem leaveQueue_siteIn (n c : Nat) : (leaveQueue s n c).siteIn = s.siteIn := rfl
@[simp] theorem leaveQueue_outbound (n c : Nat) : (leaveQueue s n c).outbound = s.outbound := rfl
@[simp] theorem leaveQueue_siteResidue (n c : Nat) : (leaveQueue s n c).siteResidue = s.siteResidue := rfl
@[simp] theorem leaveQueue_siteSent (n c : Nat) : (leaveQueue s n c).siteSent = s.siteSent := rfl
@[simp] theorem leaveQueue_dispatchRx (n c : Nat) : (leaveQueue s n c).dispatchRx = s.dispatchRx := rfl
@[simp] theorem leaveQueue_requests (n c : Nat) : (leaveQueue s n c).requests = s.requests := rfl
@[simp] theorem leaveQueue_answers (n c : Nat) : (leaveQueue s n c).answers = s.answers := rfl
@[simp] theorem leaveQueue_dispatchSent (n c : Nat) : (leaveQueue s n c).dispatchSent = s.dispatchSent := rfl
@[simp] theorem leaveQueue_notices (n c : Nat) : (leaveQueue s n c).notices = s.notices := rfl
@[simp] theorem leaveQueue_noticeOverflow (n c : Nat) : (leaveQueue s n c).noticeOverflow = s.noticeOverflow := rfl
@[simp] theorem leaveQueue_answerLost (n c : Nat) : (leaveQueue s n c).answerLost = s.answerLost := rfl
@[simp] theorem leaveQueue_pending (n c : Nat) : (leaveQueue s n c).pending = s.pending := rfl
@[simp] theorem leaveQueue_choices (n c : Nat) : (leaveQueue s n c).choices = s.choices := rfl

/-! ### joinQueue -/

@[simp] theorem joinQueue_phase (n c : Nat) : (joinQueue s n c).phase = s.phase := rfl
@[simp] theorem joinQueue_partTime (n c : Nat) : (joinQueue s n c).partTime = s.partTime := rfl
@[simp] theorem joinQueue_tagCounter (n c : Nat) : (joinQueue s n c).tagCounter = s.tagCounter := rfl
@[simp] theorem joinQueue_params (n c : Nat) : (joinQueue s n c).params = s.params := rfl
@[simp] theorem joinQueue_radios (n c : Nat) : (joinQueue s n c).radios = s.radios := rfl
@[simp] theorem joinQueue_sites (n c : Nat) : (joinQueue s n c).sites = tmod s.sites n fun x => { x with queue := x.queue ++ [c] } := rfl
@[simp] theorem joinQueue_groups (n c : Nat) : (joinQueue s n c).groups = s.groups := rfl
@[simp] theorem joinQueue_calls (n c : Nat) : (joinQueue s n c).calls = s.calls := rfl
@[simp] theorem joinQueue_bulk (n c : Nat) : (joinQueue s n c).bulk = s.bulk := rfl
@[simp] theorem joinQueue_bulkWaiting (n c : Nat) : (joinQueue s n c).bulkWaiting = s.bulkWaiting := rfl
@[simp] theorem joinQueue_bulkLast (n c : Nat) : (joinQueue s n c).bulkLast = s.bulkLast := rfl
@[simp] theorem joinQueue_siteRx (n c : Nat) : (joinQueue s n c).siteRx = s.siteRx := rfl
@[simp] theorem joinQueue_siteIn (n c : Nat) : (joinQueue s n c).siteIn = s.siteIn := rfl
@[simp] theorem joinQueue_outbound (n c : Nat) : (joinQueue s n c).outbound = s.outbound := rfl
@[simp] theorem joinQueue_siteResidue (n c : Nat) : (joinQueue s n c).siteResidue = s.siteResidue := rfl
@[simp] theorem joinQueue_siteSent (n c : Nat) : (joinQueue s n c).siteSent = s.siteSent := rfl
@[simp] theorem joinQueue_dispatchRx (n c : Nat) : (joinQueue s n c).dispatchRx = s.dispatchRx := rfl
@[simp] theorem joinQueue_requests (n c : Nat) : (joinQueue s n c).requests = s.requests := rfl
@[simp] theorem joinQueue_answers (n c : Nat) : (joinQueue s n c).answers = s.answers := rfl
@[simp] theorem joinQueue_dispatchSent (n c : Nat) : (joinQueue s n c).dispatchSent = s.dispatchSent := rfl
@[simp] theorem joinQueue_notices (n c : Nat) : (joinQueue s n c).notices = s.notices := rfl
@[simp] theorem joinQueue_noticeOverflow (n c : Nat) : (joinQueue s n c).noticeOverflow = s.noticeOverflow := rfl
@[simp] theorem joinQueue_answerLost (n c : Nat) : (joinQueue s n c).answerLost = s.answerLost := rfl
@[simp] theorem joinQueue_pending (n c : Nat) : (joinQueue s n c).pending = s.pending := rfl
@[simp] theorem joinQueue_choices (n c : Nat) : (joinQueue s n c).choices = s.choices := rfl

/-! ### setStatus -/

@[simp] theorem setStatus_phase (c n : Nat) (st : CallStatus) : (setStatus s c n st).phase = s.phase := rfl
@[simp] theorem setStatus_partTime (c n : Nat) (st : CallStatus) : (setStatus s c n st).partTime = s.partTime := rfl
@[simp] theorem setStatus_tagCounter (c n : Nat) (st : CallStatus) : (setStatus s c n st).tagCounter = s.tagCounter := rfl
@[simp] theorem setStatus_params (c n : Nat) (st : CallStatus) : (setStatus s c n st).params = s.params := rfl
@[simp] theorem setStatus_radios (c n : Nat) (st : CallStatus) : (setStatus s c n st).radios = s.radios := rfl
@[simp] theorem setStatus_sites (c n : Nat) (st : CallStatus) : (setStatus s c n st).sites = s.sites := rfl
@[simp] theorem setStatus_groups (c n : Nat) (st : CallStatus) : (setStatus s c n st).groups = s.groups := rfl
@[simp] theorem setStatus_calls (c n : Nat) (st : CallStatus) : (setStatus s c n st).calls = tmod s.calls c fun x => { x with map := tput x.map n st } := rfl
@[simp] theorem setStatus_bulk (c n : Nat) (st : CallStatus) : (setStatus s c n st).bulk = s.bulk := rfl
@[simp] theorem setStatus_bulkWaiting (c n : Nat) (st : CallStatus) : (setStatus s c n st).bulkWaiting = s.bulkWaiting := rfl
@[simp] theorem setStatus_bulkLast (c n : Nat) (st : CallStatus) : (setStatus s c n st).bulkLast = s.bulkLast := rfl
@[simp] theorem setStatus_siteRx (c n : Nat) (st : CallStatus) : (setStatus s c n st).siteRx = s.siteRx := rfl
@[simp] theorem setStatus_siteIn (c n : Nat) (st : CallStatus) : (setStatus s c n st).siteIn = s.siteIn := rfl
@[simp] theorem setStatus_outbound (c n : Nat) (st : CallStatus) : (setStatus s c n st).outbound = s.outbound := rfl
@[simp] theorem setStatus_siteResidue (c n : Nat) (st : CallStatus) : (setStatus s c n st).siteResidue = s.siteResidue := rfl
@[simp] theorem setStatus_siteSent (c n : Nat) (st : CallStatus) : (setStatus s c n st).siteSent = s.siteSent := rfl
@[simp] theorem setStatus_dispatchRx (c n : Nat) (st : CallStatus) : (setStatus s c n st).dispatchRx = s.dispatchRx := rfl
@[simp] theorem setStatus_requests (c n : Nat) (st : CallStatus) : (setStatus s c n st).requests = s.requests := rfl
@[simp] theorem setStatus_answers (c n : Nat) (st : CallStatus) : (setStatus s c n st).answers = s.answers := rfl
@[simp] theorem setStatus_dispatchSent (c n : Nat) (st : CallStatus) : (setStatus s c n st).dispatchSent = s.dispatchSent := rfl
@[simp] theorem setStatus_notices (c n : Nat) (st : CallStatus) : (setStatus s c n st).notices = s.notices := rfl
@[simp] theorem setStatus_noticeOverflow (c n : Nat) (st : CallStatus) : (setStatus s c n st).noticeOverflow = s.noticeOverflow := rfl
@[simp] theorem setStatus_answerLost (c n : Nat) (st : CallStatus) : (setStatus s c n st).answerLost = s.answerLost := rfl
@[simp] theorem setStatus_pending (c n : Nat) (st : CallStatus) : (setStatus s c n st).pending = s.pending := rfl
@[simp] theorem setStatus_choices (c n : Nat) (st : CallStatus) : (setStatus s c n st).choices = s.choices := rfl

/-! ### clearStatus -/

@[simp] theorem clearStatus_phase (c n : Nat) : (clearStatus s c n).phase = s.phase := rfl
@[simp] theorem clearStatus_partTime (c n : Nat) : (clearStatus s c n).partTime = s.partTime := rfl
@[simp] theorem clearStatus_tagCounter (c n : Nat) : (clearStatus s c n).tagCounter = s.tagCounter := rfl
@[simp] theorem clearStatus_params (c n : Nat) : (clearStatus s c n).params = s.params := rfl
@[simp] theorem clearStatus_radios (c n : Nat) : (clearStatus s c n).radios = s.radios := rfl
@[simp] theorem clearStatus_sites (c n : Nat) : (clearStatus s c n).sites = s.sites := rfl
@[simp] theorem clearStatus_groups (c n : Nat) : (clearStatus s c n).groups = s.groups := rfl
@[simp] theorem clearStatus_calls (c n : Nat) : (clearStatus s c n).calls = tmod s.calls c fun x => { x with map := tdel x.map n } := rfl
@[simp] theorem clearStatus_bulk (c n : Nat) : (clearStatus s c n).bulk = s.bulk := rfl
@[simp] theorem clearStatus_bulkWaiting (c n : Nat) : (clearStatus s c n).bulkWaiting = s.bulkWaiting := rfl
@[simp] theorem clearStatus_bulkLast (c n : Nat) : (clearStatus s c n).bulkLast = s.bulkLast := rfl
@[simp] theorem clearStatus_siteRx (c n : Nat) : (clearStatus s c n).siteRx = s.siteRx := rfl
@[simp] theorem clearStatus_siteIn (c n : Nat) : (clearStatus s c n).siteIn = s.siteIn := rfl
@[simp] theorem clearStatus_outbound (c n : Nat) : (clearStatus s c n).outbound = s.outbound := rfl
@[simp] theorem clearStatus_siteResidue (c n : Nat) : (clearStatus s c n).siteResidue = s.siteResidue := rfl
@[simp] theorem clearStatus_siteSent (c n : Nat) : (clearStatus s c n).siteSent = s.siteSent := rfl
@[simp] theorem clearStatus_dispatchRx (c n : Nat) : (clearStatus s c n).dispatchRx = s.dispatchRx := rfl
@[simp] theorem clearStatus_requests (c n : Nat) : (clearStatus s c n).requests = s.requests := rfl
@[simp] theorem clearStatus_answers (c n : Nat) : (clearStatus s c n).answers = s.answers := rfl
@[simp] theorem clearStatus_dispatchSent (c n : Nat) : (clearStatus s c n).dispatchSent = s.dispatchSent := rfl
@[simp] theorem clearStatus_notices (c n : Nat) : (clearStatus s c n).notices = s.notices := rfl
@[simp] theorem clearStatus_noticeOverflow (c n : Nat) : (clearStatus s c n).noticeOverflow = s.noticeOverflow := rfl
@[simp] theorem clearStatus_answerLost (c n : Nat) : (clearStatus s c n).answerLost = s.answerLost := rfl
@[simp] theorem clearStatus_pending (c n : Nat) : (clearStatus s c n).pending = s.pending := rfl
@[simp] theorem clearStatus_choices (c n : Nat) : (clearStatus s c n).choices = s.choices := rfl

/-! ### addTotal -/

@[simp] theorem addTotal_phase (g : Nat) : (addTotal s g).phase = s.phase := rfl
@[simp] theorem addTotal_partTime (g : Nat) : (addTotal s g).partTime = s.partTime := rfl
@[simp] theorem addTotal_tagCounter (g : Nat) : (addTotal s g).tagCounter = s.tagCounter := rfl
@[simp] theorem addTotal_params (g : Nat) : (addTotal s g).params = s.params := rfl
@[simp] theorem addTotal_radios (g : Nat) : (addTotal s g).radios = s.radios := rfl
@[simp] theorem addTotal_sites (g : Nat) : (addTotal s g).sites = s.sites := rfl
@[simp] theorem addTotal_groups (g : Nat) : (addTotal s g).groups = tmod s.groups g fun x => { x with total := x.total + 1 } := rfl
@[simp] theorem addTotal_calls (g : Nat) : (addTotal s g).calls = s.calls := rfl
@[simp] theorem addTotal_bulk (g : Nat) : (addTotal s g).bulk = s.bulk := rfl
@[simp] theorem addTotal_bulkWaiting (g : Nat) : (addTotal s g).bulkWaiting = s.bulkWaiting := rfl
@[simp] theorem addTotal_bulkLast (g : Nat) : (addTotal s g).bulkLast = s.bulkLast := rfl
@[simp] theorem addTotal_siteRx (g : Nat) : (addTotal s g).siteRx = s.siteRx := rfl
@[simp] theorem addTotal_siteIn (g : Nat) : (addTotal s g).siteIn = s.siteIn := rfl
@[simp] theorem addTotal_outbound (g : Nat) : (addTotal s g).outbound = s.outbound := rfl
@[simp] theorem addTotal_siteResidue (g : Nat) : (addTotal s g).siteResidue = s.siteResidue := rfl
@[simp] theorem addTotal_siteSent (g : Nat) : (addTotal s g).siteSent = s.siteSent := rfl
@[simp] theorem addTotal_dispatchRx (g : Nat) : (addTotal s g).dispatchRx = s.dispatchRx := rfl
@[simp] theorem addTotal_requests (g : Nat) : (addTotal s g).requests = s.requests := rfl
@[simp] theorem addTotal_answers (g : Nat) : (addTotal s g).answers = s.answers := rfl
@[simp] theorem addTotal_dispatchSent (g : Nat) : (addTotal s g).dispatchSent = s.dispatchSent := rfl
@[simp] theorem addTotal_notices (g : Nat) : (addTotal s g).notices = s.notices := rfl
@[simp] theorem addTotal_noticeOverflow (g : Nat) : (addTotal s g).noticeOverflow = s.noticeOverflow := rfl
@[simp] theorem addTotal_answerLost (g : Nat) : (addTotal s g).answerLost = s.answerLost := rfl
@[simp] theorem addTotal_pending (g : Nat) : (addTotal s g).pending = s.pending := rfl
@[simp] theorem addTotal_choices (g : Nat) : (addTotal s g).choices = s.choices := rfl

/-! ### subTotal -/

@[simp] theorem subTotal_phase (g : Nat) : (subTotal s g).phase = s.phase := rfl
@[simp] theorem subTotal_partTime (g : Nat) : (subTotal s g).partTime = s.partTime := rfl
@[simp] theorem subTotal_tagCounter (g : Nat) : (subTotal s g).tagCounter = s.tagCounter := rfl
@[simp] theorem subTotal_params (g : Nat) : (subTotal s g).params = s.params := rfl
@[simp] theorem subTotal_radios (g : Nat) : (subTotal s g).radios = s.radios := rfl
@[simp] theorem subTotal_sites (g : Nat) : (subTotal s g).sites = s.sites := rfl
@[simp] theorem subTotal_groups (g : Nat) : (subTotal s g).groups = tmod s.groups g fun x => { x with total := x.total - 1 } := rfl
@[simp] theorem subTotal_calls (g : Nat) : (subTotal s g).calls = s.calls := rfl
@[simp] theorem subTotal_bulk (g : Nat) : (subTotal s g).bulk = s.bulk := rfl
@[simp] theorem subTotal_bulkWaiting (g : Nat) : (subTotal s g).bulkWaiting = s.bulkWaiting := rfl
@[simp] theorem subTotal_bulkLast (g : Nat) : (subTotal s g).bulkLast = s.bulkLast := rfl
@[simp] theorem subTotal_siteRx (g : Nat) : (subTotal s g).siteRx = s.siteRx := rfl
@[simp] theorem subTotal_siteIn (g : Nat) : (subTotal s g).siteIn = s.siteIn := rfl
@[simp] theorem subTotal_outbound (g : Nat) : (subTotal s g).outbound = s.outbound := rfl
@[simp] theorem subTotal_siteResidue (g : Nat) : (subTotal s g).siteResidue = s.siteResidue := rfl
@[simp] theorem subTotal_siteSent (g : Nat) : (subTotal s g).siteSent = s.siteSent := rfl
@[simp] theorem subTotal_dispatchRx (g : Nat) : (subTotal s g).dispatchRx = s.dispatchRx := rfl
@[simp] theorem subTotal_requests (g : Nat) : (subTotal s g).requests = s.requests := rfl
@[simp] theorem subTotal_answers (g : Nat) : (subTotal s g).answers = s.answers := rfl
@[simp] theorem subTotal_dispatchSent (g : Nat) : (subTotal s g).dispatchSent = s.dispatchSent := rfl
@[simp] theorem subTotal_notices (g : Nat) : (subTotal s g).notices = s.notices := rfl
@[simp] theorem subTotal_noticeOverflow (g : Nat) : (subTotal s g).noticeOverflow = s.noticeOverflow := rfl
@[simp] theorem subTotal_answerLost (g : Nat) : (subTotal s g).answerLost = s.answerLost := rfl
@[simp] theorem subTotal_pending (g : Nat) : (subTotal s g).pending = s.pending := rfl
@[simp] theorem subTotal_choices (g : Nat) : (subTotal s g).choices = s.choices := rfl

/-! ### raiseUnreached -/

@[simp] theorem raiseUnreached_phase (g : Nat) : (raiseUnreached s g).phase = s.phase := rfl
@[simp] theorem raiseUnreached_partTime (g : Nat) : (raiseUnreached s g).partTime = s.partTime := rfl
@[simp] theorem raiseUnreached_tagCounter (g : Nat) : (raiseUnreached s g).tagCounter = s.tagCounter := rfl
@[simp] theorem raiseUnreached_params (g : Nat) : (raiseUnreached s g).params = s.params := rfl
@[simp] theorem raiseUnreached_radios (g : Nat) : (raiseUnreached s g).radios = s.radios := rfl
@[simp] theorem raiseUnreached_sites (g : Nat) : (raiseUnreached s g).sites = s.sites := rfl
@[simp] theorem raiseUnreached_groups (g : Nat) : (raiseUnreached s g).groups = tmod s.groups g fun x => { x with unreached := x.unreached + 1 } := rfl
@[simp] theorem raiseUnreached_calls (g : Nat) : (raiseUnreached s g).calls = s.calls := rfl
@[simp] theorem raiseUnreached_bulk (g : Nat) : (raiseUnreached s g).bulk = s.bulk := rfl
@[simp] theorem raiseUnreached_bulkWaiting (g : Nat) : (raiseUnreached s g).bulkWaiting = s.bulkWaiting := rfl
@[simp] theorem raiseUnreached_bulkLast (g : Nat) : (raiseUnreached s g).bulkLast = s.bulkLast := rfl
@[simp] theorem raiseUnreached_siteRx (g : Nat) : (raiseUnreached s g).siteRx = s.siteRx := rfl
@[simp] theorem raiseUnreached_siteIn (g : Nat) : (raiseUnreached s g).siteIn = s.siteIn := rfl
@[simp] theorem raiseUnreached_outbound (g : Nat) : (raiseUnreached s g).outbound = s.outbound := rfl
@[simp] theorem raiseUnreached_siteResidue (g : Nat) : (raiseUnreached s g).siteResidue = s.siteResidue := rfl
@[simp] theorem raiseUnreached_siteSent (g : Nat) : (raiseUnreached s g).siteSent = s.siteSent := rfl
@[simp] theorem raiseUnreached_dispatchRx (g : Nat) : (raiseUnreached s g).dispatchRx = s.dispatchRx := rfl
@[simp] theorem raiseUnreached_requests (g : Nat) : (raiseUnreached s g).requests = s.requests := rfl
@[simp] theorem raiseUnreached_answers (g : Nat) : (raiseUnreached s g).answers = s.answers := rfl
@[simp] theorem raiseUnreached_dispatchSent (g : Nat) : (raiseUnreached s g).dispatchSent = s.dispatchSent := rfl
@[simp] theorem raiseUnreached_notices (g : Nat) : (raiseUnreached s g).notices = s.notices := rfl
@[simp] theorem raiseUnreached_noticeOverflow (g : Nat) : (raiseUnreached s g).noticeOverflow = s.noticeOverflow := rfl
@[simp] theorem raiseUnreached_answerLost (g : Nat) : (raiseUnreached s g).answerLost = s.answerLost := rfl
@[simp] theorem raiseUnreached_pending (g : Nat) : (raiseUnreached s g).pending = s.pending := rfl
@[simp] theorem raiseUnreached_choices (g : Nat) : (raiseUnreached s g).choices = s.choices := rfl

/-! ### addMember -/

@[simp] theorem addMember_phase (g n : Nat) : (addMember s g n).phase = s.phase := rfl
@[simp] theorem addMember_partTime (g n : Nat) : (addMember s g n).partTime = s.partTime := rfl
@[simp] theorem addMember_tagCounter (g n : Nat) : (addMember s g n).tagCounter = s.tagCounter := rfl
@[simp] theorem addMember_params (g n : Nat) : (addMember s g n).params = s.params := rfl
@[simp] theorem addMember_radios (g n : Nat) : (addMember s g n).radios = s.radios := rfl
@[simp] theorem addMember_sites (g n : Nat) : (addMember s g n).sites = s.sites := rfl
@[simp] theorem addMember_groups (g n : Nat) : (addMember s g n).groups = tmod s.groups g fun x => { x with counts := setCount x.counts n ((tget x.counts n).getD 0 + 1) } := rfl
@[simp] theorem addMember_calls (g n : Nat) : (addMember s g n).calls = s.calls := rfl
@[simp] theorem addMember_bulk (g n : Nat) : (addMember s g n).bulk = s.bulk := rfl
@[simp] theorem addMember_bulkWaiting (g n : Nat) : (addMember s g n).bulkWaiting = s.bulkWaiting := rfl
@[simp] theorem addMember_bulkLast (g n : Nat) : (addMember s g n).bulkLast = s.bulkLast := rfl
@[simp] theorem addMember_siteRx (g n : Nat) : (addMember s g n).siteRx = s.siteRx := rfl
@[simp] theorem addMember_siteIn (g n : Nat) : (addMember s g n).siteIn = s.siteIn := rfl
@[simp] theorem addMember_outbound (g n : Nat) : (addMember s g n).outbound = s.outbound := rfl
@[simp] theorem addMember_siteResidue (g n : Nat) : (addMember s g n).siteResidue = s.siteResidue := rfl
@[simp] theorem addMember_siteSent (g n : Nat) : (addMember s g n).siteSent = s.siteSent := rfl
@[simp] theorem addMember_dispatchRx (g n : Nat) : (addMember s g n).dispatchRx = s.dispatchRx := rfl
@[simp] theorem addMember_requests (g n : Nat) : (addMember s g n).requests = s.requests := rfl
@[simp] theorem addMember_answers (g n : Nat) : (addMember s g n).answers = s.answers := rfl
@[simp] theorem addMember_dispatchSent (g n : Nat) : (addMember s g n).dispatchSent = s.dispatchSent := rfl
@[simp] theorem addMember_notices (g n : Nat) : (addMember s g n).notices = s.notices := rfl
@[simp] theorem addMember_noticeOverflow (g n : Nat) : (addMember s g n).noticeOverflow = s.noticeOverflow := rfl
@[simp] theorem addMember_answerLost (g n : Nat) : (addMember s g n).answerLost = s.answerLost := rfl
@[simp] theorem addMember_pending (g n : Nat) : (addMember s g n).pending = s.pending := rfl
@[simp] theorem addMember_choices (g n : Nat) : (addMember s g n).choices = s.choices := rfl

/-! ### subMember -/

@[simp] theorem subMember_phase (g n : Nat) : (subMember s g n).phase = s.phase := rfl
@[simp] theorem subMember_partTime (g n : Nat) : (subMember s g n).partTime = s.partTime := rfl
@[simp] theorem subMember_tagCounter (g n : Nat) : (subMember s g n).tagCounter = s.tagCounter := rfl
@[simp] theorem subMember_params (g n : Nat) : (subMember s g n).params = s.params := rfl
@[simp] theorem subMember_radios (g n : Nat) : (subMember s g n).radios = s.radios := rfl
@[simp] theorem subMember_sites (g n : Nat) : (subMember s g n).sites = s.sites := rfl
@[simp] theorem subMember_groups (g n : Nat) : (subMember s g n).groups = tmod s.groups g fun x => { x with counts := setCount x.counts n ((tget x.counts n).getD 0 - 1) } := rfl
@[simp] theorem subMember_calls (g n : Nat) : (subMember s g n).calls = s.calls := rfl
@[simp] theorem subMember_bulk (g n : Nat) : (subMember s g n).bulk = s.bulk := rfl
@[simp] theorem subMember_bulkWaiting (g n : Nat) : (subMember s g n).bulkWaiting = s.bulkWaiting := rfl
@[simp] theorem subMember_bulkLast (g n : Nat) : (subMember s g n).bulkLast = s.bulkLast := rfl
@[simp] theorem subMember_siteRx (g n : Nat) : (subMember s g n).siteRx = s.siteRx := rfl
@[simp] theorem subMember_siteIn (g n : Nat) : (subMember s g n).siteIn = s.siteIn := rfl
@[simp] theorem subMember_outbound (g n : Nat) : (subMember s g n).outbound = s.outbound := rfl
@[simp] theorem subMember_siteResidue (g n : Nat) : (subMember s g n).siteResidue = s.siteResidue := rfl
@[simp] theorem subMember_siteSent (g n : Nat) : (subMember s g n).siteSent = s.siteSent := rfl
@[simp] theorem subMember_dispatchRx (g n : Nat) : (subMember s g n).dispatchRx = s.dispatchRx := rfl
@[simp] theorem subMember_requests (g n : Nat) : (subMember s g n).requests = s.requests := rfl
@[simp] theorem subMember_answers (g n : Nat) : (subMember s g n).answers = s.answers := rfl
@[simp] theorem subMember_dispatchSent (g n : Nat) : (subMember s g n).dispatchSent = s.dispatchSent := rfl
@[simp] theorem subMember_notices (g n : Nat) : (subMember s g n).notices = s.notices := rfl
@[simp] theorem subMember_noticeOverflow (g n : Nat) : (subMember s g n).noticeOverflow = s.noticeOverflow := rfl
@[simp] theorem subMember_answerLost (g n : Nat) : (subMember s g n).answerLost = s.answerLost := rfl
@[simp] theorem subMember_pending (g n : Nat) : (subMember s g n).pending = s.pending := rfl
@[simp] theorem subMember_choices (g n : Nat) : (subMember s g n).choices = s.choices := rfl

/-! ### countChoice -/

@[simp] theorem countChoice_phase : (countChoice s).phase = s.phase := rfl
@[simp] theorem countChoice_partTime : (countChoice s).partTime = s.partTime := rfl
@[simp] theorem countChoice_tagCounter : (countChoice s).tagCounter = s.tagCounter := rfl
@[simp] theorem countChoice_params : (countChoice s).params = s.params := rfl
@[simp] theorem countChoice_radios : (countChoice s).radios = s.radios := rfl
@[simp] theorem countChoice_sites : (countChoice s).sites = s.sites := rfl
@[simp] theorem countChoice_groups : (countChoice s).groups = s.groups := rfl
@[simp] theorem countChoice_calls : (countChoice s).calls = s.calls := rfl
@[simp] theorem countChoice_bulk : (countChoice s).bulk = s.bulk := rfl
@[simp] theorem countChoice_bulkWaiting : (countChoice s).bulkWaiting = s.bulkWaiting := rfl
@[simp] theorem countChoice_bulkLast : (countChoice s).bulkLast = s.bulkLast := rfl
@[simp] theorem countChoice_siteRx : (countChoice s).siteRx = s.siteRx := rfl
@[simp] theorem countChoice_siteIn : (countChoice s).siteIn = s.siteIn := rfl
@[simp] theorem countChoice_outbound : (countChoice s).outbound = s.outbound := rfl
@[simp] theorem countChoice_siteResidue : (countChoice s).siteResidue = s.siteResidue := rfl
@[simp] theorem countChoice_siteSent : (countChoice s).siteSent = s.siteSent := rfl
@[simp] theorem countChoice_dispatchRx : (countChoice s).dispatchRx = s.dispatchRx := rfl
@[simp] theorem countChoice_requests : (countChoice s).requests = s.requests := rfl
@[simp] theorem countChoice_answers : (countChoice s).answers = s.answers := rfl
@[simp] theorem countChoice_dispatchSent : (countChoice s).dispatchSent = s.dispatchSent := rfl
@[simp] theorem countChoice_notices : (countChoice s).notices = s.notices := rfl
@[simp] theorem countChoice_noticeOverflow : (countChoice s).noticeOverflow = s.noticeOverflow := rfl
@[simp] theorem countChoice_answerLost : (countChoice s).answerLost = s.answerLost := rfl
@[simp] theorem countChoice_pending : (countChoice s).pending = s.pending := rfl
@[simp] theorem countChoice_choices : (countChoice s).choices = s.choices + 1 := rfl

/-! ### pushAnswer -/

@[simp] theorem pushAnswer_phase (e : RequestEntry) (code : Code) (content : Content) : (pushAnswer s e code content).phase = s.phase := rfl
@[simp] theorem pushAnswer_partTime (e : RequestEntry) (code : Code) (content : Content) : (pushAnswer s e code content).partTime = s.partTime := rfl
@[simp] theorem pushAnswer_tagCounter (e : RequestEntry) (code : Code) (content : Content) : (pushAnswer s e code content).tagCounter = s.tagCounter := rfl
@[simp] theorem pushAnswer_params (e : RequestEntry) (code : Code) (content : Content) : (pushAnswer s e code content).params = s.params := rfl
@[simp] theorem pushAnswer_radios (e : RequestEntry) (code : Code) (content : Content) : (pushAnswer s e code content).radios = s.radios := rfl
@[simp] theorem pushAnswer_sites (e : RequestEntry) (code : Code) (content : Content) : (pushAnswer s e code content).sites = s.sites := rfl
@[simp] theorem pushAnswer_groups (e : RequestEntry) (code : Code) (content : Content) : (pushAnswer s e code content).groups = s.groups := rfl
@[simp] theorem pushAnswer_calls (e : RequestEntry) (code : Code) (content : Content) : (pushAnswer s e code content).calls = s.calls := rfl
@[simp] theorem pushAnswer_bulk (e : RequestEntry) (code : Code) (content : Content) : (pushAnswer s e code content).bulk = s.bulk := rfl
@[simp] theorem pushAnswer_bulkWaiting (e : RequestEntry) (code : Code) (content : Content) : (pushAnswer s e code content).bulkWaiting = s.bulkWaiting := rfl
@[simp] theorem pushAnswer_bulkLast (e : RequestEntry) (code : Code) (content : Content) : (pushAnswer s e code content).bulkLast = s.bulkLast := rfl
@[simp] theorem pushAnswer_siteRx (e : RequestEntry) (code : Code) (content : Content) : (pushAnswer s e code content).siteRx = s.siteRx := rfl
@[simp] theorem pushAnswer_siteIn (e : RequestEntry) (code : Code) (content : Content) : (pushAnswer s e code content).siteIn = s.siteIn := rfl
@[simp] theorem pushAnswer_outbound (e : RequestEntry) (code : Code) (content : Content) : (pushAnswer s e code content).outbound = s.outbound := rfl
@[simp] theorem pushAnswer_siteResidue (e : RequestEntry) (code : Code) (content : Content) : (pushAnswer s e code content).siteResidue = s.siteResidue := rfl
@[simp] theorem pushAnswer_siteSent (e : RequestEntry) (code : Code) (content : Content) : (pushAnswer s e code content).siteSent = s.siteSent := rfl
@[simp] theorem pushAnswer_dispatchRx (e : RequestEntry) (code : Code) (content : Content) : (pushAnswer s e code content).dispatchRx = s.dispatchRx := rfl
@[simp] theorem pushAnswer_requests (e : RequestEntry) (code : Code) (content : Content) : (pushAnswer s e code content).requests = s.requests := rfl
@[simp] theorem pushAnswer_answers (e : RequestEntry) (code : Code) (content : Content) : (pushAnswer s e code content).answers = s.answers ++ [{ number := entryNumber e, kind := e.kind, code := code, content := content }] := rfl
@[simp] theorem pushAnswer_dispatchSent (e : RequestEntry) (code : Code) (content : Content) : (pushAnswer s e code content).dispatchSent = s.dispatchSent := rfl
@[simp] theorem pushAnswer_notices (e : RequestEntry) (code : Code) (content : Content) : (pushAnswer s e code content).notices = s.notices := rfl
@[simp] theorem pushAnswer_noticeOverflow (e : RequestEntry) (code : Code) (content : Content) : (pushAnswer s e code content).noticeOverflow = s.noticeOverflow := rfl
@[simp] theorem pushAnswer_answerLost (e : RequestEntry) (code : Code) (content : Content) : (pushAnswer s e code content).answerLost = s.answerLost := rfl
@[simp] theorem pushAnswer_pending (e : RequestEntry) (code : Code) (content : Content) : (pushAnswer s e code content).pending = s.pending := rfl
@[simp] theorem pushAnswer_choices (e : RequestEntry) (code : Code) (content : Content) : (pushAnswer s e code content).choices = s.choices := rfl

end Sys2Proof.Machine
end

