-- ==== Sys2Proof/Laws/Table.lean ====
section
/-! SUPPORT. Laws of keyed tables: reading after entry and removal, and that every operation keeps the canonical form. -/

namespace Sys2Proof.Machine

variable {α β : Type}

@[simp] theorem tget_nil (k : Nat) : tget ([] : Table α) k = none := rfl

@[simp] theorem tget_tput_self (t : Table α) (k : Nat) (v : α) : tget (tput t k v) k = some v := by
  induction t with
  | nil => simp [tput, tget]
  | cons p r ih =>
    simp only [tput]
    split
    · simp [tget]
    · split
      · simp [tget]
      · rename_i h1 h2; simp [tget, h2, ih]

theorem tget_tput_ne (t : Table α) {k j : Nat} (v : α) (h : j ≠ k) : tget (tput t k v) j = tget t j := by
  induction t with
  | nil => simp [tput, tget, h]
  | cons p r ih =>
    simp only [tput]
    split
    · simp [tget, h]
    · split
      · rename_i _ h2; subst h2; simp [tget, h]
      · simp [tget, ih]

theorem tget_tput (t : Table α) (k j : Nat) (v : α) : tget (tput t k v) j = if j = k then some v else tget t j := by
  split
  · subst_vars; simp
  · exact tget_tput_ne t v ‹_›

theorem tput_tput (t : Table α) (k : Nat) (v w : α) : tput (tput t k v) k w = tput t k w := by
  induction t with
  | nil => simp [tput]
  | cons p r ih =>
    by_cases h1 : k < p.1
    · simp [tput, h1]
    · by_cases h2 : k = p.1
      · subst h2; simp [tput]
      · simp [tput, h1, h2, ih]

theorem tput_same (t : Table α) {k : Nat} {v : α} (hs : Ascending t) (h : tget t k = some v) : tput t k v = t := by
  induction t with
  | nil => simp at h
  | cons p r ih =>
    simp only [tget] at h
    split at h
    · subst_vars; cases h; simp [tput]
    · rename_i hk
      have hr : Ascending r := by
        simp only [Ascending, tkeys, List.map_cons, List.pairwise_cons] at hs ⊢
        exact hs.2
      have hlt : ¬ k < p.1 := by
        intro hlt
        have : ∀ (l : Table α), (∀ a ∈ tkeys l, p.1 < a) → tget l k = none := by
          intro l hl
          induction l with
          | nil => rfl
          | cons q l ihl =>
            simp only [tkeys, List.map_cons, List.mem_cons, forall_eq_or_imp] at hl
            simp only [tget]
            rw [if_neg (by omega)]
            exact ihl hl.2
        simp only [Ascending, tkeys, List.map_cons, List.pairwise_cons] at hs
        rw [this r hs.1] at h
        cases h
      simp [tput, hk, hlt, ih hr h]

theorem tget_tdel_ne (t : Table α) {k j : Nat} (h : j ≠ k) : tget (tdel t k) j = tget t j := by
  induction t with
  | nil => rfl
  | cons p r ih =>
    simp only [tdel]
    split
    · rename_i h2; subst h2; simp [tget, h]
    · simp [tget, ih]

/-- Below every number of a table nothing is listed. -/
theorem tget_none_of_lt (t : Table α) (k : Nat) (h : ∀ a ∈ tkeys t, k < a) : tget t k = none := by
  induction t with
  | nil => rfl
  | cons p r ih =>
    simp only [tkeys, List.map_cons, List.mem_cons, forall_eq_or_imp] at h
    simp only [tget]
    rw [if_neg (by omega)]
    exact ih h.2

theorem ascending_cons (p : Nat × α) (r : Table α) :
    Ascending (p :: r) ↔ (∀ a ∈ tkeys r, p.1 < a) ∧ Ascending r := by
  simp [Ascending, tkeys, List.pairwise_cons]

@[simp] theorem ascending_nil : Ascending ([] : Table α) := by simp [Ascending, tkeys]

theorem tget_tdel_self (t : Table α) (k : Nat) (hs : Ascending t) : tget (tdel t k) k = none := by
  induction t with
  | nil => rfl
  | cons p r ih =>
    rw [ascending_cons] at hs
    simp only [tdel]
    split
    · rename_i h; subst h; exact tget_none_of_lt r _ hs.1
    · rename_i h; simp [tget, h, ih hs.2]

theorem mem_tkeys_tput (t : Table α) (k a : Nat) (v : α) (h : a ∈ tkeys (tput t k v)) : a = k ∨ a ∈ tkeys t := by
  induction t with
  | nil => simpa [tput, tkeys] using h
  | cons p r ih =>
    simp only [tput] at h
    split at h
    · simpa [tkeys] using h
    · split at h
      · rename_i _ h2
        simp only [tkeys, List.map_cons, List.mem_cons] at h ⊢
        rcases h with h | h
        · exact .inl h
        · exact .inr (.inr h)
      · simp only [tkeys, List.map_cons, List.mem_cons] at h ⊢
        rcases h with h | h
        · exact .inr (.inl h)
        · rcases ih h with h | h
          · exact .inl h
          · exact .inr (.inr h)

theorem mem_tkeys_tdel (t : Table α) (k a : Nat) (h : a ∈ tkeys (tdel t k)) : a ∈ tkeys t := by
  induction t with
  | nil => simpa [tdel] using h
  | cons p r ih =>
    simp only [tdel] at h
    split at h
    · simp only [tkeys, List.map_cons, List.mem_cons]; exact .inr h
    · simp only [tkeys, List.map_cons, List.mem_cons] at h ⊢
      rcases h with h | h
      · exact .inl h
      · exact .inr (ih h)

/-- Entry keeps the canonical form. -/
theorem ascending_tput (t : Table α) (k : Nat) (v : α) (hs : Ascending t) : Ascending (tput t k v) := by
  induction t with
  | nil => simp [tput, Ascending, tkeys]
  | cons p r ih =>
    rw [ascending_cons] at hs
    simp only [tput]
    split
    · rename_i hlt
      rw [ascending_cons, ascending_cons]
      refine ⟨?_, hs.1, hs.2⟩
      intro a ha
      simp only [tkeys, List.map_cons, List.mem_cons] at ha
      rcases ha with rfl | ha
      · exact hlt
      · exact Nat.lt_trans hlt (hs.1 a ha)
    · split
      · rename_i h2
        rw [ascending_cons]
        subst h2
        exact hs
      · rw [ascending_cons]
        refine ⟨?_, ih hs.2⟩
        intro a ha
        rcases mem_tkeys_tput r k a v ha with rfl | ha
        · simp only at *; omega
        · exact hs.1 a ha

/-- Removal keeps the canonical form. -/
theorem ascending_tdel (t : Table α) (k : Nat) (hs : Ascending t) : Ascending (tdel t k) := by
  induction t with
  | nil => simp [tdel]
  | cons p r ih =>
    rw [ascending_cons] at hs
    simp only [tdel]
    split
    · exact hs.2
    · rw [ascending_cons]
      exact ⟨fun a ha => hs.1 a (mem_tkeys_tdel r k a ha), ih hs.2⟩

/-- Change of one record keeps the canonical form. -/
theorem ascending_tmod (t : Table α) (k : Nat) (f : α → α) (hs : Ascending t) : Ascending (tmod t k f) := by
  unfold tmod
  split
  · exact ascending_tput t k _ hs
  · exact hs

theorem tget_tmod (t : Table α) (k j : Nat) (f : α → α) :
    tget (tmod t k f) j = if j = k then (tget t j).map f else tget t j := by
  unfold tmod
  split
  · rename_i v h
    rw [tget_tput]
    split
    · subst_vars; simp [h]
    · rfl
  · rename_i h
    split
    · subst_vars; simp [h]
    · rfl

@[simp] theorem tget_tmod_self (t : Table α) (k : Nat) (f : α → α) : tget (tmod t k f) k = (tget t k).map f := by
  simp [tget_tmod]

theorem tget_tmod_ne (t : Table α) {k j : Nat} (f : α → α) (h : j ≠ k) : tget (tmod t k f) j = tget t j := by
  simp [tget_tmod, h]

theorem tmod_of_some (t : Table α) {k : Nat} {v : α} (f : α → α) (h : tget t k = some v) :
    tmod t k f = tput t k (f v) := by simp [tmod, h]

theorem tmod_of_none (t : Table α) {k : Nat} (f : α → α) (h : tget t k = none) : tmod t k f = t := by simp [tmod, h]

theorem tmod_tmod (t : Table α) (k : Nat) (f g : α → α) : tmod (tmod t k f) k g = tmod t k (g ∘ f) := by
  cases h : tget t k with
  | none => simp [tmod, h]
  | some v => simp [tmod, h, tput_tput]

/-- A change of the records' contents alone keeps the canonical form. -/
theorem ascending_map (t : Table α) (f : α → β) (hs : Ascending t) :
    Ascending (t.map fun p => (p.1, f p.2)) := by
  simpa [Ascending, tkeys, List.map_map, Function.comp_def] using hs

theorem tget_map (t : Table α) (f : α → β) (k : Nat) :
    tget (t.map fun p => (p.1, f p.2)) k = (tget t k).map f := by
  induction t with
  | nil => rfl
  | cons p r ih =>
    simp only [List.map_cons, tget]
    split
    · rfl
    · exact ih

theorem mem_of_tget {t : Table α} {k : Nat} {v : α} (h : tget t k = some v) : (k, v) ∈ t := by
  induction t with
  | nil => cases h
  | cons p r ih =>
    simp only [tget] at h
    split at h
    · rename_i hk; cases h; subst hk; simp
    · exact List.mem_cons_of_mem _ (ih h)

theorem tget_of_mem {t : Table α} {k : Nat} {v : α} (hs : Ascending t) (h : (k, v) ∈ t) : tget t k = some v := by
  induction t with
  | nil => cases h
  | cons p r ih =>
    rw [ascending_cons] at hs
    rcases List.mem_cons.1 h with rfl | h
    · simp [tget]
    · have : p.1 < k := hs.1 k (List.mem_map.2 ⟨_, h, rfl⟩)
      simp only [tget]
      rw [if_neg (by omega)]
      exact ih hs.2 h

theorem mem_tput {t : Table α} {k : Nat} {v : α} {p : Nat × α} (h : p ∈ tput t k v) : p = (k, v) ∨ p ∈ t := by
  induction t with
  | nil => simpa [tput] using h
  | cons q r ih =>
    simp only [tput] at h
    split at h
    · simpa using h
    · split at h
      · rcases List.mem_cons.1 h with h | h
        · exact .inl h
        · exact .inr (List.mem_cons_of_mem _ h)
      · rcases List.mem_cons.1 h with h | h
        · exact .inr (by simp [h])
        · rcases ih h with h | h
          · exact .inl h
          · exact .inr (List.mem_cons_of_mem _ h)

theorem mem_tdel {t : Table α} {k : Nat} {p : Nat × α} (h : p ∈ tdel t k) : p ∈ t := by
  induction t with
  | nil => simp [tdel] at h
  | cons q r ih =>
    simp only [tdel] at h
    split at h
    · exact List.mem_cons_of_mem _ h
    · rcases List.mem_cons.1 h with h | h
      · simp [h]
      · exact List.mem_cons_of_mem _ (ih h)

theorem mem_tmod {t : Table α} {k : Nat} {f : α → α} {p : Nat × α} (h : p ∈ tmod t k f) :
    p ∈ t ∨ ∃ v, tget t k = some v ∧ p = (k, f v) := by
  unfold tmod at h
  split at h
  · rename_i v hv
    rcases mem_tput h with h | h
    · exact .inr ⟨v, hv, h⟩
    · exact .inl h
  · exact .inl h

theorem length_tput_of_some {t : Table α} {k : Nat} {v w : α} (hs : Ascending t) (h : tget t k = some w) :
    (tput t k v).length = t.length := by
  induction t with
  | nil => cases h
  | cons p r ih =>
    rw [ascending_cons] at hs
    simp only [tget] at h
    simp only [tput]
    split at h
    · rename_i hk; subst hk; simp
    · rename_i hk
      have hlt : ¬ k < p.1 := fun hlt => by
        rw [tget_none_of_lt r k fun a ha => Nat.lt_trans hlt (hs.1 a ha)] at h; cases h
      simp [hk, hlt, ih hs.2 h]

theorem length_tput_le (t : Table α) (k : Nat) (v : α) : (tput t k v).length ≤ t.length + 1 := by
  induction t with
  | nil => simp [tput]
  | cons p r ih =>
    simp only [tput]
    split
    · simp
    · split
      · simp
      · simpa using ih

theorem length_tdel_le (t : Table α) (k : Nat) : (tdel t k).length ≤ t.length := by
  induction t with
  | nil => simp [tdel]
  | cons p r ih =>
    simp only [tdel]
    split
    · simp
    · simpa using ih

theorem length_tdel_of_some {t : Table α} {k : Nat} {v : α} (h : tget t k = some v) :
    (tdel t k).length + 1 = t.length := by
  induction t with
  | nil => cases h
  | cons p r ih =>
    simp only [tget] at h
    simp only [tdel]
    split at h
    · rename_i hk; subst hk; simp
    · rename_i hk; simp [hk, ih h]

theorem length_tmod {t : Table α} (k : Nat) (f : α → α) (hs : Ascending t) : (tmod t k f).length = t.length := by
  unfold tmod
  split
  · exact length_tput_of_some hs ‹_›
  · rfl

/-- How a count over a table changes when a present record is replaced. -/
theorem countP_tput_of_some {t : Table α} {k : Nat} {v w : α} (p : Nat × α → Bool) (hs : Ascending t)
    (h : tget t k = some w) :
    (tput t k v).countP p + (if p (k, w) then 1 else 0) = t.countP p + (if p (k, v) then 1 else 0) := by
  induction t with
  | nil => cases h
  | cons q r ih =>
    obtain ⟨k', v'⟩ := q
    rw [ascending_cons] at hs
    simp only [tget] at h
    split at h
    · rename_i hk; cases h; subst hk
      simp only [tput, Nat.lt_irrefl, if_false, if_true, List.countP_cons]
      omega
    · rename_i hk
      have hlt : ¬ k < k' := fun hlt => by
        rw [tget_none_of_lt r k fun a ha => Nat.lt_trans hlt (hs.1 a ha)] at h; cases h
      have := ih hs.2 h
      simp only [tput, if_neg hk, if_neg hlt, List.countP_cons]
      omega

/-- How a count over a table changes when an absent record is entered. -/
theorem countP_tput_of_none {t : Table α} {k : Nat} {v : α} (p : Nat × α → Bool) (h : tget t k = none) :
    (tput t k v).countP p = t.countP p + (if p (k, v) then 1 else 0) := by
  induction t with
  | nil => simp [tput, List.countP_cons]
  | cons q r ih =>
    obtain ⟨k', v'⟩ := q
    simp only [tget] at h
    split at h
    · cases h
    · rename_i hk
      simp only [tput, if_neg hk]
      split
      · simp only [List.countP_cons]
      · have := ih h
        simp only [List.countP_cons]
        omega

/-- How a count over a table changes when a record is removed. -/
theorem countP_tdel_of_some {t : Table α} {k : Nat} {w : α} (p : Nat × α → Bool) (h : tget t k = some w) :
    (tdel t k).countP p + (if p (k, w) then 1 else 0) = t.countP p := by
  induction t with
  | nil => cases h
  | cons q r ih =>
    obtain ⟨k', v'⟩ := q
    simp only [tget] at h
    split at h
    · rename_i hk; cases h; subst hk
      simp only [tdel, if_true, List.countP_cons]
    · rename_i hk
      have := ih h
      simp only [tdel, if_neg hk, List.countP_cons]
      omega

theorem tdel_of_none {t : Table α} {k : Nat} (h : tget t k = none) : tdel t k = t := by
  induction t with
  | nil => rfl
  | cons q r ih =>
    simp only [tget] at h
    split at h
    · cases h
    · rename_i hk
      simp [tdel, hk, ih h]

end Sys2Proof.Machine
end

