-- ==== Sys2Proof/Laws/Ops.lean ====
section
/-! SUPPORT. What each shared operation can do, once: the fields it leaves, and its result case by case. -/

namespace Sys2Proof.Machine

/-! ### Folds -/

/-- What every step of a fold keeps, the fold keeps. -/
theorem foldl_keeps {α β : Type} {γ : Type} (proj : α → γ) (f : α → β → α) (h : ∀ s x, proj (f s x) = proj s) (l : List β)
    (s : α) : proj (l.foldl f s) = proj s := by
  induction l generalizing s with
  | nil => rfl
  | cons x r ih => rw [List.foldl_cons, ih, h]

/-- What a relation that is reflexive and transitive says of every step of a fold, it says of the fold. -/
theorem foldl_rel {α β : Type} (R : α → α → Prop) (hr : ∀ s, R s s) (ht : ∀ {a b c}, R a b → R b c → R a c) (f : α → β → α)
    (h : ∀ s x, R s (f s x)) (l : List β) (s : α) : R s (l.foldl f s) := by
  induction l generalizing s with
  | nil => exact hr s
  | cons x r ih => exact ht (h s x) (ih (f s x))

/-! ### Notices -/

theorem raise_of_room {s : State} {b : NoticeBody} (h : s.notices.length < 64) :
    raise s b = { s with notices := s.notices ++ [{ time := s.partTime, body := b }] } := by simp [raise, h]

theorem raise_of_full {s : State} {b : NoticeBody} (h : 64 ≤ s.notices.length) : raise s b = { s with noticeOverflow := true } := by
  simp [raise, Nat.not_lt.2 h]

/-- A raise touches the notice queue and the overflow indication alone. -/
theorem raise_cases (s : State) (b : NoticeBody) :
    raise s b = { s with notices := s.notices ++ [{ time := s.partTime, body := b }] } ∨
    raise s b = { s with noticeOverflow := true } := by
  unfold raise; split
  · exact .inl rfl
  · exact .inr rfl

@[simp] theorem outer_raise (s : State) (b : NoticeBody) : outer (raise s b) = outer s := by
  rcases raise_cases s b with h | h <;> rw [h] <;> rfl
@[simp] theorem engine_raise (s : State) (b : NoticeBody) : engine (raise s b) = engine s := by
  rcases raise_cases s b with h | h <;> rw [h] <;> rfl
@[simp] theorem raise_radios (s : State) (b : NoticeBody) : (raise s b).radios = s.radios := by
  rcases raise_cases s b with h | h <;> rw [h]
@[simp] theorem raise_sites (s : State) (b : NoticeBody) : (raise s b).sites = s.sites := by
  rcases raise_cases s b with h | h <;> rw [h]
@[simp] theorem raise_groups (s : State) (b : NoticeBody) : (raise s b).groups = s.groups := by
  rcases raise_cases s b with h | h <;> rw [h]
@[simp] theorem raise_calls (s : State) (b : NoticeBody) : (raise s b).calls = s.calls := by
  rcases raise_cases s b with h | h <;> rw [h]
@[simp] theorem raise_outbound (s : State) (b : NoticeBody) : (raise s b).outbound = s.outbound := by
  rcases raise_cases s b with h | h <;> rw [h]
@[simp] theorem raise_tagCounter (s : State) (b : NoticeBody) : (raise s b).tagCounter = s.tagCounter := by
  rcases raise_cases s b with h | h <;> rw [h]
@[simp] theorem raise_bulk (s : State) (b : NoticeBody) : (raise s b).bulk = s.bulk := by
  rcases raise_cases s b with h | h <;> rw [h]
@[simp] theorem raise_bulkWaiting (s : State) (b : NoticeBody) : (raise s b).bulkWaiting = s.bulkWaiting := by
  rcases raise_cases s b with h | h <;> rw [h]
@[simp] theorem raise_bulkLast (s : State) (b : NoticeBody) : (raise s b).bulkLast = s.bulkLast := by
  rcases raise_cases s b with h | h <;> rw [h]
@[simp] theorem raise_partTime (s : State) (b : NoticeBody) : (raise s b).partTime = s.partTime := by
  rcases raise_cases s b with h | h <;> rw [h]
@[simp] theorem raise_params (s : State) (b : NoticeBody) : (raise s b).params = s.params := by
  rcases raise_cases s b with h | h <;> rw [h]

/-! ### Sites that work -/

theorem siteWorks_congr {s t : State} {n : Nat} (h : (tget t.sites n).map Site.state = (tget s.sites n).map Site.state) :
    siteWorks t n = siteWorks s n := by
  unfold siteWorks
  cases h1 : tget t.sites n <;> cases h2 : tget s.sites n <;> simp_all

theorem siteWorks_of_sites {s t : State} (h : t.sites = s.sites) (n : Nat) : siteWorks t n = siteWorks s n := by
  simp [siteWorks, h]

theorem siteWorks_tmod (s t : State) (m : Nat) (f : Site → Site) (h : t.sites = tmod s.sites m f)
    (hf : ∀ x, (f x).state = x.state) (n : Nat) : siteWorks t n = siteWorks s n := by
  apply siteWorks_congr
  rw [h, tget_tmod]
  split
  · cases tget s.sites n <;> simp [hf]
  · rfl

/-! ### Directives -/

theorem hasRoom_iff (s : State) (n : Nat) : hasRoom s n = true ↔ s.outbound.length + 2 * movingCount s + n ≤ 512 := by
  unfold hasRoom occupancy handoverReserve Config.maxOutbound; rw [decide_eq_true_eq]

theorem roomForOne_iff (s : State) : roomForOne s ↔ hasRoom s 1 = true := by rw [hasRoom_iff]; rfl

theorem hasOrdinaryRoom_iff (s : State) : hasOrdinaryRoom s = true ↔ s.outbound.length + 1 ≤ 448 ∧ roomForOne s := by
  unfold hasOrdinaryRoom occupancy Config.ordinaryLimit
  rw [Bool.and_eq_true, decide_eq_true_eq, roomForOne_iff]

@[simp] theorem sendHandover_of_works {s : State} {n : Nat} {f : SiteOut} (h : siteWorks s n = true) :
    sendHandover s n f = pushOut s f := by simp [sendHandover, h]
@[simp] theorem sendHandover_of_not {s : State} {n : Nat} {f : SiteOut} (h : siteWorks s n = false) :
    sendHandover s n f = s := by simp [sendHandover, h]

/-- A handover directive is queued for a site that works, and is otherwise not formed. -/
theorem sendHandover_eq (s : State) (n : Nat) (f : SiteOut) :
    sendHandover s n f = { s with outbound := s.outbound ++ if siteWorks s n then [f] else [] } := by
  unfold sendHandover; split <;> simp [pushOut, *]

/-- The sync-lost flag of a site is set; a notice is raised where it was clear. -/
theorem setSyncLost_cases (s : State) (n : Nat) :
    setSyncLost s n = s ∨ setSyncLost s n = raise (modSite s n fun y => { y with syncLost := true }) (.syncLost n) := by
  unfold setSyncLost
  split
  · split
    · exact .inl rfl
    · exact .inr rfl
  · exact .inl rfl

/-- What an ordinary directive can do: nothing at a site that does not work; enter the queue while the ordinary measure has room;
or be dropped with the sync-lost flag, and for an ADOPT the gap marker of a RESYNC of its site. -/
theorem sendOrdinary_cases (s : State) (n : Nat) (f : SiteOut) :
    (siteWorks s n = false ∧ sendOrdinary s n f = s) ∨
    (siteWorks s n = true ∧ hasOrdinaryRoom s = true ∧ sendOrdinary s n f = pushOut s f) ∨
    (siteWorks s n = true ∧ hasOrdinaryRoom s = false ∧
      (sendOrdinary s n f = setSyncLost s n ∧ (isAdopt f && resyncRunning s n) = false ∨
       sendOrdinary s n f = setSyncLost (setGap s) n ∧ (isAdopt f && resyncRunning s n) = true)) := by
  unfold sendOrdinary
  by_cases h1 : siteWorks s n = true
  · by_cases h2 : hasOrdinaryRoom s = true
    · simp [h1, h2]
    · by_cases h3 : (isAdopt f && resyncRunning s n) = true
      · simp [h1, h2, h3]
      · simp [h1, h2, h3]
  · simp [h1]

theorem sendOrdinary_of_room {s : State} {n : Nat} {f : SiteOut} (h1 : siteWorks s n = true) (h2 : hasOrdinaryRoom s = true) :
    sendOrdinary s n f = pushOut s f := by simp [sendOrdinary, h1, h2]

theorem sendOrdinary_of_not {s : State} {n : Nat} {f : SiteOut} (h1 : siteWorks s n = false) : sendOrdinary s n f = s := by
  simp [sendOrdinary, h1]

/-- What directives and lines of this kind leave: everything but the outbound queue, sync-lost flags, notices and the gap. -/
structure SendFrame (s t : State) : Prop where
  outer : outer t = outer s
  radios : t.radios = s.radios
  groups : t.groups = s.groups
  calls : t.calls = s.calls
  tag : t.tagCounter = s.tagCounter
  engine : engineButGap t = engineButGap s
  sites : ∀ j, (tget t.sites j).map (fun x => { x with syncLost := false, overFlag := false }) =
    (tget s.sites j).map fun x => { x with syncLost := false, overFlag := false }
  outbound : ∃ more, t.outbound = s.outbound ++ more

theorem SendFrame.refl (s : State) : SendFrame s s := ⟨rfl, rfl, rfl, rfl, rfl, rfl, fun _ => rfl, ⟨[], by simp⟩⟩

theorem SendFrame.trans {a b c : State} (h1 : SendFrame a b) (h2 : SendFrame b c) : SendFrame a c := by
  refine ⟨h2.outer.trans h1.outer, h2.radios.trans h1.radios, h2.groups.trans h1.groups, h2.calls.trans h1.calls,
    h2.tag.trans h1.tag, h2.engine.trans h1.engine, fun j => (h2.sites j).trans (h1.sites j), ?_⟩
  obtain ⟨m1, e1⟩ := h1.outbound
  obtain ⟨m2, e2⟩ := h2.outbound
  exact ⟨m1 ++ m2, by rw [e2, e1, List.append_assoc]⟩

theorem engineButGap_of_engine {s t : State} (h : engine t = engine s) : engineButGap t = engineButGap s := by
  simp only [engine, Prod.mk.injEq] at h
  simp [engineButGap, h.1, h.2.1, h.2.2]

theorem sendFrame_raise (s : State) (b : NoticeBody) : SendFrame s (raise s b) :=
  ⟨outer_raise s b, by simp, by simp, by simp, by simp, engineButGap_of_engine (engine_raise s b), fun _ => by simp,
    ⟨[], by simp⟩⟩

theorem sendFrame_pushOut (s : State) (f : SiteOut) : SendFrame s (pushOut s f) :=
  ⟨rfl, rfl, rfl, rfl, rfl, rfl, fun _ => rfl, ⟨[f], rfl⟩⟩

theorem sendFrame_setGap (s : State) : SendFrame s (setGap s) := by
  refine ⟨rfl, rfl, rfl, rfl, rfl, ?_, fun _ => rfl, ⟨[], by simp⟩⟩
  simp [engineButGap, setGap, Option.map_map, Function.comp_def]

theorem sendFrame_modSite (s : State) (n : Nat) (f : Site → Site)
    (hf : ∀ x, ({ f x with syncLost := false, overFlag := false } : Site) = { x with syncLost := false, overFlag := false }) :
    SendFrame s (modSite s n f) := by
  refine ⟨rfl, rfl, rfl, rfl, rfl, rfl, fun j => ?_, ⟨[], by simp⟩⟩
  simp only [modSite_sites, tget_tmod]
  split
  · cases tget s.sites j <;> simp [hf]
  · rfl

theorem sendFrame_setSyncLost (s : State) (n : Nat) : SendFrame s (setSyncLost s n) := by
  rcases setSyncLost_cases s n with h | h <;> rw [h]
  · exact .refl s
  · exact (sendFrame_modSite s n (fun y => { y with syncLost := true }) fun _ => rfl).trans (sendFrame_raise _ _)

theorem sendFrame_sendOrdinary (s : State) (n : Nat) (f : SiteOut) : SendFrame s (sendOrdinary s n f) := by
  rcases sendOrdinary_cases s n f with ⟨_, h⟩ | ⟨_, _, h⟩ | ⟨_, _, ⟨h, _⟩ | ⟨h, _⟩⟩ <;> rw [h]
  · exact .refl s
  · exact sendFrame_pushOut s f
  · exact sendFrame_setSyncLost s n
  · exact (sendFrame_setGap s).trans (sendFrame_setSyncLost _ n)

theorem sendFrame_sendHandover (s : State) (n : Nat) (f : SiteOut) : SendFrame s (sendHandover s n f) := by
  unfold sendHandover; split
  · exact sendFrame_pushOut s f
  · exact .refl s

theorem setOver_cases (s : State) (n : Nat) :
    setOver s n = s ∨ ∃ b, setOver s n = raise (modSite s n fun y => { y with overFlag := true }) b := by
  unfold setOver
  split
  · split
    · exact .inl rfl
    · exact .inr ⟨_, rfl⟩
  · exact .inl rfl

theorem sendFrame_setOver (s : State) (n : Nat) : SendFrame s (setOver s n) := by
  rcases setOver_cases s n with h | ⟨b, h⟩ <;> rw [h]
  · exact .refl s
  · exact (sendFrame_modSite s n (fun y => { y with overFlag := true }) fun _ => rfl).trans (sendFrame_raise _ _)

theorem SendFrame.works {s t : State} (h : SendFrame s t) (n : Nat) : siteWorks t n = siteWorks s n := by
  apply siteWorks_congr
  have := h.sites n
  cases h1 : tget t.sites n <;> cases h2 : tget s.sites n <;> simp_all

theorem SendFrame.counts {s t : State} (h : SendFrame s t) (n : Nat) :
    (tget t.sites n).map Site.count = (tget s.sites n).map Site.count := by
  have := h.sites n
  cases h1 : tget t.sites n <;> cases h2 : tget s.sites n <;> simp_all

theorem engine_setSyncLost (s : State) (n : Nat) : engine (setSyncLost s n) = engine s := by
  rcases setSyncLost_cases s n with h | h <;> rw [h]
  rw [engine_raise]; rfl

/-- A directive that is no ADOPT leaves the Bulk Engine alone. -/
theorem engine_sendOrdinary (s : State) (n : Nat) (f : SiteOut) (hf : isAdopt f = false) :
    engine (sendOrdinary s n f) = engine s := by
  rcases sendOrdinary_cases s n f with ⟨_, h⟩ | ⟨_, _, h⟩ | ⟨_, _, ⟨h, _⟩ | ⟨h, h'⟩⟩ <;> rw [h]
  · rfl
  · exact engine_setSyncLost s n
  · simp [hf] at h'

/-! ### Groups -/

/-- A fall of an unreached count, with RECALL-COMPLETE where R124 gives it. -/
theorem lowerUnreached_cases (s : State) (g : Nat) :
    lowerUnreached s g = modGroup s g (fun y => { y with unreached := y.unreached - 1 }) ∨
    lowerUnreached s g = raise (modGroup s g fun y => { y with unreached := y.unreached - 1 }) (.recallComplete g) := by
  unfold lowerUnreached
  cases h : tget s.groups g with
  | none => left; simp [modGroup, tmod_of_none _ _ h]
  | some x =>
    simp only []
    split
    · exact .inr rfl
    · exact .inl rfl

/-- What operations on group records leave: all but the Group Table and the notices. -/
structure GroupFrame (s t : State) : Prop where
  outer : outer t = outer s
  radios : t.radios = s.radios
  sites : t.sites = s.sites
  calls : t.calls = s.calls
  outbound : t.outbound = s.outbound
  tag : t.tagCounter = s.tagCounter
  engine : engine t = engine s
  active : ∀ g, (tget t.groups g).map Group.activeCall = (tget s.groups g).map Group.activeCall
  recalls : ∀ g, (tget t.groups g).map Group.recallState = (tget s.groups g).map Group.recallState
  defs : ∀ g, (tget t.groups g).map (fun x => (x.priority, x.fixed)) = (tget s.groups g).map fun x => (x.priority, x.fixed)

theorem GroupFrame.refl (s : State) : GroupFrame s s := ⟨rfl, rfl, rfl, rfl, rfl, rfl, rfl, fun _ => rfl, fun _ => rfl, fun _ => rfl⟩

theorem GroupFrame.trans {a b c : State} (h1 : GroupFrame a b) (h2 : GroupFrame b c) : GroupFrame a c :=
  ⟨h2.outer.trans h1.outer, h2.radios.trans h1.radios, h2.sites.trans h1.sites, h2.calls.trans h1.calls,
    h2.outbound.trans h1.outbound, h2.tag.trans h1.tag, h2.engine.trans h1.engine, fun g => (h2.active g).trans (h1.active g),
    fun g => (h2.recalls g).trans (h1.recalls g), fun g => (h2.defs g).trans (h1.defs g)⟩

theorem groupFrame_modGroup (s : State) (g : Nat) (f : Group → Group) (hf : ∀ x, (f x).activeCall = x.activeCall)
    (hr : ∀ x, (f x).recallState = x.recallState) (hd : ∀ x, (f x).priority = x.priority ∧ (f x).fixed = x.fixed) :
    GroupFrame s (modGroup s g f) := by
  refine ⟨rfl, rfl, rfl, rfl, rfl, rfl, rfl, fun j => ?_, fun j => ?_, fun j => ?_⟩ <;> simp only [modGroup_groups, tget_tmod]
  all_goals
    split
    · cases tget s.groups j <;> simp [hf, hr, hd]
    · rfl

theorem groupFrame_raise (s : State) (b : NoticeBody) : GroupFrame s (raise s b) :=
  ⟨by simp, by simp, by simp, by simp, by simp, by simp, by simp, fun _ => by simp, fun _ => by simp, fun _ => by simp⟩

theorem groupFrame_addMember (s : State) (g n : Nat) : GroupFrame s (addMember s g n) :=
  groupFrame_modGroup s g _ (fun _ => rfl) (fun _ => rfl) fun _ => ⟨rfl, rfl⟩
theorem groupFrame_subMember (s : State) (g n : Nat) : GroupFrame s (subMember s g n) :=
  groupFrame_modGroup s g _ (fun _ => rfl) (fun _ => rfl) fun _ => ⟨rfl, rfl⟩
theorem groupFrame_addTotal (s : State) (g : Nat) : GroupFrame s (addTotal s g) :=
  groupFrame_modGroup s g _ (fun _ => rfl) (fun _ => rfl) fun _ => ⟨rfl, rfl⟩
theorem groupFrame_subTotal (s : State) (g : Nat) : GroupFrame s (subTotal s g) :=
  groupFrame_modGroup s g _ (fun _ => rfl) (fun _ => rfl) fun _ => ⟨rfl, rfl⟩
theorem groupFrame_raiseUnreached (s : State) (g : Nat) : GroupFrame s (raiseUnreached s g) :=
  groupFrame_modGroup s g _ (fun _ => rfl) (fun _ => rfl) fun _ => ⟨rfl, rfl⟩
theorem groupFrame_lowerUnreached (s : State) (g : Nat) : GroupFrame s (lowerUnreached s g) := by
  have h0 := groupFrame_modGroup s g (fun y => { y with unreached := y.unreached - 1 }) (fun _ => rfl) (fun _ => rfl)
    fun _ => ⟨rfl, rfl⟩
  rcases lowerUnreached_cases s g with h | h <;> rw [h]
  · exact h0
  · exact h0.trans (groupFrame_raise _ _)

theorem groupFrame_foldl {β : Type} (f : State → β → State) (h : ∀ s x, GroupFrame s (f s x)) (l : List β) (s : State) :
    GroupFrame s (l.foldl f s) := foldl_rel GroupFrame .refl .trans f h l s

theorem groupFrame_addMembers (s : State) (gs : List Nat) (n : Nat) : GroupFrame s (addMembers s gs n) :=
  groupFrame_foldl _ (fun s g => groupFrame_addMember s g n) gs s
theorem groupFrame_subMembers (s : State) (gs : List Nat) (n : Nat) : GroupFrame s (subMembers s gs n) :=
  groupFrame_foldl _ (fun s g => groupFrame_subMember s g n) gs s
theorem groupFrame_addTotals (s : State) (gs : List Nat) : GroupFrame s (addTotals s gs) :=
  groupFrame_foldl _ groupFrame_addTotal gs s
theorem groupFrame_subTotals (s : State) (gs : List Nat) : GroupFrame s (subTotals s gs) :=
  groupFrame_foldl _ groupFrame_subTotal gs s

@[simp] theorem addMembers_notices (s : State) (gs : List Nat) (n : Nat) : (addMembers s gs n).notices = s.notices :=
  foldl_keeps State.notices (fun s g => addMember s g n) (fun _ _ => rfl) gs s
@[simp] theorem subMembers_notices (s : State) (gs : List Nat) (n : Nat) : (subMembers s gs n).notices = s.notices :=
  foldl_keeps State.notices (fun s g => subMember s g n) (fun _ _ => rfl) gs s
@[simp] theorem addTotals_notices (s : State) (gs : List Nat) : (addTotals s gs).notices = s.notices :=
  foldl_keeps State.notices addTotal (fun _ _ => rfl) gs s
@[simp] theorem subTotals_notices (s : State) (gs : List Nat) : (subTotals s gs).notices = s.notices :=
  foldl_keeps State.notices subTotal (fun _ _ => rfl) gs s
@[simp] theorem addMembers_overflow (s : State) (gs : List Nat) (n : Nat) : (addMembers s gs n).noticeOverflow = s.noticeOverflow :=
  foldl_keeps State.noticeOverflow (fun s g => addMember s g n) (fun _ _ => rfl) gs s
@[simp] theorem subMembers_overflow (s : State) (gs : List Nat) (n : Nat) : (subMembers s gs n).noticeOverflow = s.noticeOverflow :=
  foldl_keeps State.noticeOverflow (fun s g => subMember s g n) (fun _ _ => rfl) gs s
@[simp] theorem addTotals_overflow (s : State) (gs : List Nat) : (addTotals s gs).noticeOverflow = s.noticeOverflow :=
  foldl_keeps State.noticeOverflow addTotal (fun _ _ => rfl) gs s
@[simp] theorem subTotals_overflow (s : State) (gs : List Nat) : (subTotals s gs).noticeOverflow = s.noticeOverflow :=
  foldl_keeps State.noticeOverflow subTotal (fun _ _ => rfl) gs s

/-! ### Flags and freeing -/

/-- Clearing a record's flags: the record's list with every flag clear, and each flagged group's unreached count lowered. -/
theorem clearFlags_of_some {s : State} {u : Nat} {r : Radio} (h : tget s.radios u = some r) :
    clearFlags s u = (groupNumbers (r.groups.filter Membership.pending)).foldl lowerUnreached
      { s with radios := tput s.radios u { r with groups := r.groups.map fun m => { m with pending := false } } } := by
  simp [clearFlags, h, modRadio, tmod_of_some _ _ h]

theorem clearFlags_of_none {s : State} {u : Nat} (h : tget s.radios u = none) : clearFlags s u = s := by simp [clearFlags, h]

/-- What the clearing of a record's flags leaves. -/
theorem clearFlags_frame (s : State) (u : Nat) : ∃ s', GroupFrame s' (clearFlags s u) ∧
    s' = modRadio s u fun r => { r with groups := r.groups.map fun m => { m with pending := false } } := by
  refine ⟨_, ?_, rfl⟩
  cases h : tget s.radios u with
  | none => rw [clearFlags_of_none h]; simp only [modRadio, tmod_of_none _ _ h]; exact .refl s
  | some r =>
    rw [clearFlags_of_some h]
    simp only [modRadio, tmod_of_some _ _ h]
    exact groupFrame_foldl _ groupFrame_lowerUnreached _ _

@[simp] theorem clearFlags_radios (s : State) (u : Nat) : (clearFlags s u).radios =
    tmod s.radios u fun r => { r with groups := r.groups.map fun m => { m with pending := false } } := by
  obtain ⟨s', h, e⟩ := clearFlags_frame s u
  rw [h.radios, e]; rfl
@[simp] theorem clearFlags_sites (s : State) (u : Nat) : (clearFlags s u).sites = s.sites := by
  obtain ⟨s', h, e⟩ := clearFlags_frame s u
  rw [h.sites, e]; rfl
@[simp] theorem clearFlags_calls (s : State) (u : Nat) : (clearFlags s u).calls = s.calls := by
  obtain ⟨s', h, e⟩ := clearFlags_frame s u
  rw [h.calls, e]; rfl
@[simp] theorem clearFlags_outbound (s : State) (u : Nat) : (clearFlags s u).outbound = s.outbound := by
  obtain ⟨s', h, e⟩ := clearFlags_frame s u
  rw [h.outbound, e]; rfl
@[simp] theorem clearFlags_tagCounter (s : State) (u : Nat) : (clearFlags s u).tagCounter = s.tagCounter := by
  obtain ⟨s', h, e⟩ := clearFlags_frame s u
  rw [h.tag, e]; rfl
@[simp] theorem engine_clearFlags (s : State) (u : Nat) : engine (clearFlags s u) = engine s := by
  obtain ⟨s', h, e⟩ := clearFlags_frame s u
  rw [h.engine, e]; rfl
@[simp] theorem outer_clearFlags (s : State) (u : Nat) : outer (clearFlags s u) = outer s := by
  obtain ⟨s', h, e⟩ := clearFlags_frame s u
  rw [h.outer, e]; rfl

/-- A record without flags has nothing to clear. -/
theorem clearFlags_of_clear {s : State} {u : Nat} {r : Radio} (h : tget s.radios u = some r)
    (hg : ∀ m ∈ r.groups, m.pending = false) : clearFlags s u = { s with radios := tput s.radios u r } := by
  have h1 : r.groups.filter Membership.pending = [] := by
    rw [List.filter_eq_nil_iff]; intro m hm; simp [hg m hm]
  have h2 : (r.groups.map fun m => ({ m with pending := false } : Membership)) = r.groups := by
    conv_rhs => rw [← List.map_id r.groups]
    apply List.map_congr_left
    intro m hm
    have := hg m hm
    cases m; simp_all
  rw [clearFlags_of_some h, h1, h2]; rfl

theorem tdel_tput {α : Type} (t : Table α) (k : Nat) (v : α) (hs : Ascending t) : tdel (tput t k v) k = tdel t k := by
  induction t with
  | nil => simp [tput, tdel]
  | cons p r ih =>
    obtain ⟨k', v'⟩ := p
    rw [ascending_cons] at hs
    simp only [tput]
    split
    · rename_i h
      have hn : tget r k = none := tget_none_of_lt r k fun a ha => Nat.lt_trans h (hs.1 a ha)
      simp [tdel, Nat.ne_of_lt h, tdel_of_none hn]
    · split
      · rename_i h; subst h; simp [tdel]
      · rename_i h; simp [tdel, h, ih hs.2]

/-- A record without flags is freed by leaving the Directory. -/
theorem freeRecord_of_clear {s : State} {u : Nat} {r : Radio} (hs : Ascending s.radios) (h : tget s.radios u = some r)
    (hg : ∀ m ∈ r.groups, m.pending = false) : freeRecord s u = { s with radios := tdel s.radios u } := by
  simp [freeRecord, clearFlags_of_clear h hg, delRadio, tdel_tput _ _ _ hs]

@[simp] theorem outer_freeRecord (s : State) (u : Nat) : outer (freeRecord s u) = outer s := by
  rw [freeRecord]; exact outer_clearFlags s u

end Sys2Proof.Machine
end

