-- ==== Sys2Proof/Laws/Calls.lean ====
section
/-! SUPPORT. What the operations of the Channel Arbiter and the Call Table leave, and what hand-on, arbitration and the end of a call
do to the calls. -/

namespace Sys2Proof.Machine

/-- A site but for its channel queue. -/
def noQueue (x : Site) : Site := { x with queue := [] }

/-- What arbitration leaves: all but the calls, the channel queues, the notices and the tail of the outbound queue. -/
structure CallFrame (s t : State) : Prop where
  outer : outer t = outer s
  radios : t.radios = s.radios
  groups : t.groups = s.groups
  tag : t.tagCounter = s.tagCounter
  engine : engine t = engine s
  sites : ∀ j, (tget t.sites j).map noQueue = (tget s.sites j).map noQueue
  outbound : ∃ more, t.outbound = s.outbound ++ more
  calls : ∀ k, (tget t.calls k).map (fun x => { x with map := [] }) = (tget s.calls k).map fun x => { x with map := [] }

theorem CallFrame.refl (s : State) : CallFrame s s := ⟨rfl, rfl, rfl, rfl, rfl, fun _ => rfl, ⟨[], by simp⟩, fun _ => rfl⟩

theorem CallFrame.trans {a b c : State} (h1 : CallFrame a b) (h2 : CallFrame b c) : CallFrame a c := by
  obtain ⟨m1, e1⟩ := h1.outbound
  obtain ⟨m2, e2⟩ := h2.outbound
  exact ⟨h2.outer.trans h1.outer, h2.radios.trans h1.radios, h2.groups.trans h1.groups, h2.tag.trans h1.tag,
    h2.engine.trans h1.engine, fun j => (h2.sites j).trans (h1.sites j), ⟨m1 ++ m2, by rw [e2, e1, List.append_assoc]⟩,
    fun k => (h2.calls k).trans (h1.calls k)⟩

theorem CallFrame.works {s t : State} (h : CallFrame s t) (n : Nat) : siteWorks t n = siteWorks s n := by
  apply siteWorks_congr
  have := h.sites n
  cases h1 : tget t.sites n <;> cases h2 : tget s.sites n <;> simp_all [noQueue]

theorem CallFrame.counts {s t : State} (h : CallFrame s t) (n : Nat) :
    (tget t.sites n).map Site.count = (tget s.sites n).map Site.count := by
  have := h.sites n
  cases h1 : tget t.sites n <;> cases h2 : tget s.sites n <;> simp_all [noQueue]

theorem callFrame_raise (s : State) (b : NoticeBody) : CallFrame s (raise s b) :=
  ⟨by simp, by simp, by simp, by simp, by simp, fun _ => by simp, ⟨[], by simp⟩, fun _ => by simp⟩

theorem callFrame_pushOut (s : State) (f : SiteOut) : CallFrame s (pushOut s f) :=
  ⟨rfl, rfl, rfl, rfl, rfl, fun _ => rfl, ⟨[f], rfl⟩, fun _ => rfl⟩

theorem callFrame_modSite (s : State) (n : Nat) (f : Site → Site) (hf : ∀ x, noQueue (f x) = noQueue x) :
    CallFrame s (modSite s n f) := by
  refine ⟨rfl, rfl, rfl, rfl, rfl, fun j => ?_, ⟨[], by simp⟩, fun _ => rfl⟩
  simp only [modSite_sites, tget_tmod]
  split
  · cases tget s.sites j <;> simp [hf]
  · rfl

theorem callFrame_modMap (s : State) (c : Nat) (f : Table CallStatus → Table CallStatus) :
    CallFrame s (modCall s c fun x => { x with map := f x.map }) := by
  refine ⟨rfl, rfl, rfl, rfl, rfl, fun j => rfl, ⟨[], by simp⟩, fun k => ?_⟩
  simp only [modCall_calls, tget_tmod]
  split
  · cases tget s.calls k <;> simp
  · rfl

theorem callFrame_setStatus (s : State) (c n : Nat) (st : CallStatus) : CallFrame s (setStatus s c n st) :=
  callFrame_modMap s c fun m => tput m n st
theorem callFrame_clearStatus (s : State) (c n : Nat) : CallFrame s (clearStatus s c n) := callFrame_modMap s c fun m => tdel m n
theorem callFrame_leaveQueue (s : State) (n c : Nat) : CallFrame s (leaveQueue s n c) :=
  callFrame_modSite s n (fun x => { x with queue := x.queue.erase c }) fun _ => rfl
theorem callFrame_joinQueue (s : State) (n c : Nat) : CallFrame s (joinQueue s n c) :=
  callFrame_modSite s n (fun x => { x with queue := x.queue ++ [c] }) fun _ => rfl

theorem callFrame_grantChannel (s : State) (c n ch : Nat) : CallFrame s (grantChannel s c n ch) :=
  (callFrame_setStatus s c n _).trans (callFrame_pushOut _ _)

theorem callFrame_queueCall (s : State) (c n : Nat) : CallFrame s (queueCall s c n) := by
  unfold queueCall
  simp only []
  split
  · exact (callFrame_joinQueue s n c).trans (callFrame_setStatus _ _ _ _)
  · split
    · split
      · exact (callFrame_leaveQueue s n _).trans ((callFrame_setStatus _ _ _ _).trans
          ((callFrame_joinQueue _ n c).trans (callFrame_setStatus _ _ _ _)))
      · exact callFrame_setStatus _ _ _ _
    · exact callFrame_setStatus _ _ _ _

theorem callFrame_preempt (s : State) (c n : Nat) : CallFrame s (preempt s c n) := by
  unfold preempt
  split
  · split
    · exact (callFrame_setStatus s _ _ _).trans ((callFrame_pushOut _ _).trans
        ((callFrame_grantChannel _ _ _ _).trans (callFrame_raise _ _)))
    · exact callFrame_setStatus _ _ _ _
  · exact callFrame_queueCall s c n

theorem callFrame_arbitrate (s : State) (c n : Nat) : CallFrame s (arbitrate s c n) := by
  unfold arbitrate
  split
  · split
    · exact callFrame_grantChannel _ _ _ _
    · exact callFrame_setStatus _ _ _ _
  · split
    · exact callFrame_preempt s c n
    · exact callFrame_queueCall s c n

theorem callFrame_lateEntry (s : State) (c n : Nat) : CallFrame s (lateEntry s c n) := by
  unfold lateEntry; split
  · exact callFrame_arbitrate s c n
  · exact .refl s

theorem callFrame_passToCalls (s : State) (p : Nat × Nat) : CallFrame s (passToCalls s p) := by
  unfold passToCalls; split
  · split
    · exact callFrame_lateEntry _ _ _
    · exact .refl s
  · exact .refl s

theorem callFrame_foldl {β : Type} (f : State → β → State) (h : ∀ s x, CallFrame s (f s x)) (l : List β) (s : State) :
    CallFrame s (l.foldl f s) := foldl_rel CallFrame .refl .trans f h l s

theorem callFrame_passAll (s : State) (ps : List (Nat × Nat)) : CallFrame s (passAll s ps) :=
  callFrame_foldl _ callFrame_passToCalls ps s

theorem callFrame_handOnTo (s : State) (n ch : Nat) (l : List Nat) : CallFrame s (handOnTo s n ch l) := by
  induction l generalizing s with
  | nil => exact .refl s
  | cons c r ih =>
    simp only [handOnTo]
    split
    · exact (callFrame_leaveQueue s n c).trans (callFrame_grantChannel _ _ _ _)
    · exact (callFrame_leaveQueue s n c).trans ((callFrame_setStatus _ _ _ _).trans (ih _))

theorem callFrame_handOn (s : State) (n ch : Nat) : CallFrame s (handOn s n ch) := callFrame_handOnTo _ _ _ _

theorem callFrame_dropQueued (c : Nat) (s : State) (p : Nat × CallStatus) : CallFrame s (dropQueued c s p) := by
  unfold dropQueued; split
  · exact (callFrame_leaveQueue s _ _).trans (callFrame_clearStatus _ _ _)
  · exact .refl s

theorem callFrame_dropGranted (c : Nat) (s : State) (p : Nat × CallStatus) : CallFrame s (dropGranted c s p) := by
  unfold dropGranted
  split
  · simp only []
    split
    · exact (callFrame_pushOut s _).trans ((callFrame_clearStatus _ _ _).trans (callFrame_handOn _ _ _))
    · exact (callFrame_clearStatus _ _ _).trans (callFrame_handOn _ _ _)
  · exact .refl s

/-! ### Notices: arbitration raises CALL-PREEMPTED alone, and the end of a call raises nothing -/

theorem handOnTo_notices (s : State) (n ch : Nat) (l : List Nat) : (handOnTo s n ch l).notices = s.notices := by
  induction l generalizing s with
  | nil => rfl
  | cons c r ih =>
    simp only [handOnTo]
    split
    · rfl
    · rw [ih]; rfl

theorem dropQueued_notices (c : Nat) (s : State) (p : Nat × CallStatus) : (dropQueued c s p).notices = s.notices := by
  unfold dropQueued; split <;> rfl

theorem dropGranted_notices (c : Nat) (s : State) (p : Nat × CallStatus) : (dropGranted c s p).notices = s.notices := by
  unfold dropGranted
  split
  · simp only []
    split <;> simp [handOn, handOnTo_notices]
  · rfl

/-- The end of a call: between dropping its places and channels and the removal of its record lie frames of CallFrame. -/
theorem endCall_of_some {s : State} {c : Nat} {x : Call} (h : tget s.calls c = some x) :
    ∃ t, CallFrame s t ∧ t.notices = s.notices ∧
      endCall s c = { t with
        groups := tmod t.groups x.group fun g => { g with activeCall := none }, calls := tdel t.calls c } := by
  refine ⟨x.map.foldl (dropGranted c) (x.map.foldl (dropQueued c) s), ?_, ?_, ?_⟩
  · exact (callFrame_foldl _ (callFrame_dropQueued c) _ s).trans (callFrame_foldl _ (callFrame_dropGranted c) _ _)
  · rw [foldl_keeps State.notices _ (dropGranted_notices c), foldl_keeps State.notices _ (dropQueued_notices c)]
  · simp [endCall, h, modGroup]

/-- Every operation that touches the calls keeps the Call Table's canonical form. -/
theorem ascending_setStatus {s : State} (c n : Nat) (st : CallStatus) (h : Ascending s.calls) :
    Ascending (setStatus s c n st).calls := ascending_tmod _ _ _ h

theorem handOnTo_ascending (s : State) (n ch : Nat) (l : List Nat) (h : Ascending s.calls) :
    Ascending (handOnTo s n ch l).calls := by
  induction l generalizing s with
  | nil => exact h
  | cons c r ih =>
    simp only [handOnTo]
    split
    · exact ascending_tmod _ _ _ h
    · exact ih _ (ascending_tmod _ _ _ h)

theorem dropQueued_ascending (c : Nat) (s : State) (p : Nat × CallStatus) (h : Ascending s.calls) :
    Ascending (dropQueued c s p).calls := by
  unfold dropQueued; split
  · exact ascending_tmod _ _ _ h
  · exact h

theorem dropGranted_ascending (c : Nat) (s : State) (p : Nat × CallStatus) (h : Ascending s.calls) :
    Ascending (dropGranted c s p).calls := by
  unfold dropGranted
  split
  · simp only []
    split <;> exact handOnTo_ascending _ _ _ _ (ascending_tmod _ _ _ h)
  · exact h

theorem foldl_inv {α β : Type} (P : α → Prop) (f : α → β → α) (h : ∀ s x, P s → P (f s x)) (l : List β) (s : α) (h0 : P s) :
    P (l.foldl f s) := by
  induction l generalizing s with
  | nil => exact h0
  | cons x r ih => exact ih _ (h s x h0)

/-- A call that ends is gone from an ascending table. -/
theorem endCall_removes {s : State} {c : Nat} {x : Call} (h : tget s.calls c = some x) (hs : Ascending s.calls) :
    tget (endCall s c).calls c = none := by
  have : Ascending (x.map.foldl (dropGranted c) (x.map.foldl (dropQueued c) s)).calls :=
    foldl_inv (fun s => Ascending s.calls) _ (fun s p => dropGranted_ascending c s p) _ _
      (foldl_inv (fun s => Ascending s.calls) _ (fun s p => dropQueued_ascending c s p) _ _ hs)
  simp only [endCall, h]
  exact tget_tdel_self _ _ this

end Sys2Proof.Machine
end

