-- ==== Sys2Proof/Laws/Records.lean ====
section
/-! SUPPORT. What the transitions of radio records leave and change: removal and addition of counts, the group-list change, the
handover's start, commit and ends, adoption, and retirement. -/

namespace Sys2Proof.Machine

/-! ### Counts removed at a site (R5) -/

/-- The fall of a site's registration count, with the over flag's rule. -/
def fallen (x : Site) : Site := clearOver { x with count := x.count - 1 }

@[simp] theorem fallen_state (x : Site) : (fallen x).state = x.state := by unfold fallen clearOver; split <;> rfl
@[simp] theorem fallen_count (x : Site) : (fallen x).count = x.count - 1 := by unfold fallen clearOver; split <;> rfl
@[simp] theorem fallen_queue (x : Site) : (fallen x).queue = x.queue := by unfold fallen clearOver; split <;> rfl

theorem removeCounts_group (s : State) (gs : List Nat) (n : Nat) : GroupFrame (subReg s n) (removeCounts s gs n) :=
  groupFrame_subMembers _ _ _

@[simp] theorem removeCounts_sites (s : State) (gs : List Nat) (n : Nat) : (removeCounts s gs n).sites = tmod s.sites n fallen :=
  (removeCounts_group s gs n).sites
@[simp] theorem removeCounts_radios (s : State) (gs : List Nat) (n : Nat) : (removeCounts s gs n).radios = s.radios :=
  (removeCounts_group s gs n).radios
@[simp] theorem removeCounts_calls (s : State) (gs : List Nat) (n : Nat) : (removeCounts s gs n).calls = s.calls :=
  (removeCounts_group s gs n).calls
@[simp] theorem removeCounts_outbound (s : State) (gs : List Nat) (n : Nat) : (removeCounts s gs n).outbound = s.outbound :=
  (removeCounts_group s gs n).outbound
@[simp] theorem removeCounts_tagCounter (s : State) (gs : List Nat) (n : Nat) : (removeCounts s gs n).tagCounter = s.tagCounter :=
  (removeCounts_group s gs n).tag
@[simp] theorem removeCounts_notices (s : State) (gs : List Nat) (n : Nat) : (removeCounts s gs n).notices = s.notices := by
  simp [removeCounts]
@[simp] theorem removeCounts_noticeOverflow (s : State) (gs : List Nat) (n : Nat) :
    (removeCounts s gs n).noticeOverflow = s.noticeOverflow := by simp [removeCounts]
@[simp] theorem outer_removeCounts (s : State) (gs : List Nat) (n : Nat) : outer (removeCounts s gs n) = outer s :=
  (removeCounts_group s gs n).outer
@[simp] theorem engine_removeCounts (s : State) (gs : List Nat) (n : Nat) : engine (removeCounts s gs n) = engine s :=
  (removeCounts_group s gs n).engine
@[simp] theorem removeCounts_partTime (s : State) (gs : List Nat) (n : Nat) : (removeCounts s gs n).partTime = s.partTime :=
  congrArg Outer.partTime (outer_removeCounts s gs n)
@[simp] theorem removeCounts_params (s : State) (gs : List Nat) (n : Nat) : (removeCounts s gs n).params = s.params :=
  congrArg Outer.params (outer_removeCounts s gs n)
@[simp] theorem removeCounts_works (s : State) (gs : List Nat) (n j : Nat) : siteWorks (removeCounts s gs n) j = siteWorks s j :=
  siteWorks_tmod s _ n fallen (removeCounts_sites s gs n) fallen_state j

theorem count_fallen (t : Table Site) (n j : Nat) :
    (tget (tmod t n fallen) j).map Site.count = (tget t j).map fun x => if j = n then x.count - 1 else x.count := by
  rw [tget_tmod]; split <;> cases tget t j <;> simp

theorem groupsOf_of_some {s : State} {u : Nat} {r : Radio} (h : tget s.radios u = some r) : groupsOf s u = groupNumbers r.groups := by
  simp [groupsOf, h]

/-! ### The ends of a handover -/

theorem sendHandover_sites (s : State) (n : Nat) (f : SiteOut) : (sendHandover s n f).sites = s.sites := by
  rw [sendHandover_eq]

@[simp] theorem sendHandover_works (s : State) (n : Nat) (f : SiteOut) (j : Nat) :
    siteWorks (sendHandover s n f) j = siteWorks s j := siteWorks_of_sites (sendHandover_sites s n f) j

/-- Two closing directives: each to a site that works. -/
theorem closing_eq (s : State) (p a : Nat) (f g : SiteOut) :
    sendHandover (sendHandover s p f) a g =
      { s with outbound := s.outbound ++ (if siteWorks s p then [f] else []) ++ if siteWorks s a then [g] else [] } := by
  rw [sendHandover_eq, sendHandover_works, sendHandover_eq]

/-- What the end of a handover leaves, for a change of the record that follows its two directives and the fall of the count at n. -/
theorem handoverEnd_facts (s : State) (u a p n : Nat) (f g : SiteOut) (gs : List Nat) (chg : Radio → Radio) {r : Radio}
    (hr : tget s.radios u = some r) :
    let t := modRadio (removeCounts (sendHandover (sendHandover s p f) a g) gs n) u chg
    tget t.radios u = some (chg r) ∧ (∀ v, v ≠ u → tget t.radios v = tget s.radios v) ∧
      t.outbound = s.outbound ++ (if siteWorks s p then [f] else []) ++ (if siteWorks s a then [g] else []) ∧
      (∀ j, (tget t.sites j).map Site.count = (tget s.sites j).map fun x => if j = n then x.count - 1 else x.count) ∧
      t.calls = s.calls ∧ t.notices = s.notices ∧ t.tagCounter = s.tagCounter ∧ engine t = engine s ∧ outer t = outer s := by
  intro t
  have ht : t = modRadio (removeCounts (sendHandover (sendHandover s p f) a g) gs n) u chg := rfl
  rw [closing_eq] at ht
  refine ⟨?_, ?_, ?_, ?_, ?_, ?_, ?_, ?_, ?_⟩
  · rw [ht]; simp [hr]
  · intro v hv; rw [ht]; simp [tget_tmod_ne _ _ hv]
  · rw [ht]; simp
  · intro j; rw [ht]; simp only [modRadio_sites, removeCounts_sites]; exact count_fallen _ _ _
  · rw [ht]; simp
  · rw [ht]; simp
  · rw [ht]; simp
  · rw [ht]; exact engine_removeCounts _ _ _
  · rw [ht]; exact outer_removeCounts _ _ _

theorem unwind_state (s : State) (a p : Nat) (f g : SiteOut) (gs : List Nat) (lease : Nat) :
    let s2 := removeCounts (sendHandover (sendHandover s p f) a g) gs p
    (if siteWorks s2 a then RecordState.registered a lease
      else .presumed a .siteDark (s2.partTime + tenths s2.params.presumeHold)) =
    (if siteWorks s a then RecordState.registered a lease else .presumed a .siteDark (s.partTime + s.params.presumeHold * 10)) := by
  simp only [removeCounts_works, removeCounts_partTime, removeCounts_params, closing_eq, tenths]
  rfl

/-! ### Retirement (R20) -/

/-- What a record that leaves the counted sites keeps of the state. -/
theorem leaveCounted_facts (s : State) (u : Nat) (at_ : List Nat) :
    let t := leaveCounted s u at_
    t.radios = (tmod s.radios u fun r => { r with groups := r.groups.map fun m => { m with pending := false } }) ∧
      t.sites = at_.foldl (fun x n => tmod x n fallen) s.sites ∧
      t.outbound = s.outbound ∧ t.calls = s.calls ∧ t.tagCounter = s.tagCounter ∧ engine t = engine s ∧ outer t = outer s := by
  intro t
  have h1 : ∀ (gs : List Nat) (l : List Nat) (s : State),
      (l.foldl (fun s n => removeCounts s gs n) s).radios = s.radios ∧
      (l.foldl (fun s n => removeCounts s gs n) s).sites = l.foldl (fun x n => tmod x n fallen) s.sites ∧
      (l.foldl (fun s n => removeCounts s gs n) s).outbound = s.outbound ∧
      (l.foldl (fun s n => removeCounts s gs n) s).calls = s.calls ∧
      (l.foldl (fun s n => removeCounts s gs n) s).tagCounter = s.tagCounter ∧
      engine (l.foldl (fun s n => removeCounts s gs n) s) = engine s ∧
      outer (l.foldl (fun s n => removeCounts s gs n) s) = outer s := by
    intro gs l
    induction l with
    | nil => intro s; exact ⟨rfl, rfl, rfl, rfl, rfl, rfl, rfl⟩
    | cons n r ih =>
      intro s
      obtain ⟨a, b, c, d, e, f, g⟩ := ih (removeCounts s gs n)
      simp only [List.foldl_cons]
      exact ⟨by rw [a]; simp, by rw [b]; simp, by rw [c]; simp, by rw [d]; simp, by rw [e]; simp, by rw [f]; simp, by rw [g]; simp⟩
  obtain ⟨a, b, c, d, e, f, g⟩ := h1 (groupsOf s u) at_ s
  have h2 : GroupFrame (at_.foldl (fun s' n => removeCounts s' (groupsOf s u) n) s)
      (if at_.isEmpty then at_.foldl (fun s' n => removeCounts s' (groupsOf s u) n) s
        else subTotals (at_.foldl (fun s' n => removeCounts s' (groupsOf s u) n) s) (groupsOf s u)) := by
    split
    · exact .refl _
    · exact groupFrame_subTotals _ _
  refine ⟨?_, ?_, ?_, ?_, ?_, ?_, ?_⟩
  · simp only [t, leaveCounted, clearFlags_radios]; rw [h2.radios, a]
  · simp only [t, leaveCounted, clearFlags_sites]; rw [h2.sites, b]
  · simp only [t, leaveCounted, clearFlags_outbound]; rw [h2.outbound, c]
  · simp only [t, leaveCounted, clearFlags_calls]; rw [h2.calls, d]
  · simp only [t, leaveCounted, clearFlags_tagCounter]; rw [h2.tag, e]
  · simp only [t, leaveCounted, engine_clearFlags]; rw [h2.engine, f]
  · simp only [t, leaveCounted, outer_clearFlags]; rw [h2.outer, g]

/-! ### The change of a group list (R115) -/

theorem groupFrame_loseMembership (at_ : List Nat) (s : State) (m : Membership) : GroupFrame s (loseMembership at_ s m) := by
  have h1 : GroupFrame s (if m.pending then lowerUnreached s m.group else s) := by
    split
    · exact groupFrame_lowerUnreached _ _
    · exact .refl s
  have h2 := h1.trans (groupFrame_foldl (fun s n => subMember s m.group n) (fun s n => groupFrame_subMember s m.group n) at_ _)
  unfold loseMembership
  simp only []
  split
  · exact h2
  · exact h2.trans (groupFrame_subTotal _ _)

theorem groupFrame_gainMembership (at_ : List Nat) (s : State) (g : Nat) : GroupFrame s (gainMembership at_ s g) := by
  have h1 : GroupFrame s (if recallStateOf s g = .active then raiseUnreached s g else s) := by
    split
    · exact groupFrame_raiseUnreached _ _
    · exact .refl s
  have h2 := h1.trans (groupFrame_foldl (fun s n => addMember s g n) (fun s n => groupFrame_addMember s g n) at_ _)
  unfold gainMembership
  simp only []
  split
  · exact h2
  · exact h2.trans (groupFrame_addTotal _ _)

/-- What a change of one record's group list leaves: every other record, and all but the groups, calls, queues, notices and the tail of
the outbound queue. -/
structure ListFrame (s t : State) (u : Nat) : Prop where
  outer : outer t = outer s
  tag : t.tagCounter = s.tagCounter
  engine : engine t = engine s
  others : ∀ v, v ≠ u → tget t.radios v = tget s.radios v
  sites : ∀ j, (tget t.sites j).map noQueue = (tget s.sites j).map noQueue
  outbound : ∃ more, t.outbound = s.outbound ++ more
  record : (tget t.radios u).map (fun r => { r with groups := [], regroup := .none }) =
    (tget s.radios u).map fun r => { r with groups := [], regroup := .none }

theorem ListFrame.refl (s : State) (u : Nat) : ListFrame s s u :=
  ⟨rfl, rfl, rfl, fun _ _ => rfl, fun _ => rfl, ⟨[], by simp⟩, rfl⟩

theorem ListFrame.trans {a b c : State} {u : Nat} (h1 : ListFrame a b u) (h2 : ListFrame b c u) : ListFrame a c u := by
  obtain ⟨m1, e1⟩ := h1.outbound
  obtain ⟨m2, e2⟩ := h2.outbound
  exact ⟨h2.outer.trans h1.outer, h2.tag.trans h1.tag, h2.engine.trans h1.engine,
    fun v hv => (h2.others v hv).trans (h1.others v hv), fun j => (h2.sites j).trans (h1.sites j),
    ⟨m1 ++ m2, by rw [e2, e1, List.append_assoc]⟩, h2.record.trans h1.record⟩

theorem ListFrame.works {s t : State} {u : Nat} (h : ListFrame s t u) (n : Nat) : siteWorks t n = siteWorks s n := by
  apply siteWorks_congr
  have := h.sites n
  cases h1 : tget t.sites n <;> cases h2 : tget s.sites n <;> simp_all [noQueue]

theorem ListFrame.counts {s t : State} {u : Nat} (h : ListFrame s t u) (n : Nat) :
    (tget t.sites n).map Site.count = (tget s.sites n).map Site.count := by
  have := h.sites n
  cases h1 : tget t.sites n <;> cases h2 : tget s.sites n <;> simp_all [noQueue]

theorem listFrame_modRadio (s : State) (u : Nat) (f : Radio → Radio)
    (hf : ∀ r, ({ f r with groups := [], regroup := .none } : Radio) = { r with groups := [], regroup := .none }) :
    ListFrame s (modRadio s u f) u := by
  refine ⟨rfl, rfl, rfl, fun v hv => by simp [tget_tmod_ne _ _ hv], fun _ => rfl, ⟨[], by simp⟩, ?_⟩
  simp only [modRadio_radios, tget_tmod_self, Option.map_map]
  cases tget s.radios u <;> simp [hf]

theorem listFrame_of_group {s t : State} (h : GroupFrame s t) (u : Nat) : ListFrame s t u :=
  ⟨h.outer, h.tag, h.engine, fun v _ => by rw [h.radios], fun j => by rw [h.sites], ⟨[], by simp [h.outbound]⟩, by rw [h.radios]⟩

theorem listFrame_of_call {s t : State} (h : CallFrame s t) (u : Nat) : ListFrame s t u :=
  ⟨h.outer, h.tag, h.engine, fun v _ => by rw [h.radios], h.sites, h.outbound, by rw [h.radios]⟩

theorem listFrame_changeGroupList (s : State) (u : Nat) (new : List Nat) : ListFrame s (changeGroupList s u new) u := by
  unfold changeGroupList
  split
  · rename_i r hr
    simp only []
    refine .trans (listFrame_of_group ?_ u) (.trans (listFrame_modRadio _ u _ ?_) (listFrame_of_call (callFrame_passAll _ _) u))
    · exact (groupFrame_foldl _ (groupFrame_loseMembership _) _ _).trans (groupFrame_foldl _ (groupFrame_gainMembership _) _ _)
    · intro r'; rfl
  · exact .refl s u

/-- The group list after the change is the new list, with the flags that R115 gives. -/
theorem changeGroupList_groups {s : State} {u : Nat} {r : Radio} (new : List Nat) (h : tget s.radios u = some r) :
    tget (changeGroupList s u new).radios u = some { r with groups := new.map (newEntry s r.groups) } := by
  simp only [changeGroupList, h]
  rw [(callFrame_passAll _ _).radios]
  simp only [modRadio_radios, tget_tmod_self]
  rw [((groupFrame_foldl _ (groupFrame_loseMembership _) _ _).trans (groupFrame_foldl _ (groupFrame_gainMembership _) _ _)).radios, h]
  rfl

theorem listFrame_applyReported (s : State) (u : Nat) (l : List Nat) : ListFrame s (applyReported s u l) u := by
  unfold applyReported
  split
  · simp only []
    split
    · split
      · exact .refl s u
      · exact listFrame_changeGroupList s u _
    · split
      · exact listFrame_modRadio s u (fun r => { r with regroup := .confirmed }) fun _ => rfl
      · exact .refl s u
    · split
      · exact .refl s u
      · exact (listFrame_changeGroupList s u _).trans (listFrame_modRadio _ u (fun r => { r with regroup := .none }) fun _ => rfl)
  · exact .refl s u

theorem newEntry_group (s : State) (old : List Membership) (g : Nat) : (newEntry s old g).group = g := by
  unfold newEntry
  split
  · rename_i m h; simpa using List.find?_some h
  · rfl

@[simp] theorem groupNumbers_newEntry (s : State) (old : List Membership) (new : List Nat) :
    groupNumbers (new.map (newEntry s old)) = new := by
  simp [groupNumbers, List.map_map, Function.comp_def, newEntry_group]

/-! ### The number of records in MOVING -/

/-- A change of one record moves the number of MOVING records as that record's state does. -/
theorem movingCount_tmod {s t : State} {u : Nat} {r : Radio} {f : Radio → Radio} (hs : Ascending s.radios)
    (h : tget s.radios u = some r) (ht : t.radios = tmod s.radios u f) :
    movingCount t + (if isMoving r.state then 1 else 0) = movingCount s + (if isMoving (f r).state then 1 else 0) := by
  unfold movingCount
  rw [ht, tmod_of_some _ _ h]
  exact countP_tput_of_some _ hs h

theorem movingCount_of_radios {s t : State} (h : t.radios = s.radios) : movingCount t = movingCount s := by simp [movingCount, h]

theorem movingCount_tmod_same {s t : State} {u : Nat} {f : Radio → Radio} (hs : Ascending s.radios)
    (hf : ∀ r, tget s.radios u = some r → isMoving (f r).state = isMoving r.state) (ht : t.radios = tmod s.radios u f) :
    movingCount t = movingCount s := by
  cases h : tget s.radios u with
  | none => rw [tmod_of_none _ _ h] at ht; exact movingCount_of_radios ht
  | some r => have := movingCount_tmod hs h ht; rw [hf r h] at this; omega

end Sys2Proof.Machine
end

