-- ==== Sys2Proof/Laws/Requests.lean ====
section
/-! SUPPORT. What the taking of a request does, and the treatment of lists that requests carry. -/

namespace Sys2Proof.Machine

/-! ### Taking a request -/

theorem canTake_of_ready {s : State} {e : RequestEntry} {rest : List RequestEntry} {q : Request}
    (h : requestReady s e rest q) : canTakeRequest s = true := by
  obtain ⟨-, -, h3, h4⟩ := h
  simp only [canTakeRequest, restartAnswerWaits, Bool.and_eq_true, decide_eq_true_eq, Bool.not_eq_true', List.any_eq_false]
  exact ⟨h3, fun a ha => by simpa using h4 a ha⟩

/-- A request of the command's kind in an allowed phase acts, and its answer follows. -/
theorem serve_of_ready {s : State} {e : RequestEntry} {rest : List RequestEntry} {q : Request} {ph : Phases}
    {act : Request → Option (State → Served)} {f : State → Served} (h : requestReady s e rest q) (hf : act q = some f)
    (hp : allowed ph s.phase = true) :
    serve s ph act = pushAnswer (f { s with requests := rest }).1 e (f { s with requests := rest }).2.1
      (f { s with requests := rest }).2.2 := by
  have hc := canTake_of_ready h
  obtain ⟨h1, h2, -, -⟩ := h
  simp [serve, h1, h2, hf, hc, hp]

/-- A request in a phase that does not allow it only gets WRONG-PHASE. -/
theorem serve_wrongPhase {s : State} {e : RequestEntry} {rest : List RequestEntry} {q : Request} {ph : Phases}
    {act : Request → Option (State → Served)} {f : State → Served} (h : requestReady s e rest q) (hf : act q = some f)
    (hp : allowed ph s.phase = false) : serve s ph act = answered s e rest .wrongPhase .none := by
  have hc := canTake_of_ready h
  obtain ⟨h1, h2, -, -⟩ := h
  simp [serve, h1, h2, hf, hc, hp, pushAnswer, answered]

/-- All that taking a request can do: nothing, or the entry leaves with one answer after the request's own effect. -/
theorem serve_cases (s : State) (ph : Phases) (act : Request → Option (State → Served)) :
    serve s ph act = s ∨
    ∃ e rest q f, s.requests = e :: rest ∧ entryRequest e = some q ∧ act q = some f ∧
      (serve s ph act = pushAnswer { s with requests := rest } e .wrongPhase .none ∨
       serve s ph act = pushAnswer (f { s with requests := rest }).1 e (f { s with requests := rest }).2.1
        (f { s with requests := rest }).2.2) := by
  unfold serve
  split
  · rename_i e rest he
    split
    · rename_i f hf
      obtain ⟨q, hq, hf⟩ := Option.bind_eq_some_iff.1 hf
      split
      · right
        refine ⟨e, rest, q, f, he, hq, hf, ?_⟩
        simp only []
        split
        · exact .inr rfl
        · exact .inl rfl
      · exact .inl rfl
    · exact .inl rfl
  · exact .inl rfl

@[simp] theorem allowed_both (p : Phase) : allowed .both p = true := by cases p <;> rfl

/-! ### Records found -/

theorem wfSite_iff (n : Nat) : wfSite n = true ↔ 1 ≤ n ∧ n ≤ 48 := by simp [wfSite]
theorem wfGroup_iff (n : Nat) : wfGroup n = true ↔ 1 ≤ n ∧ n ≤ 128 := by simp [wfGroup]
theorem wfCall_iff (n : Nat) : wfCall n = true ↔ 1 ≤ n ∧ n ≤ 32 := by simp [wfCall]
theorem wfUnit_iff (n : Nat) : wfUnit n = true ↔ 1 ≤ n ∧ n ≤ 16777215 := by simp [wfUnit]

theorem siteConfigured_iff (s : State) (n : Nat) :
    siteConfigured s n = true ↔ wfSite n = true ∧ tget s.sites n ≠ none := by
  unfold siteConfigured findSite
  split <;> simp_all [Option.isSome_iff_ne_none]

theorem groupConfigured_iff (s : State) (n : Nat) :
    groupConfigured s n = true ↔ wfGroup n = true ∧ tget s.groups n ≠ none := by
  unfold groupConfigured findGroup
  split <;> simp_all [Option.isSome_iff_ne_none]

/-! ### Lists kept in order (R106, R110, R118) -/

/-- What keepFirst keeps after what it has: a sublist of the list, of items that pass, each once and none kept already, with the
whole within the size; and while there is room, every item that passes. -/
theorem keepFirst_spec (ok : Nat → Bool) (size : Nat) (l kept : List Nat) (hk : kept.Nodup) (hl : kept.length ≤ size) :
    ∃ more, keepFirst ok size kept l = kept ++ more ∧ more.Sublist l ∧ (kept ++ more).Nodup ∧
      (kept ++ more).length ≤ size ∧ (∀ x ∈ more, ok x = true) ∧
      ((kept ++ more).length < size → ∀ x ∈ l, ok x = true → x ∈ kept ++ more) := by
  induction l generalizing kept with
  | nil => exact ⟨[], by simp [keepFirst], .slnil, by simpa using hk, by simpa using hl, by simp, by simp⟩
  | cons x r ih =>
    simp only [keepFirst]
    split
    · rename_i h
      simp only [Bool.and_eq_true, Bool.not_eq_true', List.contains_eq_mem, decide_eq_false_iff_not, decide_eq_true_eq] at h
      obtain ⟨⟨h1, h2⟩, h3⟩ := h
      have hn : (kept ++ [x]).Nodup := by
        rw [List.nodup_append]; refine ⟨hk, by simp, ?_⟩
        intro a ha b hb e; simp at hb; subst hb; subst e; exact h2 ha
      obtain ⟨more, e, sub, nd, len, all, full⟩ := ih (kept ++ [x]) hn (by simp; omega)
      rw [List.append_assoc] at e nd len full
      refine ⟨x :: more, e, sub.cons_cons x, nd, len, ?_, ?_⟩
      · intro y hy; rcases List.mem_cons.1 hy with rfl | hy
        · exact h1
        · exact all y hy
      · intro hlt y hy oky
        rcases List.mem_cons.1 hy with rfl | hy
        · simp
        · exact full hlt y hy oky
    · rename_i h
      obtain ⟨more, e, sub, nd, len, all, full⟩ := ih kept hk hl
      refine ⟨more, e, sub.cons x, nd, len, all, ?_⟩
      intro hlt y hy oky
      rcases List.mem_cons.1 hy with rfl | hy
      · simp only [Bool.and_eq_true, Bool.not_eq_true', List.contains_eq_mem, decide_eq_false_iff_not, decide_eq_true_eq,
          not_and, oky] at h
        by_cases hm : y ∈ kept
        · simp [hm]
        · have := h ⟨trivial, hm⟩; rw [List.length_append] at hlt; omega
      · exact full hlt y hy oky

theorem keepFirst_nil_spec (ok : Nat → Bool) (size : Nat) (l : List Nat) :
    (keepFirst ok size [] l).Sublist l ∧ (keepFirst ok size [] l).Nodup ∧ (keepFirst ok size [] l).length ≤ size ∧
      (∀ x ∈ keepFirst ok size [] l, ok x = true) ∧
      ((keepFirst ok size [] l).length < size → ∀ x ∈ l, ok x = true → x ∈ keepFirst ok size [] l) := by
  obtain ⟨more, e, sub, nd, len, all, full⟩ := keepFirst_spec ok size l [] (by simp) (by simp)
  simp only [List.nil_append] at e nd len full
  rw [e]; exact ⟨sub, nd, len, all, full⟩

/-- A kept list is the whole list exactly when it is as long. -/
theorem kept_eq_iff {kept l : List Nat} (h : kept.Sublist l) : (kept.length == l.length) = decide (kept = l) := by
  by_cases hk : kept = l
  · simp [hk]
  · simp only [hk, decide_false, beq_eq_false_iff_ne]
    exact fun hl => hk (h.eq_of_length hl)

/-! ### Each request's command -/

/-- The state that a request's own effect leaves, with its answer at the tail of the answer queue. -/
def finished (e : RequestEntry) (p : Served) : State := pushAnswer p.1 e p.2.1 p.2.2

variable {s : State} {e : RequestEntry} {rest : List RequestEntry}

theorem exec_defineSite_ready {n c v b hy i o} (h : requestReady s e rest (.defineSite n c v b hy i o)) (hp : s.phase = .config) :
    exec .defineSite s = .next (finished e (doDefineSite n c v b hy i o { s with requests := rest })) :=
  congrArg Host.Outcome.next (serve_of_ready h rfl (by rw [hp]; rfl))

theorem exec_setSite_ready {n c v b hy i o} (h : requestReady s e rest (.setSite n c v b hy i o)) :
    exec .setSite s = .next (finished e (doSetSite n c v b hy i o { s with requests := rest })) :=
  congrArg Host.Outcome.next (serve_of_ready h rfl (allowed_both _))

theorem exec_setNeighbours_ready {n l} (h : requestReady s e rest (.setNeighbours n l)) :
    exec .setNeighbours s = .next (finished e (doSetNeighbours n l { s with requests := rest })) :=
  congrArg Host.Outcome.next (serve_of_ready h rfl (allowed_both _))

theorem exec_undefineSite_ready {n} (h : requestReady s e rest (.undefineSite n)) (hp : s.phase = .config) :
    exec .undefineSite s = .next (finished e (doUndefineSite n { s with requests := rest })) :=
  congrArg Host.Outcome.next (serve_of_ready h rfl (by rw [hp]; rfl))

theorem exec_defineGroup_ready {g p l} (h : requestReady s e rest (.defineGroup g p l)) (hp : s.phase = .config) :
    exec .defineGroup s = .next (finished e (doDefineGroup g p l { s with requests := rest })) :=
  congrArg Host.Outcome.next (serve_of_ready h rfl (by rw [hp]; rfl))

theorem exec_setGroup_ready {g p l} (h : requestReady s e rest (.setGroup g p l)) :
    exec .setGroup s = .next (finished e (doSetGroup g p l { s with requests := rest })) :=
  congrArg Host.Outcome.next (serve_of_ready h rfl (allowed_both _))

theorem exec_undefineGroup_ready {g} (h : requestReady s e rest (.undefineGroup g)) (hp : s.phase = .config) :
    exec .undefineGroup s = .next (finished e (doUndefineGroup g { s with requests := rest })) :=
  congrArg Host.Outcome.next (serve_of_ready h rfl (by rw [hp]; rfl))

theorem exec_setParameter_ready {n v} (h : requestReady s e rest (.setParameter n v)) :
    exec .setParameter s = .next (finished e (doSetParameter n v { s with requests := rest })) :=
  congrArg Host.Outcome.next (serve_of_ready h rfl (allowed_both _))

theorem exec_openService_ready (h : requestReady s e rest .openService) (hp : s.phase = .config) :
    exec .openService s = .next (finished e (doOpen { s with requests := rest })) :=
  congrArg Host.Outcome.next (serve_of_ready h rfl (by rw [hp]; rfl))

theorem exec_restart_ready {o : Bool} (h : requestReady s e rest .restart) :
    exec (.restart o) s = .next (finished e (doRestart o { s with requests := rest })) :=
  congrArg Host.Outcome.next (serve_of_ready h rfl (allowed_both _))

theorem exec_locate_ready {u} (h : requestReady s e rest (.locate u)) :
    exec .locate s = .next (finished e (doLocate u { s with requests := rest })) :=
  congrArg Host.Outcome.next (serve_of_ready h rfl (allowed_both _))

theorem exec_siteQuery_ready {n} (h : requestReady s e rest (.siteQuery n)) :
    exec .siteQuery s = .next (finished e (doSiteQuery n { s with requests := rest })) :=
  congrArg Host.Outcome.next (serve_of_ready h rfl (allowed_both _))

theorem exec_groupQuery_ready {g} (h : requestReady s e rest (.groupQuery g)) :
    exec .groupQuery s = .next (finished e (doGroupQuery g { s with requests := rest })) :=
  congrArg Host.Outcome.next (serve_of_ready h rfl (allowed_both _))

theorem exec_callQuery_ready {c} (h : requestReady s e rest (.callQuery c)) :
    exec .callQuery s = .next (finished e (doCallQuery c { s with requests := rest })) :=
  congrArg Host.Outcome.next (serve_of_ready h rfl (allowed_both _))

theorem exec_bulkStatus_ready (h : requestReady s e rest .bulkStatus) :
    exec .bulkStatus s = .next (finished e (doBulkStatus { s with requests := rest })) :=
  congrArg Host.Outcome.next (serve_of_ready h rfl (allowed_both _))

theorem exec_nextNotice_ready (h : requestReady s e rest .nextNotice) :
    exec .nextNotice s = .next (finished e (doNextNotice { s with requests := rest })) :=
  congrArg Host.Outcome.next (serve_of_ready h rfl (allowed_both _))

theorem exec_portStatus_ready (h : requestReady s e rest .portStatus) :
    exec .portStatus s = .next (finished e (doPortStatus { s with requests := rest })) :=
  congrArg Host.Outcome.next (serve_of_ready h rfl (allowed_both _))

theorem exec_forceRelease_ready {u} (h : requestReady s e rest (.forceRelease u)) (hp : s.phase = .service) :
    exec .forceRelease s = .next (finished e (doForceRelease u { s with requests := rest })) :=
  congrArg Host.Outcome.next (serve_of_ready h rfl (by rw [hp]; rfl))

theorem exec_clearEmergency_ready {u} (h : requestReady s e rest (.clearEmergency u)) (hp : s.phase = .service) :
    exec .clearEmergency s = .next (finished e (doClearEmergency u { s with requests := rest })) :=
  congrArg Host.Outcome.next (serve_of_ready h rfl (by rw [hp]; rfl))

theorem exec_clearLost_ready {u} (h : requestReady s e rest (.clearLost u)) (hp : s.phase = .service) :
    exec .clearLost s = .next (finished e (doClearLost u { s with requests := rest })) :=
  congrArg Host.Outcome.next (serve_of_ready h rfl (by rw [hp]; rfl))

theorem exec_setGroups_ready {u l} (h : requestReady s e rest (.setGroups u l)) (hp : s.phase = .service) :
    exec .setGroups s = .next (finished e (doSetGroups u l { s with requests := rest })) :=
  congrArg Host.Outcome.next (serve_of_ready h rfl (by rw [hp]; rfl))

theorem exec_clearRegroup_ready {u} (h : requestReady s e rest (.clearRegroup u)) (hp : s.phase = .service) :
    exec .clearRegroup s = .next (finished e (doClearRegroup u { s with requests := rest })) :=
  congrArg Host.Outcome.next (serve_of_ready h rfl (by rw [hp]; rfl))

theorem exec_forceEnd_ready {c} (h : requestReady s e rest (.forceEnd c)) (hp : s.phase = .service) :
    exec .forceEnd s = .next (finished e (doForceEnd c { s with requests := rest })) :=
  congrArg Host.Outcome.next (serve_of_ready h rfl (by rw [hp]; rfl))

theorem exec_roster_ready {w form value start limit} (h : requestReady s e rest (.roster w form value start limit)) (hp : s.phase = .service) :
    exec .roster s = .next (finished e (doRoster w form value start limit { s with requests := rest })) :=
  congrArg Host.Outcome.next (serve_of_ready h rfl (by rw [hp]; rfl))

theorem exec_recallGroup_ready {w g} (h : requestReady s e rest (.recallGroup w g)) (hp : s.phase = .service) :
    exec .recallGroup s = .next (finished e (doRecall w g { s with requests := rest })) :=
  congrArg Host.Outcome.next (serve_of_ready h rfl (by rw [hp]; rfl))

theorem exec_cancelRecall_ready {w g} (h : requestReady s e rest (.cancelRecall w g)) (hp : s.phase = .service) :
    exec .cancelRecall s = .next (finished e (doCancelRecall w g { s with requests := rest })) :=
  congrArg Host.Outcome.next (serve_of_ready h rfl (by rw [hp]; rfl))

theorem exec_evacuate_ready {w n} (h : requestReady s e rest (.evacuate w n)) (hp : s.phase = .service) :
    exec .evacuate s = .next (finished e (doEvacuate w n { s with requests := rest })) :=
  congrArg Host.Outcome.next (serve_of_ready h rfl (by rw [hp]; rfl))

theorem exec_resync_ready {w n} (h : requestReady s e rest (.resync w n)) (hp : s.phase = .service) :
    exec .resync s = .next (finished e (doResync w n { s with requests := rest })) :=
  congrArg Host.Outcome.next (serve_of_ready h rfl (by rw [hp]; rfl))

theorem exec_purge_ready {w} (h : requestReady s e rest (.purge w)) (hp : s.phase = .service) :
    exec .purge s = .next (finished e (doPurge w { s with requests := rest })) :=
  congrArg Host.Outcome.next (serve_of_ready h rfl (by rw [hp]; rfl))

theorem exec_bulkSuspend_ready (h : requestReady s e rest .bulkSuspend) (hp : s.phase = .service) :
    exec .bulkSuspend s = .next (finished e (doBulkSuspend { s with requests := rest })) :=
  congrArg Host.Outcome.next (serve_of_ready h rfl (by rw [hp]; rfl))

theorem exec_bulkResume_ready (h : requestReady s e rest .bulkResume) (hp : s.phase = .service) :
    exec .bulkResume s = .next (finished e (doBulkResume { s with requests := rest })) :=
  congrArg Host.Outcome.next (serve_of_ready h rfl (by rw [hp]; rfl))

theorem exec_bulkAbort_ready {scope kind} (h : requestReady s e rest (.bulkAbort scope kind)) (hp : s.phase = .service) :
    exec .bulkAbort s = .next (finished e (doBulkAbort scope kind { s with requests := rest })) :=
  congrArg Host.Outcome.next (serve_of_ready h rfl (by rw [hp]; rfl))

end Sys2Proof.Machine
end

