-- ==== Sys2Proof/Tests/Slice0.lean ====
section
/-! SUPPORT. Tests: commands out of range, the frame check and frames written out from the layouts, single steps of the
manual's worked examples with the values it states, and for each claim with premises a state that meets them. -/

namespace Sys2Proof.Machine.Tests

set_option Elab.async false

open Sys2Proof Sys2Proof.Machine

/-! ### Well-formed commands: each check refuses an operand out of range -/

theorem test_wf_refuses_unit_zero : Instr.wf (.settleExpiry 0) = false := by decide
theorem test_wf_refuses_unit_above : Instr.wf (.handoverDeadlineExpiry 16777216) = false := by decide
theorem test_wf_refuses_lease_unit : Instr.wf (.leaseExpiry 0) = false := by decide
theorem test_wf_refuses_presume_unit : Instr.wf (.presumeHoldExpiry 16777216) = false := by decide
theorem test_wf_refuses_retire_unit : Instr.wf (.retireHoldExpiry 0) = false := by decide
theorem test_wf_refuses_site_zero : Instr.wf (.heartbeatExpiry 0) = false := by decide
theorem test_wf_refuses_site_above : Instr.wf (.heartbeatExpiry 49) = false := by decide
theorem test_wf_refuses_call : Instr.wf (.hangExpiry 33) = false := by decide
theorem test_wf_refuses_queue_site : Instr.wf (.queueHoldExpiry 49 1) = false := by decide
theorem test_wf_refuses_queue_call : Instr.wf (.queueHoldExpiry 48 0) = false := by decide
theorem test_wf_refuses_group : wfGroup 129 = false ∧ wfGroup 0 = false := by decide
theorem test_wf_takes_bounds : Instr.wf (.leaseExpiry 16777215) = true ∧ Instr.wf (.queueHoldExpiry 48 32) = true := by decide

/-- No row of the table gives bits. -/
theorem test_no_word_spells_a_command : decodeTableWord 0 0 = none ∧ decodeTableWord 32 0xFFFFFFFF = none := by decide

/-! ### Frames, written out from section 10.2 -/

/-- R180's own test: 31 hex to 39 hex give 29B1 hex. -/
theorem test_check_value : crc [0x31, 0x32, 0x33, 0x34, 0x35, 0x36, 0x37, 0x38, 0x39] = 0x29B1#16 := by decide +kernel

/-- REG from site 9 of unit 52006 (00CB26 hex), sequence 10, first flag clear, quality 27, groups (5). -/
theorem test_reg_layout : siteMessage 0x01#8 [9, 0x00, 0xCB, 0x26, 10, 0, 27, 1, 5] = some (.reg 9 52006 10 false 27 [5]) := by
  decide +kernel
theorem test_reg_with_long_list_misfits :
    siteMessage 0x01#8 [9, 0x00, 0xCB, 0x26, 10, 0, 27, 17, 1, 1, 1, 1, 1, 1, 1, 1, 1, 1, 1, 1, 1, 1, 1, 1, 1] = none := by
  decide +kernel
theorem test_heard_layout : siteMessage 0x02#8 [14, 0x00, 0xCB, 0x26, 10, 30] = some (.heard 14 52006 10 30) := by decide +kernel
theorem test_heard_sequence_misfits : siteMessage 0x02#8 [14, 0x00, 0xCB, 0x26, 16, 30] = none := by decide +kernel
/-- READY for tag 2317 (090D hex). -/
theorem test_ready_layout : siteMessage 0x05#8 [14, 0x00, 0xCB, 0x26, 0x09, 0x0D] = some (.ready 14 52006 2317) := by decide +kernel
theorem test_decline_reason_misfits : siteMessage 0x07#8 [14, 0x00, 0xCB, 0x26, 0x09, 0x0D, 4] = none := by decide +kernel
theorem test_status_condition_any : siteMessage 0x08#8 [9, 200] = some (.status 9 200) := by decide +kernel
theorem test_kind_to_sites_not_taken : siteMessage 0x42#8 [9, 0, 0, 1, 0] = none := by decide +kernel

/-- SET-SITE of site 9 with c 40 and ACCEPT-IN clear alone: presence bits 0 and 4. -/
theorem test_set_site_layout :
    requestOf 0x12#8 [1, 9, 0x11, 40, 99, 99, 99, 0x02] = some (.setSite 9 (some 40) none none none (some false) none) := by
  decide +kernel
/-- DEFINE-SITE with bias −8 (F8 hex). -/
theorem test_define_site_bias :
    requestOf 0x11#8 [1, 9, 0x04, 0, 0, 0xF8, 0, 0x03] = some (.defineSite 9 none none (some (-8)) none true true) := by
  decide +kernel
theorem test_roster_layout :
    requestOf 0x51#8 [1, 0, 3, 5, 0, 0, 0, 2] = some (.roster false 3 5 0 2) := by decide +kernel
theorem test_list_length_misfits : requestOf 0x13#8 [1, 9, 3, 7, 12] = none := by decide +kernel
theorem test_open_without_reserved_byte_misfits : requestOf 0x19#8 [1] = none := by decide +kernel

/-- RECEIPT TAKEN to site 9 for unit 52006, sequence 10, with recall (5) and no regroup list. -/
theorem test_receipt_layout :
    siteFrame (.receipt 9 52006 10 .taken [5] none) = (0x41#8, [9, 0x00, 0xCB, 0x26, 10, 1, 1, 5, 0xFF]) := by decide +kernel
theorem test_receipt_empty_regroup :
    siteFrame (.receipt 9 52006 10 .taken [] (some [])) = (0x41#8, [9, 0x00, 0xCB, 0x26, 10, 1, 0, 0]) := by decide +kernel
theorem test_prepare_layout :
    siteFrame (.prepare 14 52006 2317 [5]) = (0x45#8, [14, 0x00, 0xCB, 0x26, 0x09, 0x0D, 1, 5]) := by decide +kernel
theorem test_notice_layout :
    noticeBytes { time := 16805, body := .lost 40117 7 false } = [1, 0, 0, 0x41, 0xA5, 0x00, 0x9C, 0xB5, 7, 0] := by decide +kernel
/-- A frame is whole: start byte, length, kind, body, check. A frame received over two commands is taken as one. -/
theorem test_frame_split :
    receiveBytes (receiveBytes .hunting ((frameBytes 0x08#8 [9, 1]).take 3)).1 ((frameBytes 0x08#8 [9, 1]).drop 3) =
      (.hunting, [.frame 0x08#8 [9, 1] true]) := by decide +kernel

/-! ### States for the worked examples -/

/-- The state after a command. -/
def after (i : Instr) (s : State) : State :=
  match exec i s with
  | .next t => t
  | .fault _ => s
  | .refused _ => s

/-- A site that is UP, with a count. -/
def upSite (n : Nat) : Site :=
  { state := .up 99000, condition := some .good, capacity := 64, count := n, voice := 4, bias := 0, hysteresis := 4,
    neighbours := [], acceptIn := true, releaseOut := true, overFlag := false, syncLost := false, queue := [] }

/-- A record in a state, with last sequence 9 and nothing else. -/
def record (st : RecordState) : Radio :=
  { state := st, groups := [], regroup := .none, lastSeq := 9, burst := none, prev := none, hearing := [],
    lastHandover := none, emergency := none }

/-- A group with counts. -/
def group (p : Priority) (counts : Table Nat) (total : Nat) : Group :=
  { priority := p, fixed := [], counts := counts, total := total, recallState := .off, unreached := 0, activeCall := none }

/-- A confirmed hearing entry. -/
def heardAt (site quality t : Nat) : Hearing := { site := site, quality := quality, heard := t, confirmed := true, backoff := none }

/-- SERVICE phase at a part time, with nothing configured. -/
def service (t : Nat) : State := { State.reset with phase := .service, partTime := t }

/-! ### Section 2.9: one burst heard by three sites -/

/-- The example's state at a part time, with a frame at the head of the inbound queue. -/
def merging (t : Nat) (m : SiteMsg) (r : Radio) : State :=
  { service t with
    sites := [(7, { upSite 30 with neighbours := [9, 12] }), (9, upSite 60), (12, upSite 20), (14, upSite 12), (20, upSite 40)]
    groups := [(5, { group .routine [(7, 1)] 1 with recallState := .active, unreached := 6 })]
    radios := [(52006, r)]
    siteIn := [m] }

/-- Unit 52006 before the burst. -/
def unit52006 : Radio :=
  { record (.registered 7 52000) with
    groups := [{ group := 5, pending := true }]
    hearing := [heardAt 7 24 49600, heardAt 12 18 49100, heardAt 9 15 48300, heardAt 20 11 47000] }

theorem test_reg_opens_burst :
    (after .reg (merging 50000 (.reg 9 52006 10 false 27 [5]) unit52006)).outbound = [.receipt 9 52006 10 .taken [5] none] ∧
    (tget (after .reg (merging 50000 (.reg 9 52006 10 false 27 [5]) unit52006)).radios 52006).map Radio.hearing =
      some [heardAt 9 27 50000, heardAt 7 24 49600, heardAt 12 18 49100, heardAt 20 11 47000] := by decide +kernel

theorem test_receipt_delivers_recall :
    (tget (after .reg (merging 50000 (.reg 9 52006 10 false 27 [5]) unit52006)).groups 5).map Group.unreached = some 5 := by
  decide +kernel

/-- Unit 52006 at 50,001, its burst open from site 9. -/
def unit52006Open : Radio :=
  { unit52006 with
    groups := [{ group := 5, pending := false }], lastSeq := 10,
    burst := some { seq := 10, emergency := none, first := false, reported := some [5], openedAt := 50000, sites := [9],
                    settle := 50005 },
    hearing := [heardAt 9 27 50000, heardAt 7 24 49600, heardAt 12 18 49100, heardAt 20 11 47000] }

theorem test_heard_merges_and_evicts :
    (after .heard (merging 50001 (.heard 14 52006 10 30) unit52006Open)).outbound =
      [.receipt 14 52006 10 .merged [] none] ∧
    (tget (after .heard (merging 50001 (.heard 14 52006 10 30) unit52006Open)).radios 52006).map Radio.hearing =
      some [{ heardAt 14 30 50001 with confirmed := false }, heardAt 9 27 50000, heardAt 7 24 49600, heardAt 12 18 49100] := by
  decide +kernel

/-- Unit 52006 after the close at 50,005. -/
def unit52006Closed : Radio :=
  { unit52006Open with
    state := .registered 7 53005, burst := none, prev := some { seq := 10, sites := [9, 14, 7], openedAt := 50000 },
    hearing := [heardAt 7 21 50002, { heardAt 14 30 50001 with confirmed := false }, heardAt 9 27 50000, heardAt 12 18 49100] }

/-- Unit 52006 just before the close at 50,005. -/
def unit52006Closing : Radio :=
  { unit52006Closed with
    state := .registered 7 52000, prev := none,
    burst := some { seq := 10, emergency := none, first := false, reported := some [5], openedAt := 50000, sites := [9, 14, 7],
                    settle := 50005 } }

theorem test_settle_keeps_the_record :
    tget (after (.settleExpiry 52006) (merging 50005 (.status 7 1) unit52006Closing)).radios 52006 = some unit52006Closed := by
  decide +kernel

theorem test_late_copy_stands_before_the_equal_time :
    (tget (after .heard (merging 50008 (.heard 12 52006 10 19) unit52006Closed)).radios 52006).map Radio.hearing =
      some [heardAt 7 21 50002, { heardAt 14 30 50001 with confirmed := false }, heardAt 12 19 50000, heardAt 9 27 50000] ∧
    (after .heard (merging 50008 (.heard 12 52006 10 19) unit52006Closed)).outbound = [.receipt 12 52006 10 .late [] none] := by
  decide +kernel

/-! ### Sections 3.6 and 4.9: the burst decided, and the handover -/

/-- Unit 52006 at 51,405, just before the second close. -/
def unit52006Second : Radio :=
  { unit52006Closed with
    lastSeq := 11, prev := none,
    burst := some { seq := 11, emergency := none, first := false, reported := none, openedAt := 51400, sites := [14],
                    settle := 51405 },
    hearing := [heardAt 14 29 51400, heardAt 7 21 50002, heardAt 12 19 50000, heardAt 9 27 50000] }

/-- The state at 51,405, the tag counter at 2,317. -/
def deciding : State := { merging 51405 (.status 7 1) unit52006Second with tagCounter := 2317 }

theorem test_scores_of_the_second_close :
    score deciding 51405 [14] false (upSite 12) (heardAt 14 29 51400) = 29 ∧
    score deciding 51405 [14] true (upSite 30) (heardAt 7 21 50002) = 7 ∧
    score deciding 51405 [14] false (upSite 20) (heardAt 12 19 50000) = 5 ∧
    score deciding 51405 [14] false (upSite 60) (heardAt 9 27 50000) = 7 := by decide +kernel

theorem test_settle_starts_the_handover :
    (tget (after (.settleExpiry 52006) deciding).radios 52006).map Radio.state =
      some (.moving 7 14 54405 { tag := 2317, readySeen := false, quiescedSeen := false, deadline := 51455 }) ∧
    (after (.settleExpiry 52006) deciding).outbound = [.prepare 14 52006 2317 [5], .quiesce 7 52006 2317] ∧
    (after (.settleExpiry 52006) deciding).tagCounter = 2318 ∧
    (tget (after (.settleExpiry 52006) deciding).sites 14).map Site.count = some 13 := by decide +kernel

/-- Unit 52006 in flight to site 14, its QUIESCED seen. -/
def inFlight : Radio :=
  { unit52006Closed with
    state := .moving 7 14 54405 { tag := 2317, readySeen := false, quiescedSeen := true, deadline := 51455 } }

theorem test_ready_commits :
    (after .ready (merging 51413 (.ready 14 52006 2317) inFlight)).outbound = [.commit 14 52006 2317, .commit 7 52006 2317] ∧
    (tget (after .ready (merging 51413 (.ready 14 52006 2317) inFlight)).radios 52006).map
      (fun r => (r.state, r.lastHandover)) = some (.registered 14 54405, some (.completed, 14)) ∧
    (tget (after .ready (merging 51413 (.ready 14 52006 2317) inFlight)).sites 7).map Site.count = some 29 := by decide +kernel

theorem test_stale_ready_is_cancelled :
    (after .ready (merging 51413 (.ready 14 52006 2406) inFlight)).outbound = [.cancel 14 52006 2406] ∧
    tget (after .ready (merging 51413 (.ready 14 52006 2406) inFlight)).radios 52006 = some inFlight := by decide +kernel

theorem test_handover_deadline_unwinds :
    (after (.handoverDeadlineExpiry 52006) (merging 51455 (.status 7 1) inFlight)).outbound =
      [.cancel 14 52006 2317, .cancel 7 52006 2317] ∧
    (tget (after (.handoverDeadlineExpiry 52006) (merging 51455 (.status 7 1) inFlight)).radios 52006).map
      (fun r => (r.state, r.lastHandover)) = some (.registered 7 54405, some (.timedOut, 14)) := by decide +kernel

/-- The backoff of a decline: 300 tenths from its arrival. -/
theorem test_decline_sets_backoff :
    ((tget (after .decline (merging 51420 (.decline 14 52006 2317 3) inFlight)).radios 52006).map fun r =>
      (r.hearing.map Hearing.backoff, r.lastHandover)) = some ([none, some 51720, none, none], some (.declined, 14)) := by
  decide +kernel

/-! ### Section 3.8: the adoption tiers -/

/-- Unit 33540, LOST with last site 7, its burst closing at 100. -/
def adopting (site12 : Site) : State :=
  { service 100 with
    sites := [(7, upSite 64), (12, site12), (15, upSite 20), (20, { upSite 64 with acceptIn := false })]
    radios := [(33540, { record (.lost 7) with
      burst := some { seq := 9, emergency := none, first := false, reported := none, openedAt := 95, sites := [20, 7, 12],
                      settle := 100 }
      hearing := [heardAt 20 40 97, heardAt 7 30 96, heardAt 12 30 95, { heardAt 15 35 90 with confirmed := false }] })] }

theorem test_first_tier_outranks_the_score :
    (tget (after (.settleExpiry 33540) (adopting (upSite 50))).radios 33540).map Radio.state = some (.registered 12 3100) ∧
    (after (.settleExpiry 33540) (adopting (upSite 50))).notices = [{ time := 100, body := .found 33540 12 }] := by decide +kernel

theorem test_second_tier_sets_the_over_flag :
    (after (.settleExpiry 33540) (adopting { upSite 50 with state := .dark })).notices =
      [{ time := 100, body := .siteOver 7 65 64 }, { time := 100, body := .found 33540 7 }] ∧
    (tget (after (.settleExpiry 33540) (adopting { upSite 50 with state := .dark })).sites 7).map
      (fun x => (x.count, x.overFlag)) = some (65, true) := by decide +kernel

/-! ### Section 5.10: a site outage and return -/

/-- The state at 70,200, just before the heartbeat expiry of site 9. -/
def outage : State :=
  { service 70200 with
    sites := [(7, upSite 5), (9, { upSite 5 with state := .up 70200, voice := 2, capacity := 40, queue := [6] }), (14, upSite 6)]
    groups := [(5, { group .routine [(9, 3), (14, 1)] 3 with activeCall := some 3 }),
               (11, { group .routine [(7, 1), (9, 2)] 2 with activeCall := some 6 }),
               (20, { group .tactical [(9, 1)] 1 with fixed := [9], activeCall := some 4 })]
    calls := [(3, { group := 5, priority := .routine, state := .active, origin := 9, talker := 60012,
                    map := [(9, .granted 1 70000)], created := 70000 }),
              (4, { group := 20, priority := .tactical, state := .active, origin := 9, talker := 60450,
                    map := [(9, .granted 2 70000)], created := 70000 }),
              (6, { group := 11, priority := .routine, state := .active, origin := 7, talker := 60377,
                    map := [(9, .queued 70150 70250)], created := 70000 })]
    radios :=
      [(60012, { record (.registered 9 72000) with groups := [{ group := 5, pending := false }] }),
       (60140, { record (.registered 9 72000) with groups := [{ group := 5, pending := false }, { group := 11, pending := false }] }),
       (60201, { record (.moving 9 14 72000 { tag := 813, readySeen := false, quiescedSeen := false, deadline := 70240 }) with
         groups := [{ group := 5, pending := false }] }),
       (60377, { record (.moving 7 9 72000 { tag := 812, readySeen := true, quiescedSeen := false, deadline := 70230 }) with
         groups := [{ group := 11, pending := false }] }),
       (60450, { record (.presumed 9 .lease 71750) with groups := [{ group := 20, pending := false }] })] }

theorem test_darkening_of_records :
    ((after (.heartbeatExpiry 9) outage).radios.map fun p => p.2.state) =
      [.presumed 9 .siteDark 72000, .presumed 9 .siteDark 72000,
       .moving 9 14 72000 { tag := 813, readySeen := false, quiescedSeen := true, deadline := 70240 },
       .registered 7 72000, .presumed 9 .lease 71750] ∧
    (after (.heartbeatExpiry 9) outage).outbound = [.cancel 7 60377 812] := by decide +kernel

theorem test_darkening_of_counts_and_calls :
    (after (.heartbeatExpiry 9) outage).notices = [{ time := 70200, body := .siteDark 9 false 4 }] ∧
    memberCount (after (.heartbeatExpiry 9) outage) 11 9 = 1 ∧
    ((after (.heartbeatExpiry 9) outage).calls.map fun p => p.2.map) = [[], [], []] := by decide +kernel

/-- The state at 71,000: site 9 DARK, and a STRAINED status from it. -/
def returning : State :=
  { outage with
    partTime := 71000, siteIn := [.status 9 2], calls := []
    sites := [(7, upSite 4), (9, { upSite 3 with state := .dark, voice := 2, capacity := 40 }), (14, upSite 6)]
    radios :=
      [(60012, { record (.presumed 9 .siteDark 72000) with groups := [{ group := 5, pending := false }] }),
       (60140, { record (.presumed 9 .siteDark 72000) with groups := [{ group := 5, pending := false }, { group := 11, pending := false }] }),
       (60450, { record (.presumed 9 .lease 71750) with groups := [{ group := 20, pending := false }] })] }

theorem test_return_restores_the_site_dark_records :
    ((after .siteStatus returning).radios.map fun p => p.2.state) =
      [.registered 9 74000, .registered 9 74000, .presumed 9 .lease 71750] ∧
    (after .siteStatus returning).outbound = [.adopt 9 60012 [5], .adopt 9 60140 [5, 11]] ∧
    (after .siteStatus returning).notices = [{ time := 71000, body := .siteUp 9 .degraded 2 }] ∧
    (tget (after .siteStatus returning).sites 9).map Site.state = some (.degraded 71200) := by decide +kernel

/-! ### Section 1.12: a radio lost and found -/

/-- Unit 40117, PRESUMED at site 7, at 16,805. -/
def losing : State :=
  { service 16805 with
    sites := [(7, upSite 31)]
    groups := [(3, group .routine [(7, 1)] 1), (11, group .routine [(7, 2)] 2)]
    radios := [(40117, { record (.presumed 7 .lease 16805) with
      groups := [{ group := 3, pending := false }, { group := 11, pending := false }] })] }

theorem test_presume_hold_expiry :
    (tget (after (.presumeHoldExpiry 40117) losing).radios 40117).map Radio.state = some (.lost 7) ∧
    (after (.presumeHoldExpiry 40117) losing).outbound = [.drop 7 40117] ∧
    (after (.presumeHoldExpiry 40117) losing).notices = [{ time := 16805, body := .lost 40117 7 false }] ∧
    (tget (after (.presumeHoldExpiry 40117) losing).sites 7).map Site.count = some 30 ∧
    memberCount (after (.presumeHoldExpiry 40117) losing) 3 7 = 0 := by decide +kernel

theorem test_lease_expiry :
    (tget (after (.leaseExpiry 40117) { losing with partTime := 15005, radios := [(40117, record (.registered 7 15005))] }).radios
      40117).map Radio.state = some (.presumed 7 .lease 16805) := by decide +kernel

/-- Section 8.6: the notice of a record that is lost at a full notice queue is dropped, and the record is LOST all the same. -/
theorem test_full_notice_queue :
    let s := { losing with notices := List.replicate 64 { time := 1, body := .siteUp 3 .up 0 } }
    (after (.presumeHoldExpiry 40117) s).notices.length = 64 ∧ (after (.presumeHoldExpiry 40117) s).noticeOverflow = true ∧
      (tget (after (.presumeHoldExpiry 40117) s).radios 40117).map Radio.state = some (.lost 7) := by decide +kernel

/-! ### Section 6.9: a regroup -/

/-- A dispatch request that stands at the head of the queue. -/
def asked (s : State) (kind : Byte) (body : List Byte) : State :=
  { s with requests := [{ rejected := false, kind := kind, body := body }] }

/-- Unit 61300 before the regroup. -/
def regrouping : State :=
  { service 80000 with
    sites := [(7, upSite 20)]
    groups := [(5, group .routine [(7, 6)] 6), (11, group .routine [(7, 3)] 3),
               (20, { group .routine [(12, 1)] 1 with recallState := .active, unreached := 2, activeCall := some 9 })]
    calls := [(9, { group := 20, priority := .routine, state := .active, origin := 12, talker := 61455, map := [], created := 79000 })]
    radios := [(61300, { record (.registered 7 81000) with
      groups := [{ group := 5, pending := false }, { group := 11, pending := false }] })] }

/-- SET-GROUPS of unit 61300 (00EF74 hex), groups (11, 20). -/
def setGroupsAsked : State := asked regrouping 0x34#8 [1, 0x00, 0xEF, 0x74, 2, 11, 20]

theorem test_set_groups :
    (tget (after .setGroups setGroupsAsked).radios 61300).map (fun r => (r.groups, r.regroup)) =
      some ([{ group := 11, pending := false }, { group := 20, pending := true }], .ordered) ∧
    memberCount (after .setGroups setGroupsAsked) 5 7 = 5 ∧ memberCount (after .setGroups setGroupsAsked) 20 7 = 1 ∧
    (tget (after .setGroups setGroupsAsked).groups 20).map Group.unreached = some 3 := by decide +kernel

theorem test_set_groups_orders_and_enters_late :
    (after .setGroups setGroupsAsked).outbound = [.callGrant 7 9 20 1, .regroup 7 61300 [11, 20]] ∧
    (after .setGroups setGroupsAsked).answers = [{ number := 1, kind := 0x34, code := .done, content := .none }] := by
  decide +kernel

/-! ### Section 7.8: an emergency call preempts and queues -/

/-- A call with a map. -/
def callOf (g : Nat) (p : Priority) (map : Table CallStatus) : Call :=
  { group := g, priority := p, state := .active, origin := 9, talker := 1, map := map, created := 90000 }

/-- The state at 90,100. -/
def preempting : State :=
  { service 90100 with
    sites := [(9, { upSite 1 with voice := 2, queue := [6] }), (14, upSite 1)]
    groups := [(5, { group .routine [] 0 with activeCall := some 3 }), (11, { group .routine [] 0 with activeCall := some 6 }),
               (20, { group .tactical [] 0 with activeCall := some 4 }), (30, group .command [(9, 1)] 1),
               (40, group .routine [(9, 1), (14, 1)] 2)]
    calls := [(3, callOf 5 .routine [(9, .granted 1 90010)]), (4, callOf 20 .tactical [(9, .granted 2 90020), (14, .granted 1 90020)]),
              (6, callOf 11 .routine [(9, .queued 90050 90150)])]
    radios := [(60012, { record (.registered 9 92000) with emergency := some { since := 90000, site := 9 } })]
    siteIn := [.callRequest 9 40 60012] }

theorem test_emergency_call_preempts :
    (after .callRequest preempting).outbound =
      [.callAnswer 9 .accepted 1 2, .callDrop 9 3 1, .callGrant 9 1 40 1, .callGrant 14 1 40 2] ∧
    (after .callRequest preempting).notices = [{ time := 90100, body := .callPreempted 3 5 9 1 }] ∧
    callStatus (after .callRequest preempting) 3 9 = some .busyOut := by decide +kernel

theorem test_call_is_queued_by_priority :
    let s := { preempting with partTime := 90120, siteIn := [.callRequest 9 30 70001] }
    (after .callRequest s).outbound = [.callAnswer 9 .accepted 1 0] ∧
    callStatus (after .callRequest s) 1 9 = some (.queued 90120 90220) ∧
    channelQueue (after .callRequest s) 9 = [1, 6] := by decide +kernel

/-- Call 4 in HANG, and call 2 queued ahead of call 6, at 90,140. -/
def ending : State :=
  { preempting with
    partTime := 90140, siteIn := []
    sites := [(9, { upSite 1 with voice := 2, queue := [6, 2] }), (14, upSite 1)]
    calls := [(2, callOf 30 .command [(9, .queued 90120 90220)]),
              (4, { callOf 20 .tactical [(9, .granted 2 90020), (14, .granted 1 90020)] with state := .hang 90140 }),
              (6, callOf 11 .routine [(9, .queued 90050 90150)])] }

theorem test_end_of_call_hands_on :
    (after (.hangExpiry 4) ending).outbound = [.callDrop 9 4 2, .callGrant 9 2 30 2, .callDrop 14 4 1] ∧
    tget (after (.hangExpiry 4) ending).calls 4 = none ∧ joinedQueue (after (.hangExpiry 4) ending) 9 = [6] := by decide +kernel

theorem test_queue_hold_expiry :
    let s := { ending with partTime := 90150 }
    callStatus (after (.queueHoldExpiry 9 6) s) 6 9 = some .busyOut ∧ joinedQueue (after (.queueHoldExpiry 9 6) s) 9 = [2] := by
  decide +kernel

/-! ### Section 9.6: paging through the lost radios -/

/-- The engine before the visit of 42008, its page of two full. -/
def paging : State :=
  { service 96000 with
    radios := [(40117, record (.lost 7)), (40911, record (.lost 22)), (41300, record (.presumed 9 .lease 97000)),
               (42008, { record (.lost 14) with emergency := some { since := 1, site := 14 } }), (43550, record (.retired 9 1 97000))]
    bulk := some {
      op := .roster (.cls (.inState .lost)) 0 2, suspended := false, cursor := 41300, visited := 5,
      counters := { c1 := 2, c2 := 0, c3 := 0, c4 := 0 }, page := [⟨40117, .lost, 7, false⟩, ⟨40911, .lost, 22, false⟩],
      more := false, roomWait := false, gap := false } }

theorem test_roster_completes_with_more :
    (after .bulkStep paging).notices = [{
      time := 96000
      body := .bulkDone { op := .roster (.cls (.inState .lost)) 0 2, completed := true, visited := 6,
                          counters := { c1 := 2, c2 := 0, c3 := 0, c4 := 0 } }
        (some (true, 0, [⟨40117, .lost, 7, false⟩, ⟨40911, .lost, 22, false⟩])) }] ∧
    (after .bulkStep paging).bulk = none := by decide +kernel

/-! ### Premises that can be met: helpers -/

/-- A request frame that was received whole. -/
def frame (kind : Byte) (body : List Byte) : RequestEntry := { rejected := false, kind := kind, body := body }

/-- A request at the head of a queue is ready to be taken while no answer waits. -/
theorem ready_asked {s : State} {kind : Byte} {body : List Byte} {q : Request} (h : requestOf kind body = some q)
    (ha : s.answers = []) : requestReady (asked s kind body) (frame kind body) [] q :=
  ⟨rfl, h, by simp [asked, ha], by simp [asked, ha]⟩

theorem room_of {s : State} (h : hasRoom s 1 = true) : roomForOne s := (roomForOne_iff s).2 h

/-- A state in which every kind of state is in use: two records, one of them in a handover, two calls, one of them queued, a
recall that runs, and the READY that completes the handover. -/
def busy : State :=
  { service 1000 with
    sites := [(7, { upSite 2 with voice := 1, queue := [2] }), (9, upSite 1)]
    groups := [(5, { group .routine [(7, 2), (9, 1)] 2 with recallState := .active, unreached := 1, activeCall := some 1 }),
               (6, { group .routine [] 0 with activeCall := some 2 })]
    calls := [(1, callOf 5 .routine [(7, .granted 1 900)]), (2, callOf 6 .routine [(7, .queued 900 1100)])]
    radios := [(1, { record (.registered 7 2000) with
                  groups := [{ group := 5, pending := true }], hearing := [heardAt 7 20 900] }),
               (2, { record (.moving 7 9 2000 { tag := 4, readySeen := false, quiescedSeen := true, deadline := 1040 }) with
                  groups := [{ group := 5, pending := false }], hearing := [heardAt 9 30 950, heardAt 7 20 900] })]
    bulk := some (startedAt (.recallGroup 5) 0)
    siteIn := [.ready 9 2 4]
    pending := [.ready] }

theorem busy_steps : ∃ t, step busy = .next t ∧ t.outbound = [.commit 9 2 4, .commit 7 2 4] := ⟨_, rfl, by decide +kernel⟩

/-! ### Premises that can be met: the machine and its invariants -/

theorem witness_StepRunsTheFrontCommand : busy.pending = .ready :: [] := rfl

/-- An empty queue: no deadline reached up to the tick before the last part time; and each kind of deadline just reached. -/
theorem witness_IdleStep_tick :
    (service 4294967294).pending = [] ∧ dueCommands (service 4294967294) = [] ∧ (service 4294967294).partTime + 1 < 4294967296 := by
  decide +kernel

/-- A record for each deadline that a record has, a site and a call, all with deadlines at 500. -/
def dueAt500 (t : Nat) : State :=
  { service t with
    sites := [(9, { upSite 0 with state := .degraded 500 })]
    calls := [(3, { callOf 5 .routine [(9, .queued 400 500)] with state := .hang 500 })]
    radios := [(1, { record .joining with burst := some (newBurst (service 495) 9 1 false none none) }),
               (2, record (.moving 9 7 500 { tag := 1, readySeen := false, quiescedSeen := false, deadline := 500 })),
               (3, record (.registered 9 500)), (4, record (.presumed 9 .lease 500)), (5, record (.retired 9 1 500))] }

theorem witness_IdleStep_due :
    Ascending (dueAt500 500).radios ∧ Ascending (dueAt500 500).sites ∧ Ascending (dueAt500 500).calls ∧
    (∀ p ∈ (dueAt500 500).calls, Ascending p.2.map) ∧ (dueAt500 500).pending = [] ∧
    dueCommands (dueAt500 500) = [.settleExpiry 1, .handoverDeadlineExpiry 2, .leaseExpiry 2, .leaseExpiry 3,
      .presumeHoldExpiry 4, .retireHoldExpiry 5, .heartbeatExpiry 9, .hangExpiry 3, .queueHoldExpiry 9 3] ∧
    dueCommands (dueAt500 499) = [] := by decide +kernel

theorem witness_SiteSideCommandsKeepTheRest :
    takesSiteFrame .ready = true ∧ isExpiry (.hangExpiry 4) = true ∧ exec .ready busy = .next (after .ready busy) ∧
    exec (.hangExpiry 4) ending = .next (after (.hangExpiry 4) ending) ∧ exec .bulkStep paging = .next (after .bulkStep paging) :=
  ⟨rfl, rfl, rfl, rfl, rfl⟩

theorem witness_RequestsKeepTheRest :
    (Request.setGroups 61300 [11, 20]) ≠ .restart ∧
    exec (takenBy (.setGroups 61300 [11, 20])) setGroupsAsked = .next (after .setGroups setGroupsAsked) := ⟨by decide, rfl⟩

theorem witness_StepKeepsQueueBounds : PortsBounded busy ∧ ∃ t, step busy = .next t := ⟨by unfold PortsBounded; decide, _, rfl⟩
theorem witness_StepKeepsDirectory : DirectoryOk busy ∧ ∃ t, step busy = .next t :=
  ⟨by unfold DirectoryOk; decide +kernel, _, rfl⟩
theorem witness_StepKeepsOutboundLimit : OutboundOk busy ∧ ∃ t, step busy = .next t :=
  ⟨by unfold OutboundOk; decide +kernel, _, rfl⟩
theorem busy_quiet : ConfigQuiet busy := fun h => nomatch h
theorem witness_StepKeepsRegistrationCounts : CountsAgree busy ∧ ∃ t, step busy = .next t :=
  ⟨⟨by decide +kernel, by decide +kernel, busy_quiet, by decide +kernel⟩, _, rfl⟩
theorem busy_records : RecordsOk busy := by
  refine ⟨by decide +kernel, ?_⟩
  intro p hp
  simp only [busy, List.mem_cons, List.not_mem_nil, or_false] at hp
  rcases hp with rfl | rfl <;> simp [recordOk, record, countedSites, servingSite, pendingSite, heardAt, groupNumbers]
theorem witness_StepKeepsRecordShapes : RecordsOk busy ∧ ∃ t, step busy = .next t := ⟨busy_records, _, rfl⟩
theorem witness_StepKeepsMemberCounts : MembersAgree busy ∧ ∃ t, step busy = .next t := by
  refine ⟨⟨busy_records, by decide +kernel, busy_quiet, ?_⟩, _, rfl⟩
  intro p hp
  simp only [busy, List.mem_cons, List.not_mem_nil, or_false] at hp
  rcases hp with rfl | rfl
  · refine ⟨by decide +kernel, by decide +kernel, fun n => ?_⟩
    by_cases h7 : n = 7
    · subst h7; decide +kernel
    · by_cases h9 : n = 9
      · subst h9; decide +kernel
      · have h7' : ¬7 = n := fun h => h7 h.symm
        have h9' : ¬9 = n := fun h => h9 h.symm
        simp [memberCount, membersAt, busy, tget, group, record, servingSite, pendingSite, groupNumbers, h7, h9, h7', h9']
  · refine ⟨by decide +kernel, by decide +kernel, fun n => ?_⟩
    simp [memberCount, membersAt, busy, tget, group, record, servingSite, pendingSite, groupNumbers]
theorem witness_StepKeepsUnreachedCounts : RecallsAgree busy ∧ ∃ t, step busy = .next t := by
  refine ⟨⟨by unfold DirectoryOk; decide +kernel, busy_records, by decide +kernel, busy_quiet, by decide +kernel, ?_, ?_⟩, _, rfl⟩
  · intro b g hb hg x hx
    obtain rfl : startedAt (.recallGroup 5) 0 = b := by simpa [busy] using hb
    obtain rfl : 5 = g := by simpa [startedAt] using hg
    obtain rfl := Option.some.inj (hx.symm.trans (show tget busy.groups 5 = some _ from rfl))
    rfl
  · intro b g hb hg
    obtain rfl : startedAt (.recallGroup 5) 0 = b := by simpa [busy] using hb
    simp [startedAt] at hg
theorem busy_call_table : CallTableOk busy := by
  refine ⟨by decide +kernel, by decide +kernel, busy_quiet, by decide +kernel, ?_, ?_⟩
  · intro p hp
    simp only [busy, List.mem_cons, List.not_mem_nil, or_false] at hp
    rcases hp with rfl | rfl <;> exact ⟨_, rfl, rfl⟩
  · intro p hp c hc
    simp only [busy, List.mem_cons, List.not_mem_nil, or_false] at hp
    rcases hp with rfl | rfl
    · obtain rfl : 1 = c := by simpa using hc
      exact ⟨_, rfl, rfl⟩
    · obtain rfl : 2 = c := by simpa using hc
      exact ⟨_, rfl, rfl⟩
theorem witness_StepKeepsCallTable : CallTableOk busy ∧ ∃ t, step busy = .next t := ⟨busy_call_table, _, rfl⟩
theorem witness_StepKeepsChannelsAndQueues : ChannelsAgree busy ∧ ∃ t, step busy = .next t := by
  refine ⟨⟨busy_call_table, by decide +kernel, by decide +kernel, ?_⟩, _, rfl⟩
  intro p hp
  simp only [busy, List.mem_cons, List.not_mem_nil, or_false] at hp
  have hq : ∀ n c, queuedAt busy c n ↔ c = 2 ∧ n = 7 := by
    intro n c
    by_cases h1 : c = 1
    · subst h1; by_cases h7 : n = 7 <;> simp [queuedAt, callStatus, busy, tget, callOf, h7]
    · by_cases h2 : c = 2
      · subst h2; by_cases h7 : n = 7 <;> simp [queuedAt, callStatus, busy, tget, callOf, h7]
      · simp [queuedAt, callStatus, busy, tget, h1, h2]
  rcases hp with rfl | rfl
  · exact ⟨by decide +kernel, by decide +kernel, by decide +kernel, by decide +kernel, fun c => by rw [hq]; simp, by decide +kernel⟩
  · exact ⟨by decide +kernel, by decide +kernel, by decide +kernel, by decide +kernel, fun c => by rw [hq]; simp [upSite],
      by decide +kernel⟩

/-! ### Premises that can be met: ports -/

/-- The shortest and the longest body, and noise without the start byte. -/
theorem witness_FramesAreReceivedAsSent :
    2 ≤ [9#8, 1#8].length ∧ (List.replicate 250 (0 : Byte)).length ≤ 250 ∧ startByte ∉ ([0x00, 0xFF, 0xA4] : List Byte) := by
  decide +kernel

/-- The Site Port's inbound queue with n frames. -/
def siteQueue (n : Nat) : State := { service 1 with siteIn := List.replicate n (.status 1 1) }

theorem witness_SiteFramesEnterOrAreDiscarded :
    (siteQueue 127).siteRx = .hunting ∧ siteMessage 0x08#8 [9, 1] = some (.status 9 1) ∧ (siteQueue 127).siteIn.length < 128 ∧
    128 ≤ (siteQueue 128).siteIn.length ∧ siteMessage 0x42#8 (List.replicate 250 0) = none ∧
    [0x00#8, 0x00#8] ≠ checkBytes (byte 2 :: 0x08#8 :: [9, 1]) ∧ (1#8).toNat < 2 ∧ 250 < (251#8).toNat := by decide +kernel

/-- The Dispatch Port with n requests and m answers waiting. -/
def requestQueue (n m : Nat) : State :=
  { service 1 with
    requests := List.replicate n (frame 0x19 [1, 0])
    answers := List.replicate m { number := 1, kind := 0x19, code := .done, content := .none } }

theorem witness_RequestFramesEnterOrAreAnsweredFull :
    (requestQueue 15 0).dispatchRx = .hunting ∧ (requestQueue 15 32).requests.length < 16 ∧
    [0x00#8, 0x00#8] ≠ checkBytes (byte 2 :: 0x19#8 :: [1, 0]) ∧ (0#8).toNat < 2 ∧ 250 < (255#8).toNat ∧
    16 ≤ (requestQueue 16 31).requests.length ∧ (requestQueue 16 31).answers.length < 32 ∧
    16 ≤ (requestQueue 16 32).requests.length ∧ 32 ≤ (requestQueue 16 32).answers.length := by decide +kernel

theorem witness_SentFramesLeaveTheirQueues :
    ({ busy with siteResidue := some (.drop 7 1) } : State).siteResidue = some (.drop 7 1) ∧
    (busy.siteResidue = none ∧ ({ busy with outbound := [.drop 7 1] } : State).outbound = .drop 7 1 :: []) ∧
    (busy.siteResidue = none ∧ busy.outbound = []) ∧
    (∃ a rest, (requestQueue 0 1).answers = a :: rest) ∧ busy.answers = [] := ⟨rfl, ⟨rfl, rfl⟩, ⟨rfl, rfl⟩, ⟨_, _, rfl⟩, rfl⟩

/-! ### Premises that can be met: reports -/

theorem witness_RefusedReportsOnlyGetTheirReceipt :
    let at_ (n : Nat) : State := { service 1 with siteIn := [.heard n 5 1 20] }
    let site (st : SiteState) : State := { at_ 48 with sites := [(48, { upSite 0 with state := st })] }
    reportHead (.heard 48 5 1 20) = some (.heard, 48, 5, 1) ∧ roomForOne (at_ 48) ∧
    ({ at_ 1 with phase := .config } : State).phase = .config ∧
    ((at_ 0).phase = .service ∧ wfSite 0 = false) ∧ ((at_ 49).phase = .service ∧ wfSite 49 = false) ∧
    ((at_ 48).phase = .service ∧ tget (at_ 48).sites 48 = none) ∧
    (wfSite 48 = true ∧ ∃ x, tget (site .down).sites 48 = some x ∧ x.state = .down) ∧
    (wfSite 48 = true ∧ ∃ x, tget (site .dark).sites 48 = some x ∧ x.state = .dark) :=
  ⟨rfl, room_of (by decide +kernel), rfl, ⟨rfl, rfl⟩, ⟨rfl, rfl⟩, ⟨rfl, rfl⟩, ⟨rfl, _, rfl, rfl⟩, ⟨rfl, _, rfl, rfl⟩⟩

/-- A site's report at the head, site 7 UP. -/
def reporting (m : SiteMsg) (radios : Table Radio) : State :=
  { service 1000 with sites := [(7, upSite 1)], radios := radios, siteIn := [m] }

theorem reporting_admitted (m : SiteMsg) (radios : Table Radio) : admitted (reporting m radios) 7 :=
  ⟨rfl, rfl, _, rfl, rfl⟩

theorem witness_CopiesOfAbsentUnitsCreateRecords :
    let s1 := reporting (.reg 7 1 0 true 63 [5]) []
    let s2 := reporting (.emerg 7 16777215 15 0) [(1, record (.lost 7))]
    (roomForOne s1 ∧ admitted s1 7 ∧ tget s1.radios 1 = none ∧ s1.radios.length < 2048) ∧
    (roomForOne s2 ∧ admitted s2 7 ∧ tget s2.radios 16777215 = none ∧ s2.radios.length < 2048) :=
  ⟨⟨room_of (by decide +kernel), reporting_admitted _ _, rfl, by decide⟩,
   ⟨room_of (by decide +kernel), reporting_admitted _ _, rfl, by decide⟩⟩

/-- Distances 1 and 8 from last sequence 9: sequences 10 and 1. -/
theorem witness_NewerHeardOpensABurst :
    let s := reporting (.heard 7 5 1 20) [(5, record (.registered 7 2000))]
    roomForOne s ∧ admitted s 7 ∧ (∃ r, tget s.radios 5 = some r ∧ stateName r.state ≠ .retired ∧ r.burst = none ∧
      1 ≤ (10 + 16 - r.lastSeq) % 16 ∧ 1 ≤ (1 + 16 - r.lastSeq) % 16 ∧ (1 + 16 - r.lastSeq) % 16 ≤ 8) :=
  ⟨room_of (by decide +kernel), reporting_admitted _ _, _, rfl, by decide, rfl, by decide, by decide, by decide⟩

theorem witness_SameHeardMergesOrIsLate :
    let s (r : Radio) := reporting (.heard 7 5 9 20) [(5, r)]
    let base := record (.registered 7 2000)
    let open_ (l : List Nat) : Radio :=
      { base with burst := some { newBurst (service 1) 9 9 false none none with sites := l } }
    let closed (l : List Nat) : Radio := { base with prev := some { seq := 9, sites := l, openedAt := 990 } }
    roomForOne (s base) ∧ admitted (s base) 7 ∧ stateName base.state ≠ .retired ∧ (9 + 16 - base.lastSeq) % 16 = 0 ∧
    (∃ b, (open_ [9]).burst = some b ∧ 7 ∉ b.sites) ∧ (∃ b, (open_ [9, 7]).burst = some b ∧ 7 ∈ b.sites) ∧
    (∃ p, (closed [9]).burst = none ∧ (closed [9]).prev = some p ∧ p.seq = 9 ∧ 7 ∉ p.sites) ∧
    (∃ p, (closed [7]).burst = none ∧ (closed [7]).prev = some p ∧ p.seq = 9 ∧ 7 ∈ p.sites) ∧
    (base.burst = none ∧ base.prev = none) :=
  ⟨room_of (by decide +kernel), reporting_admitted _ _, by decide, by decide, ⟨_, rfl, by decide⟩, ⟨_, rfl, by decide⟩,
   ⟨_, rfl, rfl, rfl, by decide⟩, ⟨_, rfl, rfl, rfl, by decide⟩, ⟨rfl, rfl⟩⟩

/-- Distances 9 and 15 from last sequence 9: sequences 2 and 8. A full Directory without a RETIRED record. -/
theorem witness_UnusableReportsOnlyGetTheirReceipt :
    let s := reporting (.heard 7 5 2 20) [(5, record (.lost 7))]
    let full := reporting (.reg 7 5000 1 false 20 []) ((List.range 2048).map fun u => (u + 1, record (.lost 7)))
    roomForOne s ∧ admitted s 7 ∧
    (∃ r, tget s.radios 5 = some r ∧ stateName r.state ≠ .retired ∧ 9 ≤ (2 + 16 - r.lastSeq) % 16 ∧ 9 ≤ (8 + 16 - r.lastSeq) % 16) ∧
    tget s.radios 6 = none ∧
    (roomForOne full ∧ admitted full 7 ∧ tget full.radios 5000 = none ∧ 2048 ≤ full.radios.length ∧
      ∀ p ∈ full.radios, stateName p.2.state ≠ .retired) :=
  ⟨room_of (by decide +kernel), reporting_admitted _ _, ⟨_, rfl, by decide, by decide, by decide⟩, rfl,
   room_of (by decide +kernel), reporting_admitted _ _, by decide +kernel, by decide +kernel, by decide +kernel⟩

theorem witness_DeregRetiresOrIsHeld :
    let s (r : Radio) := reporting (.dereg 7 5 10) [(5, r)]
    let r (st : RecordState) : Radio := { record st with groups := [{ group := 3, pending := true }] }
    let inEmergency : Radio := { record (.registered 7 2000) with emergency := some { since := 1, site := 7 } }
    roomForOne (s (r (.registered 7 2000))) ∧ admitted (s (r (.registered 7 2000))) 7 ∧
    ((r (.registered 7 2000)).burst = none ∧ (∃ l, (r (.registered 7 2000)).state = .registered 7 l) ∧
      (r (.registered 7 2000)).emergency = none) ∧
    (∃ y h, (r (.presumed 7 .lease 2000)).state = .presumed 7 y h) ∧
    (1 ≤ (10 + 16 - 9) % 16 ∧ (10 + 16 - 9) % 16 ≤ 8) ∧
    (roomForOne (s inEmergency) ∧ admitted (s inEmergency) 7 ∧ inEmergency.burst = none ∧ inEmergency.emergency.isSome = true) :=
  ⟨room_of (by decide +kernel), reporting_admitted _ _, ⟨rfl, ⟨_, rfl⟩, rfl⟩, ⟨_, _, rfl⟩, by decide,
   room_of (by decide +kernel), reporting_admitted _ _, rfl, rfl⟩

theorem witness_EmergReceiptDeliversTheRecall :
    let r : Radio := { record (.presumed 7 .lease 2000) with
      groups := [{ group := 3, pending := true }, { group := 5, pending := false }], regroup := .ordered }
    let s := reporting (.emerg 7 5 1 20) [(5, r)]
    roomForOne s ∧ admitted s 7 ∧ tget s.radios 5 = some r ∧ stateName r.state ≠ .retired ∧ r.burst = none ∧
    1 ≤ (1 + 16 - r.lastSeq) % 16 ∧ (1 + 16 - r.lastSeq) % 16 ≤ 8 :=
  ⟨room_of (by decide +kernel), reporting_admitted _ _, rfl, by decide, rfl, by decide, by decide⟩

/-! ### Premises that can be met: handovers -/

/-- A record in flight from 7 to 9 with tag 4, and a frame from one of the two. -/
def flying (ready quiesced : Bool) (m : SiteMsg) : State :=
  { service 1000 with
    sites := [(7, upSite 2), (9, upSite 1)]
    radios := [(2, record (.moving 7 9 2000 { tag := 4, readySeen := ready, quiescedSeen := quiesced, deadline := 1000 }))]
    siteIn := [m] }

theorem flying_admits (a b : Bool) (m : SiteMsg) : admitted (flying a b m) 7 ∧ admitted (flying a b m) 9 :=
  ⟨⟨rfl, rfl, _, rfl, rfl⟩, ⟨rfl, rfl, _, rfl, rfl⟩⟩

theorem witness_HandoverAnswersSetFlagsAndCommit :
    (∀ ready quiesced : Bool, ∃ r k, roomForOne (flying ready quiesced (.ready 9 2 4)) ∧
      tget (flying ready quiesced (.ready 9 2 4)).radios 2 = some r ∧ r.state = .moving 7 9 2000 k ∧ k.tag = 4 ∧
      k.readySeen = ready ∧ k.quiescedSeen = quiesced) ∧
    tget (flying false false (.ready 9 3 4)).radios 3 = none :=
  ⟨fun a b => ⟨_, _, room_of (by cases a <;> cases b <;> decide +kernel), rfl, rfl, rfl, rfl, rfl⟩, rfl⟩

theorem witness_DeclineAndDeadlineUnwindHandovers :
    let s := flying true false (.decline 9 2 4 1)
    (∃ r k, tget s.radios 2 = some r ∧ r.state = .moving 7 9 2000 k ∧ k.tag = 4 ∧ k.deadline ≤ s.partTime) ∧ roomForOne s ∧
    admitted s 9 ∧ siteWorks s 7 = true ∧ siteWorks { s with sites := [(7, { upSite 2 with state := .dark })] } 7 = false :=
  ⟨⟨_, _, rfl, rfl, rfl, by decide +kernel⟩, room_of (by decide +kernel), (flying_admits _ _ _).2, rfl, rfl⟩

/-! ### Premises that can be met: selection, bursts and deadlines -/

theorem witness_ScoresFollowTheRule : (63 ≤ 63 ∧ (-8 : Int) ≤ -8 ∧ (-8 : Int) ≤ 7 ∧ 16 ≤ 16 ∧ 8 ≤ 8) ∧ (-8 : Int) ≤ 7 := by decide

theorem witness_HearingListUpdates :
    let l := [heardAt 7 24 49600, heardAt 12 18 49100, heardAt 9 15 48300, heardAt 20 11 48300]
    l.length ≤ 4 ∧ (l.map Hearing.site).Nodup ∧ l.Pairwise (fun x y => y.heard ≤ x.heard) ∧ 14 ∉ l.map Hearing.site ∧
    (∃ old ∈ l, old.site = 9) ∧ (∃ h ∈ l, h.site ≠ 14 ∧ h.site ∈ countedSites (.registered 7 1)) := by decide +kernel

/-- A settle deadline just reached, in each state that keeps its record. -/
theorem witness_SettleClosesTheBurst :
    let s (st : RecordState) : State :=
      { service 1000 with radios := [(5, { record st with burst := some (newBurst (service 995) 7 9 false none none) })] }
    (∃ r b, tget (s (.registered 7 2000)).radios 5 = some r ∧ r.burst = some b ∧ b.settle ≤ 1000 ∧ servingSite r.state ≠ none) ∧
    (∃ r b, tget (s (.lost 7)).radios 5 = some r ∧ r.burst = some b ∧ b.settle ≤ 1000 ∧ stateName r.state = .lost) ∧
    (∃ r b k, tget (s (.moving 7 9 2000 { tag := 1, readySeen := false, quiescedSeen := false, deadline := 2000 })).radios 5 = some r ∧
      r.burst = some b ∧ b.settle ≤ 1000 ∧ r.state = .moving 7 9 2000 k ∧ b.reported = none ∧ b.emergency = none) :=
  ⟨⟨_, _, rfl, rfl, by decide, by decide⟩, ⟨_, _, rfl, rfl, by decide, rfl⟩, ⟨_, _, _, rfl, rfl, by decide, rfl, rfl, rfl⟩⟩

theorem witness_SettleStartsAHandover :
    Ascending deciding.radios ∧ ∃ r b, tget deciding.radios 52006 = some r ∧ r.state = .registered 7 53005 ∧ r.burst = some b ∧
      b.settle ≤ deciding.partTime ∧ b.reported = none ∧ b.emergency = none ∧
      handoverDecision deciding b.settle b.sites 7 r.hearing = some 14 :=
  ⟨by decide +kernel, _, _, rfl, rfl, rfl, by decide +kernel, rfl, rfl, by decide +kernel⟩

theorem witness_HandoverDecisionConditions :
    (unit52006Second.hearing.map Hearing.site).Nodup ∧
    handoverDecision deciding 51405 [14] 7 unit52006Second.hearing = some 14 := by decide +kernel

/-- The close of a JOINING record with a site that can take it at count 254 and none at 255; of a PRESUMED record at its own site and
at another; and of a LOST record, with room for both directives and with an outbound queue at the ordinary limit. -/
theorem witness_AdoptionPlacesTheRecord :
    let s (st : RecordState) (n : Nat) (out : List SiteOut) : State :=
      { service 1000 with
        sites := [(7, upSite n), (9, upSite 1)], outbound := out
        radios := [(5, { newRecord (service 995) 7 3 40 (newBurst (service 995) 7 3 false (some [5]) (some 7)) with state := st })] }
    (∀ st n out, ∃ r b, Ascending (s st n out).radios ∧ tget (s st n out).radios 5 = some r ∧ r.state = st ∧ r.burst = some b ∧
      b.settle ≤ (s st n out).partTime ∧ b.reported = some [5] ∧ b.emergency = some 7 ∧ r.emergency = none ∧ r.groups = [] ∧
      (r.hearing.map Hearing.site).Nodup) ∧
    adoptionChoice (s .joining 254 []) 1000 [7] .joining [heardAt 7 40 995] = some 7 ∧
    adoptionChoice (s .joining 255 []) 1000 [7] .joining [heardAt 7 40 995] = none ∧
    adoptionChoice (s (.presumed 7 .lease 2000) 255 []) 1000 [7] (.presumed 7 .lease 2000) [heardAt 7 40 995] = some 7 ∧
    adoptionChoice (s (.presumed 9 .lease 2000) 64 []) 1000 [7] (.presumed 9 .lease 2000) [heardAt 7 40 995] = some 7 ∧
    adoptionChoice (s (.lost 9) 64 []) 1000 [7] (.lost 9) [heardAt 7 40 995] = some 7 ∧
    noActiveCalls (s (.lost 9) 64 []) ∧ countsAscend (s (.lost 9) 64 []) ∧
    ((s (.lost 9) 64 []).outbound.length + 2 ≤ 448 ∧
      (s (.lost 9) 64 []).outbound.length + 2 * movingCount (s (.lost 9) 64 []) + 2 ≤ 512 ∧ (s (.lost 9) 64 []).notices.length + 3 ≤ 64) ∧
    ¬((s (.lost 9) 64 (List.replicate 448 (.drop 7 1))).outbound.length + 1 ≤ 448) := by
  refine ⟨fun st n out => ⟨_, _, ?_, rfl, rfl, rfl, Nat.le_refl 1000, rfl, rfl, rfl, rfl, ?_⟩, by decide +kernel, by decide +kernel,
    by decide +kernel, by decide +kernel, by decide +kernel, by simp [noActiveCalls, service, State.reset],
    by simp [countsAscend, service, State.reset], by decide +kernel, by decide +kernel⟩
  · simp [Ascending, tkeys]
  · simp [newRecord]

theorem witness_LeaseExpiryPresumes :
    let s (st : RecordState) : State := { service 2000 with sites := [(7, upSite 1), (9, upSite 1)], radios := [(5, record st)] }
    (∃ r, tget (s (.registered 7 2000)).radios 5 = some r ∧ r.state = .registered 7 2000 ∧ 2000 ≤ (s (.lost 7)).partTime) ∧
    (∃ r k, tget (s (.moving 7 9 2000 { tag := 1, readySeen := false, quiescedSeen := false, deadline := 3000 })).radios 5 = some r ∧
      r.state = .moving 7 9 2000 k) := ⟨⟨_, rfl, rfl, by decide⟩, ⟨_, _, rfl, rfl⟩⟩

theorem witness_HoldExpiriesLoseAndFree :
    (Ascending losing.radios ∧ ∃ r, tget losing.radios 40117 = some r ∧ r.state = .presumed 7 .lease 16805 ∧
      16805 ≤ losing.partTime ∧ siteWorks losing 7 = true ∧ losing.outbound.length + 1 ≤ 448 ∧ roomForOne losing ∧
      losing.notices.length < 64) ∧
    siteWorks { losing with sites := [] } 7 = false ∧
    (∃ r, tget paging.radios 43550 = some r ∧ r.state = .retired 9 1 97000 ∧ ∀ m ∈ r.groups, m.pending = false) :=
  ⟨⟨by decide +kernel, _, rfl, rfl, by decide, rfl, by decide, room_of (by decide +kernel), by decide⟩, rfl,
   ⟨_, rfl, rfl, by decide⟩⟩

/-! ### Premises that can be met: sites -/

theorem witness_StatusesMoveTheSiteState :
    let s (st : SiteState) (c : Nat) : State :=
      { service 1000 with
        sites := [(48, { upSite 1 with state := st })], siteIn := [.status 48 c]
        radios := [(5, record (.presumed 48 .siteDark 2000))] }
    wfSite 48 = true ∧ (∃ x, tget (s (.up 1000) 1).sites 48 = some x ∧ x.state = .up 1000) ∧
    (∃ x, tget (s (.degraded 1001) 2).sites 48 = some x ∧ x.state = .degraded 1001) ∧
    (∃ x, tget (s .down 1).sites 48 = some x ∧ x.state = .down ∧ (s .down 1).notices.length < 64) ∧
    (∃ x, tget (s .dark 1).sites 48 = some x ∧ x.state = .dark ∧ Ascending (s .dark 1).radios) :=
  ⟨rfl, ⟨_, rfl, rfl⟩, ⟨_, rfl, rfl⟩, ⟨_, rfl, rfl, by decide⟩, ⟨_, rfl, rfl, by decide +kernel⟩⟩

theorem witness_SilentOrFailingSitesGoDark :
    (Ascending outage.radios ∧ Ascending outage.calls ∧ (∀ p ∈ outage.calls, Ascending p.2.map)) ∧
    (∃ x, tget outage.sites 9 = some x ∧ x.state = .up 70200 ∧ 70200 ≤ outage.partTime) ∧
    (∃ x, tget { outage with siteIn := [.status 9 3] : State }.sites 9 = some x ∧ x.state = .up 70200 ∧ wfSite 9 = true ∧
      outage.phase = .service) ∧
    siteWorks outage 7 = true :=
  ⟨by decide +kernel, ⟨_, rfl, rfl, by decide⟩, ⟨_, rfl, rfl, rfl, rfl⟩, rfl⟩

/-! ### Premises that can be met: calls -/

theorem witness_CallRequestCreatesACall :
    roomForOne preempting ∧ admitted preempting 9 ∧ wfGroup 40 = true ∧
    (∃ x, tget preempting.groups 40 = some x ∧ x.activeCall = none) ∧ preempting.calls.length < 32 :=
  ⟨room_of (by decide +kernel), ⟨rfl, rfl, _, rfl, rfl⟩, rfl, ⟨_, rfl, rfl⟩, by decide⟩

theorem witness_CallsHangAndEnd :
    let s : State := { preempting with siteIn := [.callEnd 9 3] }
    (∃ x, tget s.calls 3 = some x ∧ Ascending s.calls ∧ admitted s 9 ∧ wfCall 3 = true ∧ x.state = .active ∧ x.origin = 9 ∧
      s.params.callHang ≠ 0 ∧ ({ s with params := { s.params with callHang := 0 } } : State).params.callHang = 0) ∧
    (∃ x, tget ending.calls 4 = some x ∧ x.state = .hang 90140 ∧ 90140 ≤ ending.partTime) ∧
    requestReady (asked ending 0x36 [1, 4]) (frame 0x36 [1, 4]) [] (.forceEnd 4) :=
  ⟨⟨_, rfl, by decide +kernel, ⟨rfl, rfl, _, rfl, rfl⟩, rfl, rfl, rfl, by decide, rfl⟩, ⟨_, rfl, rfl, by decide⟩,
   ready_asked (by decide +kernel) rfl⟩

theorem witness_QueueHoldExpiryMakesBusyOut :
    callStatus { ending with partTime := 90150 } 6 9 = some (.queued 90050 90150) := by decide +kernel

theorem witness_ArbitrationGrantsTheLowestFreeChannel :
    (∃ x z, tget regrouping.calls 9 = some x ∧ tget regrouping.sites 7 = some z ∧ 1 ≤ z.voice) ∧ 1 ∉ channelsHeld regrouping 7 ∧
    roomForOne regrouping ∧ ¬roomForOne { regrouping with outbound := List.replicate 512 (.drop 7 1) } ∧
    (∃ x z, tget preempting.calls 6 = some x ∧ tget preempting.sites 14 = some z ∧ 4 ≤ z.voice) ∧
    2 ∉ channelsHeld preempting 14 ∧ 1 ∈ channelsHeld preempting 14 :=
  ⟨⟨_, _, rfl, rfl, by decide⟩, by decide +kernel, room_of (by decide +kernel),
   fun h => absurd ((roomForOne_iff _).1 h) (by decide +kernel), ⟨_, _, rfl, rfl, by decide⟩, by decide +kernel, by decide +kernel⟩

/-! ### Premises that can be met: bulk operations -/

theorem witness_BulkRequestsStartWhenIdle :
    outage.phase = .service ∧ outage.bulk = none ∧
    requestReady (asked outage 0x51 [1, 0, 3, 9, 0, 0, 0, 32]) (frame 0x51 [1, 0, 3, 9, 0, 0, 0, 32]) [] (.roster false 3 9 0 32) ∧
    requestReady (asked outage 0x51 [1, 1, 3, 9, 0, 0, 0, 33]) (frame 0x51 [1, 1, 3, 9, 0, 0, 0, 33]) [] (.roster true 3 9 0 33) ∧
    (wfGroup 5 = true ∧ ∃ x, tget outage.groups 5 = some x) ∧
    requestReady (asked outage 0x52 [1, 0, 5]) (frame 0x52 [1, 0, 5]) [] (.recallGroup false 5) ∧
    requestReady (asked outage 0x53 [1, 1, 5]) (frame 0x53 [1, 1, 5]) [] (.cancelRecall true 5) ∧
    (wfSite 9 = true ∧ ∃ x, tget outage.sites 9 = some x) ∧
    requestReady (asked outage 0x54 [1, 0, 9]) (frame 0x54 [1, 0, 9]) [] (.evacuate false 9) ∧
    requestReady (asked outage 0x55 [1, 0, 9]) (frame 0x55 [1, 0, 9]) [] (.resync false 9) ∧
    requestReady (asked outage 0x56 [1, 0]) (frame 0x56 [1, 0]) [] (.purge false) := by
  refine ⟨rfl, rfl, ?_, ?_, ⟨rfl, _, rfl⟩, ?_, ?_, ⟨rfl, _, rfl⟩, ?_, ?_, ?_⟩ <;> exact ready_asked (by decide +kernel) rfl

/-- A state with an operation in hand. -/
def running (op : BulkOp) (suspended : Bool) (radios : Table Radio) (out : List SiteOut) : State :=
  { service 1000 with
    sites := [(7, upSite 1)], groups := [(5, { group .routine [(7, 1)] 1 with recallState := .active })]
    radios := radios, outbound := out, bulk := some { startedAt op 0 with suspended := suspended } }

theorem witness_BulkStepVisitsOrCompletes :
    let flagged : Radio := { record (.registered 7 2000) with groups := [{ group := 5, pending := false }] }
    busy.bulk ≠ none ∧ ({ busy with bulk := none } : State).bulk = none ∧
    (∃ b, (running .purge true [] []).bulk = some b ∧ b.suspended = true) ∧
    (∃ b, (running (.resync 7) false [] (List.replicate 448 (.drop 7 1))).bulk = some b ∧ b.suspended = false ∧
      ¬((running (.resync 7) false [] (List.replicate 448 (.drop 7 1))).outbound.length + 1 ≤ 448)) ∧
    (∃ b x, (running (.recallGroup 5) false [(1, flagged)] []).bulk = some b ∧ b.op = .recallGroup 5 ∧
      tnext (running (.recallGroup 5) false [(1, flagged)] []).radios b.cursor = some 1 ∧ servingSite flagged.state ≠ none ∧
      { group := 5, pending := false } ∈ flagged.groups ∧ tget (running (.recallGroup 5) false [] []).groups 5 = some x) ∧
    (∃ b, (running .purge false [(1, record (.retired 7 1 2000))] []).bulk = some b ∧
      tnext (running .purge false [(1, record (.retired 7 1 2000))] []).radios b.cursor = some 1) ∧
    (∃ b, (running .purge false [] []).bulk = some b ∧ tnext (running .purge false [] []).radios b.cursor = none ∧
      (running .purge false [] []).bulkWaiting = none) :=
  ⟨by decide, rfl, ⟨_, rfl, rfl⟩, ⟨_, rfl, rfl, by decide +kernel⟩, ⟨_, _, rfl, rfl, by decide +kernel, by decide, by decide, rfl⟩,
   ⟨_, rfl, by decide +kernel⟩, ⟨_, rfl, by decide +kernel, rfl⟩⟩

theorem witness_BulkControlRequests :
    let s (suspended : Bool) := running .purge suspended [] []
    (∃ b, (s false).bulk = some b ∧ b.suspended = false) ∧ (∃ b, (s true).bulk = some b ∧ b.suspended = true) ∧
    requestReady (asked (s false) 0x57 [1, 0]) (frame 0x57 [1, 0]) [] .bulkSuspend ∧
    requestReady (asked (s true) 0x58 [1, 0]) (frame 0x58 [1, 0]) [] .bulkResume ∧
    requestReady (asked (s false) 0x56 [1, 1]) (frame 0x56 [1, 1]) [] (.purge true) ∧
    requestReady (asked (s false) 0x56 [1, 0]) (frame 0x56 [1, 0]) [] (.purge false) ∧
    requestReady (asked (s false) 0x59 [1, 1, 0x56]) (frame 0x59 [1, 1, 0x56]) [] (.bulkAbort 1 0x56) ∧
    requestReady (asked (s false) 0x59 [1, 1, 0x55]) (frame 0x59 [1, 1, 0x55]) [] (.bulkAbort 1 0x55) ∧
    (requestReady (asked { s false with bulkWaiting := some .purge } 0x59 [1, 2, 0x56]) (frame 0x59 [1, 2, 0x56]) []
      (.bulkAbort 2 0x56) ∧ bulkKind .purge = 0x56) ∧
    requestReady (asked (s false) 0x59 [1, 3, 0x56]) (frame 0x59 [1, 3, 0x56]) [] (.bulkAbort 3 0x56) := by
  refine ⟨⟨_, rfl, rfl⟩, ⟨_, rfl, rfl⟩, ?_, ?_, ?_, ?_, ?_, ?_, ⟨?_, rfl⟩, ?_⟩ <;> exact ready_asked (by decide +kernel) rfl

/-! ### Premises that can be met: requests -/

theorem witness_RefusedRequestsOnlyGetTheirAnswer :
    ((asked outage 0x19 [1]).requests = frame 0x19 [1] :: [] ∧ entryRequest (frame 0x19 [1]) = none ∧
      (asked outage 0x19 [1]).answers.length < 32) ∧
    (requestReady (asked outage 0x14 [1, 9]) (frame 0x14 [1, 9]) [] (.undefineSite 9) ∧ outage.phase = .service ∧
      configRequest (.undefineSite 9) = true) ∧
    (requestReady (asked State.reset 0x56 [1, 0]) (frame 0x56 [1, 0]) [] (.purge false) ∧ State.reset.phase = .config ∧
      serviceRequest (.purge false) = true) :=
  ⟨⟨rfl, by decide +kernel, by decide⟩, ⟨ready_asked (by decide +kernel) rfl, rfl, rfl⟩,
   ⟨ready_asked (by decide +kernel) rfl, rfl, rfl⟩⟩

/-- CONFIG phase with sites 1 and 48 and group 1. -/
def configured : State :=
  { State.reset with
    sites := [(1, { upSite 0 with state := .down, condition := none, capacity := 1 }), (48, { upSite 0 with state := .down, condition := none })]
    groups := [(1, { group .routine [] 0 with fixed := [48] })] }

theorem witness_SitesAreDefinedAndUndefined :
    configured.phase = .config ∧
    (requestReady (asked configured 0x11 [1, 2, 0x0F, 0, 17, 0xF7, 16, 3]) (frame 0x11 [1, 2, 0x0F, 0, 17, 0xF7, 16, 3]) []
      (.defineSite 2 (some 0) (some 17) (some (-9)) (some 16) true true) ∧ tget configured.sites 2 = none) ∧
    (requestReady (asked configured 0x11 [1, 48, 0x0F, 255, 16, 0xF8, 15, 0]) (frame 0x11 [1, 48, 0x0F, 255, 16, 0xF8, 15, 0]) []
      (.defineSite 48 (some 255) (some 16) (some (-8)) (some 15) false false) ∧ ∃ x, tget configured.sites 48 = some x) ∧
    requestReady (asked configured 0x11 [1, 49, 0, 0, 0, 0, 0, 0]) (frame 0x11 [1, 49, 0, 0, 0, 0, 0, 0]) []
      (.defineSite 49 none none none none false false) ∧
    (requestReady (asked configured 0x14 [1, 48]) (frame 0x14 [1, 48]) [] (.undefineSite 48) ∧ tget configured.sites 48 ≠ none) ∧
    (requestReady (asked configured 0x14 [1, 47]) (frame 0x14 [1, 47]) [] (.undefineSite 47) ∧ tget configured.sites 47 = none) :=
  ⟨rfl, ⟨ready_asked (by decide +kernel) rfl, rfl⟩, ⟨ready_asked (by decide +kernel) rfl, _, rfl⟩,
   ready_asked (by decide +kernel) rfl, ⟨ready_asked (by decide +kernel) rfl, by decide⟩, ⟨ready_asked (by decide +kernel) rfl, rfl⟩⟩

/-- Site 9 of the outage has count 5 and capacity 40; a site with count equal to its capacity. -/
def atCapacity : State := { outage with sites := [(9, { upSite 64 with voice := 2 })] }

theorem witness_SitesAreChanged :
    (1 ≤ 9 ∧ 9 ≤ 48 ∧ ∃ x, tget outage.sites 9 = some x ∧ x.count < 6 ∧ x.count = 5 ∧ 4 < x.count ∧ x.overFlag = false) ∧
    requestReady (asked outage 0x12 [1, 9, 0x01, 6, 0, 0, 0, 0]) (frame 0x12 [1, 9, 0x01, 6, 0, 0, 0, 0]) []
      (.setSite 9 (some 6) none none none none none) ∧
    requestReady (asked outage 0x12 [1, 9, 0x01, 5, 0, 0, 0, 0]) (frame 0x12 [1, 9, 0x01, 5, 0, 0, 0, 0]) []
      (.setSite 9 (some 5) none none none none none) ∧
    requestReady (asked outage 0x12 [1, 9, 0x01, 4, 0, 0, 0, 0]) (frame 0x12 [1, 9, 0x01, 4, 0, 0, 0, 0]) []
      (.setSite 9 (some 4) none none none none none) ∧
    (requestReady (asked outage 0x12 [1, 9, 0x02, 0, 3, 0, 0, 0]) (frame 0x12 [1, 9, 0x02, 0, 3, 0, 0, 0]) []
      (.setSite 9 none (some 3) none none none none) ∧ outage.phase = .service) ∧
    (requestReady (asked atCapacity 0x12 [1, 9, 0x3C, 0, 0, 7, 15, 1]) (frame 0x12 [1, 9, 0x3C, 0, 0, 7, 15, 1]) []
      (.setSite 9 none none (some 7) (some 15) (some true) (some false)) ∧
      ∃ x, tget atCapacity.sites 9 = some x ∧ x.count = x.capacity) ∧
    requestReady (asked outage 0x13 [1, 9, 3, 7, 9, 14]) (frame 0x13 [1, 9, 3, 7, 9, 14]) [] (.setNeighbours 9 [7, 9, 14]) :=
  ⟨⟨by decide, by decide, _, rfl, by decide, rfl, by decide, rfl⟩, ready_asked (by decide +kernel) rfl,
   ready_asked (by decide +kernel) rfl, ready_asked (by decide +kernel) rfl,
   ⟨ready_asked (by decide +kernel) rfl, rfl⟩, ⟨ready_asked (by decide +kernel) rfl, _, rfl, rfl⟩, ready_asked (by decide +kernel) rfl⟩

theorem witness_UndefineGroupRule :
    (requestReady (asked outage 0x17 [1, 5]) (frame 0x17 [1, 5]) [] (.undefineGroup 5) ∧ outage.phase = .service) ∧
    (requestReady (asked configured 0x17 [1, 0]) (frame 0x17 [1, 0]) [] (.undefineGroup 0) ∧ configured.phase = .config) ∧
    requestReady (asked configured 0x17 [1, 129]) (frame 0x17 [1, 129]) [] (.undefineGroup 129) ∧
    (requestReady (asked configured 0x17 [1, 128]) (frame 0x17 [1, 128]) [] (.undefineGroup 128) ∧ tget configured.groups 128 = none) ∧
    (requestReady (asked configured 0x17 [1, 1]) (frame 0x17 [1, 1]) [] (.undefineGroup 1) ∧ tget configured.groups 1 ≠ none ∧
      Ascending configured.groups) ∧
    (requestReady (asked configured 0x14 [1, 48]) (frame 0x14 [1, 48]) [] (.undefineSite 48) ∧ tget configured.sites 48 ≠ none) ∧
    ConfigQuiet configured :=
  ⟨⟨ready_asked (by decide +kernel) rfl, rfl⟩, ⟨ready_asked (by decide +kernel) rfl, rfl⟩, ready_asked (by decide +kernel) rfl,
   ⟨ready_asked (by decide +kernel) rfl, rfl⟩, ⟨ready_asked (by decide +kernel) rfl, by decide, by decide +kernel⟩,
   ⟨ready_asked (by decide +kernel) rfl, by decide⟩, fun _ => ⟨rfl, rfl, rfl, rfl⟩⟩

theorem witness_GroupsAreDefinedAndChanged :
    configured.phase = .config ∧
    (requestReady (asked configured 0x15 [1, 128, 3, 3, 48, 2, 48]) (frame 0x15 [1, 128, 3, 3, 48, 2, 48]) []
      (.defineGroup 128 3 [48, 2, 48]) ∧ tget configured.groups 128 = none) ∧
    (requestReady (asked configured 0x15 [1, 1, 4, 1, 1]) (frame 0x15 [1, 1, 4, 1, 1]) [] (.defineGroup 1 4 [1]) ∧
      ∃ x, tget configured.groups 1 = some x) ∧
    requestReady (asked configured 0x16 [1, 1, 1, 0, 0]) (frame 0x16 [1, 1, 1, 0, 0]) [] (.setGroup 1 (some 0) none) ∧
    requestReady (asked configured 0x16 [1, 1, 2, 9, 0]) (frame 0x16 [1, 1, 2, 9, 0]) [] (.setGroup 1 none (some [])) :=
  ⟨rfl, ⟨ready_asked (by decide +kernel) rfl, rfl⟩, ⟨ready_asked (by decide +kernel) rfl, _, rfl⟩,
   ready_asked (by decide +kernel) rfl, ready_asked (by decide +kernel) rfl⟩

theorem witness_ParametersAreSetAndServiceOpens :
    requestReady (asked configured 0x18 [1, 1, 0, 29]) (frame 0x18 [1, 1, 0, 29]) [] (.setParameter 1 29) ∧
    requestReady (asked configured 0x18 [1, 4, 0, 21]) (frame 0x18 [1, 4, 0, 21]) [] (.setParameter 4 21) ∧
    requestReady (asked configured 0x18 [1, 10, 0, 60]) (frame 0x18 [1, 10, 0, 60]) [] (.setParameter 10 60) ∧
    requestReady (asked configured 0x18 [1, 0, 0, 1]) (frame 0x18 [1, 0, 0, 1]) [] (.setParameter 0 1) ∧
    requestReady (asked configured 0x18 [1, 11, 0, 1]) (frame 0x18 [1, 11, 0, 1]) [] (.setParameter 11 1) ∧
    (requestReady (asked configured 0x19 [1, 0]) (frame 0x19 [1, 0]) [] .openService ∧ configured.sites ≠ []) ∧
    (requestReady (asked State.reset 0x19 [1, 0]) (frame 0x19 [1, 0]) [] .openService ∧ State.reset.sites = []) := by
  refine ⟨?_, ?_, ?_, ?_, ?_, ⟨?_, by decide⟩, ⟨?_, rfl⟩⟩ <;> exact ready_asked (by decide +kernel) rfl

theorem witness_RestartKeepsOnlyDefinitions :
    requestReady (asked outage 0x1A [1, 0]) (frame 0x1A [1, 0]) [] .restart := ready_asked (by decide +kernel) rfl

theorem witness_LocateAnswersTheRecord :
    requestReady (asked outage 0x21 [1, 0, 0, 0]) (frame 0x21 [1, 0, 0, 0]) [] (.locate 0) ∧
    (requestReady (asked outage 0x21 [1, 0xFF, 0xFF, 0xFF]) (frame 0x21 [1, 0xFF, 0xFF, 0xFF]) [] (.locate 16777215) ∧
      tget outage.radios 16777215 = none) ∧
    (requestReady (asked outage 0x21 [1, 0, 0xEA, 0x6C]) (frame 0x21 [1, 0, 0xEA, 0x6C]) [] (.locate 60012) ∧
      ∃ r, tget outage.radios 60012 = some r ∧ r.state = .registered 9 72000) ∧
    (∃ r k, tget outage.radios 60201 = some r ∧ r.state = .moving 9 14 72000 k) ∧
    (∃ r, tget outage.radios 60450 = some r ∧ r.state = .presumed 9 .lease 71750) :=
  ⟨ready_asked (by decide +kernel) rfl, ⟨ready_asked (by decide +kernel) rfl, rfl⟩,
   ⟨ready_asked (by decide +kernel) rfl, _, rfl, rfl⟩, ⟨_, _, rfl, rfl⟩, ⟨_, rfl, rfl⟩⟩

theorem witness_QueriesAnswerTheRecords :
    (∀ n : Byte, requestReady (asked outage 0x22 [1, n]) (frame 0x22 [1, n]) [] (.siteQuery n.toNat) ∧
      requestReady (asked outage 0x23 [1, n]) (frame 0x23 [1, n]) [] (.groupQuery n.toNat) ∧
      requestReady (asked outage 0x24 [1, n]) (frame 0x24 [1, n]) [] (.callQuery n.toNat)) ∧
    (tget outage.sites 48 = none ∧ ∃ x, tget outage.sites 9 = some x ∧ x.state = .up 70200) ∧
    (∃ x, tget returning.sites 9 = some x ∧ x.state = .dark) ∧
    (tget outage.groups 128 = none ∧ ∃ x, tget outage.groups 5 = some x) ∧
    (tget outage.calls 32 = none ∧ ∃ x, tget outage.calls 3 = some x ∧ x.state = .active) ∧
    (∃ x, tget ending.calls 4 = some x ∧ x.state = .hang 90140) :=
  ⟨fun _ => ⟨ready_asked rfl rfl, ready_asked rfl rfl, ready_asked rfl rfl⟩, ⟨rfl, _, rfl, rfl⟩, ⟨_, rfl, rfl⟩, ⟨rfl, _, rfl⟩,
   ⟨rfl, _, rfl, rfl⟩, ⟨_, rfl, rfl⟩⟩

/-- A state with one notice. -/
def noticed : State := { outage with notices := [{ time := 1, body := .siteUp 3 .up 0 }] }

theorem witness_StatusRequestsAnswerThePart :
    requestReady (asked outage 0x25 [1, 0]) (frame 0x25 [1, 0]) [] .bulkStatus ∧
    (requestReady (asked noticed 0x26 [1, 0]) (frame 0x26 [1, 0]) [] .nextNotice ∧ ∃ x, noticed.notices = x :: []) ∧
    (requestReady (asked outage 0x26 [1, 0]) (frame 0x26 [1, 0]) [] .nextNotice ∧ outage.notices = []) ∧
    requestReady (asked outage 0x27 [1, 0]) (frame 0x27 [1, 0]) [] .portStatus := by
  refine ⟨?_, ⟨?_, _, rfl⟩, ⟨?_, rfl⟩, ?_⟩ <;> exact ready_asked (by decide +kernel) rfl

theorem witness_NoticePendingLineRule :
    64 ≤ ({ outage with notices := List.replicate 64 { time := 1, body := .siteUp 3 .up 0 } } : State).notices.length ∧
    (requestReady (asked noticed 0x26 [1, 0]) (frame 0x26 [1, 0]) [] .nextNotice ∧ ∃ x, noticed.notices = [x] ∧
      exec .nextNotice (asked noticed 0x26 [1, 0]) = .next (after .nextNotice (asked noticed 0x26 [1, 0]))) ∧
    exec .powerOnReset noticed = .next (after .powerOnReset noticed) ∧
    (requestReady (asked noticed 0x1A [1, 0]) (frame 0x1A [1, 0]) [] .restart ∧
      exec (.restart true) (asked noticed 0x1A [1, 0]) = .next (after (.restart true) (asked noticed 0x1A [1, 0]))) :=
  ⟨by decide, ⟨ready_asked (by decide +kernel) rfl, _, rfl, rfl⟩, rfl, ⟨ready_asked (by decide +kernel) rfl, rfl⟩⟩

theorem witness_ForceReleaseRetires :
    Ascending outage.radios ∧ outage.phase = .service ∧
    requestReady (asked outage 0x31 [1, 0, 0, 0]) (frame 0x31 [1, 0, 0, 0]) [] (.forceRelease 0) ∧
    (requestReady (asked outage 0x31 [1, 0, 0xEA, 0x6C]) (frame 0x31 [1, 0, 0xEA, 0x6C]) [] (.forceRelease 60012) ∧
      ∃ r, tget outage.radios 60012 = some r ∧ r.state = .registered 9 72000 ∧ siteWorks outage 9 = true ∧
        outage.outbound.length + 1 ≤ 448 ∧ roomForOne outage) ∧
    (∃ r, tget returning.radios 60450 = some r ∧ r.state = .presumed 9 .lease 71750 ∧ siteWorks returning 9 = false) ∧
    (requestReady (asked (reporting (.status 7 1) [(1, record .joining), (2, record (.retired 7 1 2000))]) 0x31 [1, 0, 0, 1])
        (frame 0x31 [1, 0, 0, 1]) [] (.forceRelease 1) ∧
      ∀ m ∈ (record .joining).groups, m.pending = false) ∧
    requestReady (asked (reporting (.status 7 1) [(1, record .joining), (2, record (.retired 7 1 2000))]) 0x31 [1, 0, 0, 2])
        (frame 0x31 [1, 0, 0, 2]) [] (.forceRelease 2) :=
  ⟨by decide +kernel, rfl, ready_asked (by decide +kernel) rfl,
   ⟨ready_asked (by decide +kernel) rfl, _, rfl, rfl, rfl, by decide, room_of (by decide +kernel)⟩, ⟨_, rfl, rfl, rfl⟩,
   ⟨ready_asked (by decide +kernel) rfl, by decide⟩, ready_asked (by decide +kernel) rfl⟩

/-- Records with and without an emergency. -/
def emergencies : State :=
  { service 1000 with
    radios := [(1, { record .joining with emergency := some { since := 1, site := 7 } }),
               (2, { record (.registered 7 2000) with emergency := some { since := 1, site := 7 } }),
               (3, record (.lost 7)), (4, { record (.lost 7) with emergency := some { since := 1, site := 7 } })] }

theorem witness_ClearRequestsActOnTheRecord :
    Ascending emergencies.radios ∧ emergencies.phase = .service ∧
    (∀ u ∈ [0, 1, 2, 3, 4, 255],
      requestOf 0x32 [1, 0, 0, byte u] = some (.clearEmergency u) ∧ requestOf 0x33 [1, 0, 0, byte u] = some (.clearLost u) ∧
      requestOf 0x35 [1, 0, 0, byte u] = some (.clearRegroup u)) ∧
    requestReady (asked emergencies 0x32 [1, 0, 0, 1]) (frame 0x32 [1, 0, 0, 1]) [] (.clearEmergency 1) ∧
    requestReady (asked emergencies 0x33 [1, 0, 0, 3]) (frame 0x33 [1, 0, 0, 3]) [] (.clearLost 3) ∧
    requestReady (asked emergencies 0x35 [1, 0, 0, 4]) (frame 0x35 [1, 0, 0, 4]) [] (.clearRegroup 4) ∧
    (∃ r, tget emergencies.radios 1 = some r ∧ r.emergency ≠ none ∧ r.state = .joining ∧ r.burst = none) ∧
    (∃ r, tget emergencies.radios 2 = some r ∧ r.emergency ≠ none ∧ ¬(r.state = .joining ∧ r.burst = none)) ∧
    (∃ r, tget emergencies.radios 3 = some r ∧ stateName r.state = .lost ∧ r.emergency = none ∧ ∀ m ∈ r.groups, m.pending = false) ∧
    (∃ r, tget emergencies.radios 4 = some r ∧ r.emergency ≠ none) ∧ tget emergencies.radios 255 = none :=
  ⟨by decide +kernel, rfl,
   by decide +kernel, ready_asked (by decide +kernel) rfl, ready_asked (by decide +kernel) rfl,
   ready_asked (by decide +kernel) rfl,
   ⟨_, rfl, by decide, rfl, rfl⟩, ⟨_, rfl, by decide, by decide⟩, ⟨_, rfl, rfl, rfl, by decide⟩, ⟨_, rfl, by decide⟩, rfl⟩

theorem witness_SetGroupsOrdersARegroup :
    regrouping.phase = .service ∧
    (requestReady setGroupsAsked (frame 0x34 [1, 0x00, 0xEF, 0x74, 2, 11, 20]) [] (.setGroups 61300 [11, 20]) ∧
      ∃ r, tget setGroupsAsked.radios 61300 = some r ∧ servingSite r.state ≠ none) ∧
    (requestReady (asked emergencies 0x34 [1, 0, 0, 3, 0]) (frame 0x34 [1, 0, 0, 3, 0]) [] (.setGroups 3 []) ∧
      ∃ r, tget emergencies.radios 3 = some r ∧ servingSite r.state = none) :=
  ⟨rfl, ⟨ready_asked (by decide +kernel) rfl, _, rfl, by decide⟩, ⟨ready_asked (by decide +kernel) rfl, _, rfl, rfl⟩⟩

/-! ### Premises that can be met: copies of every kind

Unit 5 has last sequence 9; its reports come from site 7. -/

theorem reporting_room (m : SiteMsg) (r : Radio) (h : isMoving r.state = false) : roomForOne (reporting m [(5, r)]) := by
  simp [roomForOne, reporting, service, State.reset, movingCount, h]

/-- A full Directory: units 1 and 2 RETIRED at one time, the others LOST. -/
def fullDirectory : Table Radio :=
  (List.range 2048).map fun u => (u + 1, record (if u < 2 then .retired 7 5 2000 else .lost 7))

/-- A retirement of another unit than 1 comes after that of unit 1. -/
def retiredAfterOne (p : Nat × Radio) : Bool :=
  match p.2.state with
  | .retired _ y _ => p.1 == 1 || decide (5 < y) || (y == 5 && decide (1 < p.1))
  | _ => true

theorem retired_after_one (m : SiteMsg) (t : Table Radio) (hall : ∀ p ∈ t, retiredAfterOne p = true) (v' : Nat) (r' : Radio)
    (n' y' h' : Nat) (hne : v' ≠ 1) (hget : tget (reporting m t).radios v' = some r') (hst : r'.state = .retired n' y' h') :
    5 < y' ∨ (5 = y' ∧ 1 < v') := by
  have h := hall (v', r') (mem_of_tget (show tget t v' = some r' from hget))
  simp only [retiredAfterOne, hst, Bool.or_eq_true, Bool.and_eq_true, beq_iff_eq, decide_eq_true_eq] at h
  omega

theorem witness_CopiesOfAbsentUnitsCreateRecords_reclaim :
    let s := reporting (.reg 7 5000 1 false 20 []) fullDirectory
    (∃ k, copyHead (.reg 7 5000 1 false 20 []) = some (.reg, k) ∧ k.site = 7 ∧ k.unit = 5000 ∧ carriesParts k = true) ∧
    roomForOne s ∧ admitted s 7 ∧ tget s.radios 5000 = none ∧ Ascending s.radios ∧ 2048 = s.radios.length ∧
    ∃ old, tget s.radios 1 = some old ∧ old.state = .retired 7 5 2000 ∧ (∀ x ∈ old.groups, x.pending = false) ∧
      ∀ v' r' n' y' h', v' ≠ 1 → tget s.radios v' = some r' → r'.state = .retired n' y' h' → 5 < y' ∨ (5 = y' ∧ 1 < v') := by
  refine ⟨⟨_, rfl, rfl, rfl, rfl⟩, room_of (by decide +kernel), reporting_admitted _ _, by decide +kernel, ?_, by decide +kernel,
    record (.retired 7 5 2000), by decide +kernel, rfl, by decide, ?_⟩
  · simp [Ascending, tkeys, reporting, fullDirectory, List.pairwise_map, List.pairwise_lt_range, Function.comp_def]
  · exact retired_after_one _ fullDirectory (by decide +kernel)

/-- A RETIRED record: distances 1 and 8, a first-flagged REG at distance 0, and copies at distances 0 and 9. -/
theorem witness_CopiesOfAbsentUnitsCreateRecords_retired :
    let r := record (.retired 7 5 2000)
    (∀ m, roomForOne (reporting m [(5, r)]) ∧ admitted (reporting m [(5, r)]) 7 ∧ tget (reporting m [(5, r)]).radios 5 = some r) ∧
    stateName r.state = .retired ∧
    (∃ k, copyHead (.emerg 7 5 10 20) = some (.emerg, k) ∧ carriesParts k = true ∧ (k.seq + 16 - r.lastSeq) % 16 = 1) ∧
    (∃ k, copyHead (.reg 7 5 1 false 20 []) = some (.reg, k) ∧ carriesParts k = true ∧ (k.seq + 16 - r.lastSeq) % 16 = 8) ∧
    (∃ k, copyHead (.reg 7 5 9 true 20 []) = some (.reg, k) ∧ carriesParts k = true ∧ k.first = true) ∧
    (∃ k, copyHead (.reg 7 5 9 false 20 []) = some (.reg, k) ∧ carriesParts k = true ∧ k.first = false ∧
      (k.seq + 16 - r.lastSeq) % 16 = 0) ∧
    (∃ k, copyHead (.emerg 7 5 2 20) = some (.emerg, k) ∧ carriesParts k = true ∧ k.first = false ∧
      9 ≤ (k.seq + 16 - r.lastSeq) % 16) ∧
    (∃ k, copyHead (.heard 7 5 10 20) = some (.heard, k) ∧ carriesParts k = false) :=
  ⟨fun m => ⟨reporting_room m _ rfl, reporting_admitted _ _, rfl⟩, rfl, ⟨_, rfl, rfl, rfl⟩, ⟨_, rfl, rfl, rfl⟩, ⟨_, rfl, rfl, rfl⟩,
   ⟨_, rfl, rfl, rfl, rfl⟩, ⟨_, rfl, rfl, rfl, by decide⟩, ⟨_, rfl, rfl⟩⟩

/-- A record whose burst, of the sequence and sites given, is open. -/
def bursting (st : RecordState) (sites : List Nat) : Radio :=
  { record st with burst := some { newBurst (service 995) 9 9 false none none with sites := sites } }

/-- A newer copy meets an open burst: on a LOST record, with a first-flagged REG of the last sequence; on a MOVING record; on a JOINING
record that the close frees, with a HEARD and with an EMERG. And one meets a record without a burst. -/
theorem witness_NewerHeardOpensABurst_early :
    let h : Handover := { tag := 1, readySeen := false, quiescedSeen := false, deadline := 2000 }
    (∃ k, copyHead (.reg 7 5 9 true 20 [5]) = some (.reg, k) ∧ k.site = 7 ∧ k.unit = 5 ∧ newerCopy (bursting (.lost 7) [9]) k ∧
      (bursting (.lost 7) [9]).burst ≠ none ∧ roomForOne (reporting (.reg 7 5 9 true 20 [5]) [(5, bursting (.lost 7) [9])])) ∧
    (∃ k b, copyHead (.heard 7 5 10 20) = some (.heard, k) ∧ k.site = 7 ∧ k.unit = 5 ∧ newerCopy (bursting (.moving 7 9 2000 h) [9]) k ∧
      carriesParts k = false ∧ (bursting (.moving 7 9 2000 h) [9]).burst = some b ∧ b.reported = none ∧ b.emergency = none ∧
      roomForOne (reporting (.heard 7 5 10 20) [(5, bursting (.moving 7 9 2000 h) [9])])) ∧
    (∃ k b, copyHead (.heard 7 5 1 20) = some (.heard, k) ∧ newerCopy (bursting .joining [9]) k ∧ carriesParts k = false ∧
      (bursting .joining [9]).burst = some b ∧ b.reported = none ∧ b.emergency = none ∧ (bursting .joining [9]).emergency = none ∧
      (∀ x ∈ (bursting .joining [9]).groups, x.pending = false) ∧
      Ascending (reporting (.heard 7 5 1 20) [(5, bursting .joining [9])]).radios ∧
      roomForOne (reporting (.heard 7 5 1 20) [(5, bursting .joining [9])]) ∧
      adoptionChoice (reporting (.heard 7 5 1 20) [(5, bursting .joining [9])]) 1000 b.sites .joining (bursting .joining [9]).hearing = none) ∧
    (∃ k, copyHead (.emerg 7 5 1 20) = some (.emerg, k) ∧ newerCopy (bursting .joining [9]) k ∧ carriesParts k = true ∧
      adoptionChoice (reporting (.emerg 7 5 1 20) [(5, bursting .joining [9])]) 1000 [9] .joining (bursting .joining [9]).hearing = none) ∧
    (∃ k, copyHead (.emerg 7 5 10 20) = some (.emerg, k) ∧ newerCopy (record (.lost 7)) k ∧ stateName (record (.lost 7)).state ≠ .retired ∧
      (record (.lost 7)).burst = none ∧ roomForOne (reporting (.emerg 7 5 10 20) [(5, record (.lost 7))])) ∧
    ∀ m r, admitted (reporting m [(5, r)]) 7 ∧ tget (reporting m [(5, r)]).radios 5 = some r := by
  refine ⟨⟨_, rfl, rfl, rfl, .inr ⟨rfl, ?_⟩, by decide, reporting_room _ _ rfl⟩,
    ⟨_, _, rfl, rfl, rfl, .inl ⟨rfl, by decide, by decide⟩, rfl, rfl, rfl, rfl, room_of (by decide +kernel)⟩,
    ⟨_, _, rfl, .inl ⟨rfl, by decide, by decide⟩, rfl, rfl, rfl, rfl, rfl, by decide, by decide +kernel, reporting_room _ _ rfl,
      by decide +kernel⟩,
    ⟨_, rfl, .inl ⟨rfl, by decide, by decide⟩, rfl, by decide +kernel⟩,
    ⟨_, rfl, .inl ⟨rfl, by decide, by decide⟩, by decide, rfl, reporting_room _ _ rfl⟩,
    fun m r => ⟨reporting_admitted _ _, rfl⟩⟩
  simp [ownBurst, bursting, newBurst]

/-- A copy of the last sequence: at a burst without its site and with it, after the close with and without an active emergency, and from
a site of the previous set. -/
theorem witness_SameHeardMergesOrIsLate_copies :
    let closed (l : List Nat) : Radio := { record (.lost 7) with prev := some { seq := 9, sites := l, openedAt := 990 } }
    (∃ k b, copyHead (.emerg 7 5 9 20) = some (.emerg, k) ∧ k.site = 7 ∧ sameCopy (bursting .joining [9]) k ∧
      (bursting .joining [9]).burst = some b ∧ 7 ∉ b.sites) ∧
    (∃ k b, copyHead (.reg 7 5 9 false 20 [5]) = some (.reg, k) ∧ sameCopy (bursting .joining [9, 7]) k ∧
      (bursting .joining [9, 7]).burst = some b ∧ 7 ∈ b.sites) ∧
    (∃ k p, copyHead (.reg 7 5 9 true 20 [5]) = some (.reg, k) ∧ sameCopy (closed [9]) k ∧ (closed [9]).burst = none ∧
      (closed [9]).prev = some p ∧ p.seq = k.seq ∧ 7 ∉ p.sites ∧ k.emerg = false) ∧
    (∃ k p, copyHead (.emerg 7 5 9 20) = some (.emerg, k) ∧ sameCopy (closed [9]) k ∧ (closed [9]).prev = some p ∧ p.seq = k.seq ∧
      7 ∉ p.sites ∧ k.emerg = true ∧ (closed [9]).emergency = none ∧
      (reporting (.emerg 7 5 9 20) [(5, closed [9])]).notices.length < 64) ∧
    (∃ k, copyHead (.reg 7 5 9 true 20 [5]) = some (.reg, k) ∧ sameCopy (closed [7]) k ∧ (closed [7]).burst = none ∧
      ∀ p, (closed [7]).prev = some p → p.seq ≠ k.seq ∨ k.site ∈ p.sites) ∧
    (∀ m l, roomForOne (reporting m [(5, closed l)]) ∧ stateName (closed l).state ≠ .retired) ∧
    (∀ m l, roomForOne (reporting m [(5, bursting .joining l)]) ∧ stateName (bursting .joining l).state ≠ .retired) ∧
    ∀ m r, admitted (reporting m [(5, r)]) 7 ∧ tget (reporting m [(5, r)]).radios 5 = some r := by
  refine ⟨⟨_, _, rfl, rfl, ⟨rfl, nofun⟩, rfl, by decide⟩, ⟨_, _, rfl, ⟨rfl, nofun⟩, rfl, by decide⟩,
    ⟨_, _, rfl, ⟨rfl, fun _ => .inr ⟨rfl, _, rfl, rfl⟩⟩, rfl, rfl, rfl, by decide, rfl⟩,
    ⟨_, _, rfl, ⟨rfl, nofun⟩, rfl, rfl, by decide, rfl, rfl, by decide⟩,
    ⟨_, rfl, ⟨rfl, fun _ => .inr ⟨rfl, _, rfl, rfl⟩⟩, rfl, ?_⟩,
    fun m l => ⟨reporting_room _ _ rfl, by simp [record, stateName]⟩,
    fun m l => ⟨reporting_room _ _ rfl, by simp [bursting, record, stateName]⟩, fun m r => ⟨reporting_admitted _ _, rfl⟩⟩
  intro p hp
  obtain rfl := Option.some.inj hp
  exact .inr (by decide)

/-- Reports of unit 0, of each kind. -/
theorem witness_UnusableReportsOnlyGetTheirReceipt_unit0 :
    ∀ m ∈ [SiteMsg.reg 7 0 1 true 20 [], .heard 7 0 1 20, .emerg 7 0 1 20, .dereg 7 0 1],
      roomForOne (reporting m []) ∧ admitted (reporting m []) 7 ∧ (reporting m []).siteIn = m :: [] :=
  fun _ _ => ⟨room_of rfl, reporting_admitted _ _, rfl⟩

/-- A DEREG at distances 0, 1 and 8 of MOVING, LOST and RETIRED records. -/
theorem witness_DeregRetiresOrIsHeld_states :
    let h : Handover := { tag := 1, readySeen := false, quiescedSeen := false, deadline := 2000 }
    ∀ st ∈ [RecordState.moving 7 9 2000 h, .lost 7, .retired 7 5 2000], ∀ seq ∈ [9, 10, 1],
      let s := reporting (.dereg 7 5 seq) [(5, record st)]
      roomForOne s ∧ admitted s 7 ∧ tget s.radios 5 = some (record st) ∧ (record st).burst = none ∧ (record st).emergency = none ∧
        (seq + 16 - (record st).lastSeq) % 16 ≤ 8 := by
  intro h st hst seq hseq
  refine ⟨?_, reporting_admitted _ _, rfl, rfl, rfl, ?_⟩
  · simp only [List.mem_cons, List.not_mem_nil, or_false] at hst
    rcases hst with rfl | rfl | rfl <;> exact room_of rfl
  · simp only [List.mem_cons, List.not_mem_nil, or_false] at hseq
    rcases hseq with rfl | rfl | rfl <;> simp [record]

/-! ### Premises that can be met: the close, selection and calls, clause by clause -/

/-- A full list whose two oldest entries are as old as each other: that of the higher site number is to go; and a list of three. -/
theorem witness_HearingListUpdates_eviction :
    let l := [heardAt 7 24 49600, heardAt 12 18 49100, heardAt 9 15 48300, heardAt 20 11 48300]
    (l.length = 4 ∧ 14 ∉ l.map Hearing.site ∧ heardAt 20 11 48300 ∈ l ∧ 20 ∉ countedSites (.registered 7 1) ∧
      ∀ h ∈ l, h.site ∉ countedSites (.registered 7 1) → 48300 < h.heard ∨ (48300 = h.heard ∧ h.site ≤ 20)) ∧
    (l.take 3).length < 4 := by decide +kernel

/-- Unit 5, served at site 7, whose burst closes at 1000: `first` and the emergency site are the burst's. -/
def closing (st : RecordState) (first : Bool) (emergency : Option Nat) (out : List SiteOut) : State :=
  { service 1000 with
    sites := [(7, upSite 1), (9, upSite 1)], outbound := out
    radios := [(5, { record st with
      hearing := [heardAt 9 20 995, heardAt 7 20 995], groups := [{ group := 5, pending := false }]
      burst := some { newBurst (service 995) 9 9 first none emergency with sites := [7] } })] }

theorem witness_SettleClosesTheBurst_clauses :
    let h : Handover := { tag := 1, readySeen := false, quiescedSeen := false, deadline := 2000 }
    (∃ r b, tget (closing (.presumed 7 .lease 2000) true (some 9) []).radios 5 = some r ∧ r.burst = some b ∧ b.settle ≤ 1000 ∧
      servingSite r.state ≠ none ∧ b.emergency = some 9 ∧ r.emergency = none ∧ b.reported = none ∧
      (closing (.presumed 7 .lease 2000) true (some 9) []).notices.length < 64) ∧
    (∃ r b, tget (closing (.moving 7 9 2000 h) true (some 9) []).radios 5 = some r ∧ r.burst = some b ∧ r.state = .moving 7 9 2000 h ∧
      recordOk r ∧ countsAscend (closing (.moving 7 9 2000 h) true (some 9) [])) ∧
    (∀ first, ∃ r b, tget (closing (.registered 7 2000) first none []).radios 5 = some r ∧ r.state = .registered 7 2000 ∧
      r.burst = some b ∧ b.settle ≤ (closing (.registered 7 2000) first none []).partTime ∧ b.first = first ∧ b.reported = none ∧
      b.emergency = none ∧ handoverDecision (closing (.registered 7 2000) first none []) b.settle b.sites 7 r.hearing = none) ∧
    siteWorks (closing (.registered 7 2000) true none []) 7 = true ∧
    ((closing (.registered 7 2000) true none []).outbound.length + 1 ≤ 448 ∧ roomForOne (closing (.registered 7 2000) true none [])) ∧
    ((∃ r b, tget (closing (.registered 7 2000) true none (List.replicate 448 (.drop 7 1))).radios 5 = some r ∧ r.burst = some b ∧
        handoverDecision (closing (.registered 7 2000) true none (List.replicate 448 (.drop 7 1))) b.settle b.sites 7 r.hearing = none) ∧
      ¬((closing (.registered 7 2000) true none (List.replicate 448 (.drop 7 1))).outbound.length + 1 ≤ 448)) := by
  refine ⟨⟨_, _, rfl, rfl, by decide, by decide, rfl, rfl, rfl, by decide⟩, ⟨_, _, rfl, rfl, rfl, ?_, ?_⟩,
    fun first => ⟨_, _, rfl, rfl, rfl, Nat.le_refl 1000, rfl, rfl, rfl, by cases first <;> decide +kernel⟩, rfl,
    ⟨by decide, room_of (by decide +kernel)⟩, ⟨_, _, rfl, rfl, by decide +kernel⟩, by decide +kernel⟩
  · simp [recordOk, record, countedSites, servingSite, pendingSite, heardAt, groupNumbers]
  · simp [countsAscend, closing, service, State.reset]

/-- The evacuation of site 7 finds site 14 in the list of section 3.6. -/
theorem witness_HandoverDecisionConditions_evacuation :
    evacuationChoice deciding 7 unit52006Second.hearing = some 14 ∧ (unit52006Second.hearing.map Hearing.site).Nodup := by decide +kernel

/-- A JOIN at a site with a status, and at one without and with a free channel. -/
theorem witness_CallRequestCreatesACall_join :
    let s (m : SiteMsg) : State := { preempting with siteIn := [m] }
    (∃ x y, tget preempting.groups 5 = some x ∧ x.activeCall = some 3 ∧ tget preempting.calls 3 = some y ∧ tget y.map 9 ≠ none ∧
      tget y.map 14 = none) ∧
    (∀ n ∈ [9, 14], roomForOne (s (.callRequest n 5 60012)) ∧ admitted (s (.callRequest n 5 60012)) n) ∧ wfGroup 5 = true ∧
    ∃ z, tget preempting.sites 14 = some z ∧ 2 ≤ z.voice ∧ 2 ∉ channelsHeld preempting 14 ∧
      (∀ k, 1 ≤ k → k < 2 → k ∈ channelsHeld preempting 14) ∧
      preempting.outbound.length + 2 * movingCount preempting + 2 ≤ 512 := by
  refine ⟨⟨_, _, rfl, rfl, rfl, by decide, rfl⟩, ?_, rfl, _, rfl, by decide, by decide +kernel, ?_, by decide +kernel⟩
  · intro n hn
    simp only [List.mem_cons, List.not_mem_nil, or_false] at hn
    rcases hn with rfl | rfl <;> exact ⟨room_of (by decide +kernel), rfl, rfl, _, rfl, rfl⟩
  · intro k h1 h2
    obtain rfl : k = 1 := by omega
    decide +kernel

/-- A full Call Table: 32 groups, each with a call of the priority given, and group 40 without. -/
def fullTable (p asked : Priority) : State :=
  { service 90100 with
    sites := [(9, upSite 1)]
    groups := ((List.range 32).map fun k => (k + 1, { group p [] 0 with activeCall := some (k + 1) })) ++ [(40, group asked [] 0)]
    calls := (List.range 32).map fun k => (k + 1, callOf (k + 1) p [])
    radios := [(1, { record .joining with emergency := some { since := 1, site := 9 } })]
    siteIn := [.callRequest 9 40 1] }

theorem full_call {p asked : Priority} {k : Nat} {w : Call} (h : tget (fullTable p asked).calls k = some w) :
    1 ≤ k ∧ k ≤ 32 ∧ w = callOf k p [] := by
  have hm := mem_of_tget h
  simp only [fullTable, List.mem_map, List.mem_range, Prod.mk.injEq] at hm
  obtain ⟨j, hj, rfl, rfl⟩ := hm
  exact ⟨by omega, by omega, rfl⟩

theorem full_table_ok : CallTableOk (fullTable .routine .command) := by
  have hc : Ascending (fullTable .routine .command).calls := by decide +kernel
  have hg : Ascending (fullTable .routine .command).groups := by decide +kernel
  refine ⟨hc, hg, nofun, by decide +kernel, ?_, ?_⟩
  · intro p hp
    have hm := hp
    simp only [fullTable, List.mem_map, List.mem_range] at hm
    obtain ⟨j, hj, rfl⟩ := hm
    exact ⟨_, tget_of_mem hg (List.mem_append_left _ (List.mem_map.2 ⟨j, List.mem_range.2 hj, rfl⟩)), rfl⟩
  · intro p hp c hpc
    have hm := hp
    simp only [fullTable, List.mem_append, List.mem_map, List.mem_range, List.mem_cons, List.not_mem_nil, or_false] at hm
    rcases hm with ⟨j, hj, rfl⟩ | rfl
    · obtain rfl : j + 1 = c := by simpa using hpc
      exact ⟨_, tget_of_mem hc (List.mem_map.2 ⟨j, List.mem_range.2 hj, rfl⟩), rfl⟩
    · simp [group] at hpc

/-- At 32 calls: a request below EMERGENCY; one that meets EMERGENCY calls alone; and an EMERGENCY one that ends call 1, as early as the
others and of the lowest identifier. -/
theorem witness_CallRequestCreatesACall_full :
    (∀ p asked, (tget (fullTable p asked).groups 40).map Group.activeCall = some none ∧ 32 ≤ (fullTable p asked).calls.length ∧
      roomForOne (fullTable p asked) ∧ admitted (fullTable p asked) 9 ∧ (fullTable p asked).notices.length < 64) ∧ wfGroup 40 = true ∧
    (∀ p ∈ (fullTable .emergency .command).calls, p.2.priority = .emergency) ∧
    ((tget (fullTable .routine .command).radios 1).bind Radio.emergency).isSome = true ∧
    (({ fullTable .routine .command with radios := [] } : State).radios = [] ∧ Priority.command ≠ .emergency) ∧
    CallTableOk (fullTable .routine .command) ∧ ∃ y, endedForRoom (fullTable .routine .command) 1 y := by
  refine ⟨fun p asked => ⟨?_, ?_, ?_, ⟨rfl, rfl, _, rfl, rfl⟩, by simp [fullTable, service, State.reset]⟩, rfl, by decide +kernel, rfl,
    ⟨rfl, by decide⟩, full_table_ok, callOf 1 .routine [], rfl, by decide, ?_⟩
  · rfl
  · simp [fullTable]
  · simp [roomForOne, fullTable, service, State.reset, movingCount, record, isMoving]
  · intro k w hne hw _
    obtain ⟨h1, _, rfl⟩ := full_call hw
    exact .inr ⟨rfl, .inr ⟨rfl, by omega⟩⟩

/-- The three ways in which a call ends, and a map whose channels are handed on. -/
theorem witness_CallsHangAndEnd_ways :
    (∃ x, tget ending.calls 4 = some x ∧ Ascending ending.calls ∧ Ascending x.map ∧ endsCall ending 4 x (.hangExpiry 4) ending ∧
      ending.outbound.length + 2 * movingCount ending + 2 * x.map.length ≤ 512 ∧
      ∀ n ch since z, tget x.map n = some (.granted ch since) → tget ending.sites n = some z → 4 ∉ z.queue) ∧
    (∃ x, tget ending.calls 2 = some x ∧ endsCall (asked ending 0x36 [1, 2]) 2 x .forceEnd
      (answered (asked ending 0x36 [1, 2]) (frame 0x36 [1, 2]) [] .done .none)) ∧
    (let s : State := { preempting with siteIn := [.callEnd 9 3], params := { preempting.params with callHang := 0 } }
     ∃ x, tget s.calls 3 = some x ∧ endsCall s 3 x .callEnd { s with siteIn := [] }) := by
  refine ⟨⟨_, rfl, by decide +kernel, by decide +kernel, .inl ⟨rfl, ⟨_, rfl, by decide⟩, rfl⟩, by decide +kernel, ?_⟩,
    ⟨_, rfl, .inr (.inl ⟨_, _, rfl, rfl, rfl, ready_asked (by decide +kernel) rfl, rfl⟩)⟩,
    ⟨_, rfl, .inr (.inr ⟨_, _, rfl, rfl, ⟨rfl, rfl, _, rfl, rfl⟩, rfl, rfl, rfl, rfl, rfl⟩)⟩⟩
  intro n ch since z _ hz
  have hm := mem_of_tget hz
  simp only [ending, preempting, List.mem_cons, List.not_mem_nil, or_false, Prod.mk.injEq] at hm
  rcases hm with ⟨rfl, rfl⟩ | ⟨rfl, rfl⟩ <;> simp [upSite]

/-- Site 9 with both channels held, and the queue given: call 8 is asked for there. -/
def pressed (p : Priority) (queue : List Nat) : State :=
  { preempting with
    sites := [(9, { upSite 1 with voice := 2, queue := queue })]
    calls := [(3, callOf 5 .routine [(9, .granted 1 90020)]), (4, callOf 20 .routine [(9, .granted 2 90020)]),
              (6, callOf 11 .routine [(9, .queued 90050 90150)]), (8, callOf 40 p [])] }

/-- No channel is free. An EMERGENCY call has a victim: of two granted at one time, the one on channel 2. A call below EMERGENCY meets a
queue of seven, and a full one whose last entry ranks lower, and as high. -/
theorem witness_ArbitrationGrantsTheLowestFreeChannel_pressed :
    (∀ p q, Ascending (pressed p q).calls ∧ ∃ x z, tget (pressed p q).calls 8 = some x ∧ x.priority = p ∧
      tget (pressed p q).sites 9 = some z ∧ z.queue = q ∧ noChannelFree (pressed p q) 9 z) ∧
    (∃ y, victimAt (pressed .emergency []) 9 4 y 2 90020) ∧
    ((pressed .emergency []).outbound.length + 2 * movingCount (pressed .emergency []) + 2 ≤ 512 ∧
      (pressed .emergency []).notices.length < 64) ∧
    ¬(({ pressed .emergency [] with outbound := List.replicate 511 (.drop 7 1) } : State).outbound.length + 2 ≤ 512) ∧
    Priority.command ≠ .emergency ∧ (List.replicate 7 6).length < 8 ∧ 8 ≤ (List.replicate 8 6).length ∧
    ((channelQueue (pressed .command (List.replicate 8 6)) 9).getLast? = some 6 ∧
      ∃ y, tget (pressed .command (List.replicate 8 6)).calls 6 = some y ∧ priorityRank y.priority < priorityRank .command) ∧
    ((channelQueue (pressed .routine (List.replicate 8 6)) 9).getLast? = some 6 ∧
      ∃ y, tget (pressed .routine (List.replicate 8 6)).calls 6 = some y ∧ priorityRank .routine ≤ priorityRank y.priority) := by
  refine ⟨fun p q => ⟨by simp [Ascending, tkeys, pressed], _, _, rfl, rfl, rfl, rfl, ?_⟩, ⟨_, rfl, rfl, by decide, ?_⟩, by decide +kernel,
    by decide +kernel, by decide, by decide, by decide, ⟨by decide +kernel, _, rfl, by decide +kernel⟩, ⟨by decide +kernel, _, rfl, by decide +kernel⟩⟩
  · intro ch h1 h2
    have h2 : ch ≤ 2 := h2
    have held : channelsHeld (pressed p q) 9 = [1, 2] := rfl
    have : ch = 1 ∨ ch = 2 := by omega
    simpa [held] using this
  · intro k w ch' since' hne hw hm _
    have hw := mem_of_tget hw
    simp only [pressed, List.mem_cons, List.not_mem_nil, or_false, Prod.mk.injEq] at hw
    rcases hw with ⟨rfl, rfl⟩ | ⟨rfl, rfl⟩ | ⟨rfl, rfl⟩ | ⟨rfl, rfl⟩
    · simp [callOf, tget] at hm
      exact .inr ⟨rfl, .inr ⟨hm.2.symm, by omega⟩⟩
    · exact absurd rfl hne
    · simp [callOf, tget] at hm
    · simp [callOf] at hm

/-- Late entry: a working site without a status of the group's call, and one with it. -/
theorem witness_ArbitrationGrantsTheLowestFreeChannel_late :
    ∃ x, tget preempting.groups 5 = some x ∧ x.activeCall = some 3 ∧ siteWorks preempting 14 = true ∧
      callStatus preempting 3 14 = none ∧ callStatus preempting 3 9 ≠ none ∧ siteWorks preempting 7 = false :=
  ⟨_, rfl, rfl, rfl, by decide +kernel, by decide +kernel, rfl⟩

/-! ### Premises that can be met: bulk operations and requests, clause by clause -/

/-- Filters of each form, and a form and values that name none. -/
theorem witness_BulkRequestsStartWhenIdle_filters :
    requestReady (asked outage 0x51 [1, 0, 1, 9, 0, 0, 0, 0]) (frame 0x51 [1, 0, 1, 9, 0, 0, 0, 0]) [] (.roster false 1 9 0 0) ∧
    requestReady (asked outage 0x51 [1, 0, 2, 5, 0, 0, 7, 32]) (frame 0x51 [1, 0, 2, 5, 0, 0, 7, 32]) [] (.roster false 2 5 7 32) ∧
    requestReady (asked outage 0x51 [1, 0, 3, 1, 0, 0, 0, 33]) (frame 0x51 [1, 0, 3, 1, 0, 0, 0, 33]) [] (.roster false 3 1 0 33) ∧
    requestReady (asked outage 0x51 [1, 0, 1, 48, 0, 0, 0, 1]) (frame 0x51 [1, 0, 1, 48, 0, 0, 0, 1]) [] (.roster false 1 48 0 1) ∧
    namesFilter outage 1 9 (.site 9) ∧ namesFilter outage 2 5 (.group 5) ∧ namesFilter outage 3 1 (.cls (.inState .joining)) ∧
    namesFilter outage 3 9 (.cls .all) ∧ outage.bulk = none ∧
    (∀ form value, form = 0 ∨ 3 < form ∨ (form = 1 ∧ value = 48) ∨ (form = 2 ∧ value = 129) ∨ (form = 3 ∧ (value = 0 ∨ 9 < value)) →
      ∀ f, ¬namesFilter outage form value f) ∧
    (wfGroup 0 = false ∧ wfGroup 129 = false ∧ tget outage.groups 128 = none) ∧
    (wfSite 0 = false ∧ wfSite 49 = false ∧ tget outage.sites 48 = none) := by
  refine ⟨ready_asked (by decide +kernel) rfl, ready_asked (by decide +kernel) rfl, ready_asked (by decide +kernel) rfl,
    ready_asked (by decide +kernel) rfl, .inl ⟨rfl, rfl, rfl, by decide⟩, .inr (.inl ⟨rfl, rfl, rfl, by decide⟩),
    .inr (.inr ⟨rfl, _, rfl, by decide⟩), .inr (.inr ⟨rfl, _, rfl, by decide⟩), rfl, ?_, by decide +kernel, by decide +kernel⟩
  rintro form value h f (⟨rfl, rfl, h1, h2⟩ | ⟨rfl, rfl, h1, h2⟩ | ⟨rfl, c, rfl, h1⟩)
  · obtain rfl : value = 48 := by omega
    exact h2 rfl
  · obtain rfl : value = 129 := by omega
    exact absurd h1 (by decide)
  · have hv : ∀ p ∈ rosterClasses, 1 ≤ p.1 ∧ p.1 ≤ 9 := by decide
    have := hv _ h1
    simp only at this
    omega

/-- An operation meets the record of unit 1. -/
theorem running_visits (op : BulkOp) (r : Radio) (out : List SiteOut) :
    ∃ b, (running op false [(1, r)] out).bulk = some b ∧ b.op = op ∧ b.suspended = false ∧ b.page = [] ∧
      Ascending (running op false [(1, r)] out).radios ∧ tnext (running op false [(1, r)] out).radios b.cursor = some 1 ∧
      tget (running op false [(1, r)] out).radios 1 = some r ∧ (running op false [(1, r)] out).bulkWaiting = none ∧
      (running op false [(1, r)] out).notices.length < 64 :=
  ⟨_, rfl, rfl, rfl, rfl, by simp [Ascending, tkeys, running], rfl, rfl, rfl, (by decide : 0 < 64)⟩

/-- An operation meets the end of the Directory, with and without a request that waits. -/
theorem running_ends (op : BulkOp) (wait : Option BulkOp) :
    let s : State := { running op false [] [] with bulkWaiting := wait }
    ∃ b, s.bulk = some b ∧ b.op = op ∧ b.suspended = false ∧ Ascending s.radios ∧ tnext s.radios b.cursor = none ∧
      s.bulkWaiting = wait ∧ s.notices.length + 2 ≤ 64 ∧ s.outbound.length + 1 ≤ 448 :=
  ⟨_, rfl, rfl, rfl, by simp [Ascending, tkeys, running], rfl, rfl, (by decide : 2 ≤ 64), (by decide : 1 ≤ 448)⟩

/-- Site 7 is evacuated of a record heard at site 9 too. -/
def evacuating (hearing : List Hearing) (out : List SiteOut) : State :=
  { running (.evacuate 7) false [(1, { record (.registered 7 2000) with hearing := hearing })] out with
    sites := [(7, upSite 1), (9, upSite 1)] }

theorem witness_BulkStepVisitsOrCompletes_visits :
    (¬matchesFilter (record (.lost 7)) (.site 7) ∧ matchesFilter (record (.lost 7)) (.cls (.inState .lost))) ∧
    ([] : List RosterEntry).length < 1 ∧
    (∃ b, ({ paging with bulkWaiting := none } : State).bulk = some b ∧ b.op = .roster (.cls (.inState .lost)) 0 2 ∧
      tnext paging.radios b.cursor = some 42008 ∧ 2 ≤ b.page.length) ∧
    { group := 5, pending := false } ∉ (record (.registered 7 2000)).groups ∧
    (let s : State := { running (.cancelRecall 5) false
        [(1, { record (.lost 7) with groups := [{ group := 5, pending := true }] })] [] with
        groups := [(5, { group .routine [] 0 with recallState := .cancelling, unreached := 1 })] }
     (∃ r, tget s.radios 1 = some r ∧ { group := 5, pending := true } ∈ r.groups) ∧
       ∃ x, tget s.groups 5 = some x ∧ x.recallState ≠ .active) ∧
    evacuationChoice (evacuating [heardAt 7 20 995] []) 7 [heardAt 7 20 995] = none ∧
    (evacuationChoice (evacuating [heardAt 9 20 995] []) 7 [heardAt 9 20 995] = some 9 ∧
      (evacuating [heardAt 9 20 995] []).outbound.length + 2 * movingCount (evacuating [heardAt 9 20 995] []) + 4 ≤ 512) ∧
    (evacuationChoice (evacuating [heardAt 9 20 995] (List.replicate 509 (.drop 7 1))) 7 [heardAt 9 20 995] = some 9 ∧
      ¬((evacuating [heardAt 9 20 995] (List.replicate 509 (.drop 7 1))).outbound.length +
        2 * movingCount (evacuating [heardAt 9 20 995] (List.replicate 509 (.drop 7 1))) + 4 ≤ 512)) ∧
    (7 ∉ countedSites (record (.lost 7)).state ∧ stateName (record (.presumed 7 .lease 2000)).state = .presumed) ∧
    (siteWorks (running (.resync 7) false [(1, record (.registered 7 2000))] []) 7 = true ∧
      roomForOne (running (.resync 7) false [(1, record (.registered 7 2000))] [])) ∧
    siteWorks { running (.resync 7) false [] [] with sites := [(7, { upSite 1 with state := .dark })] } 7 = false ∧
    stateName (record (.presumed 7 .lease 2000)).state ≠ .retired :=
  ⟨⟨by simp [matchesFilter, record, servingSite], rfl⟩, by decide, ⟨_, rfl, rfl, by decide +kernel, by decide⟩, by decide,
   ⟨⟨_, rfl, by decide⟩, _, rfl, by decide⟩, by decide +kernel, by decide +kernel, by decide +kernel, by decide +kernel,
   ⟨rfl, room_of (by decide +kernel)⟩, rfl, by decide⟩

theorem witness_BulkStepVisitsOrCompletes_ends :
    (∃ x, tget (running (.recallGroup 5) false [] []).groups 5 = some x ∧ x.unreached = 0) ∧
    (∃ x, tget (running (.cancelRecall 5) false [] []).groups 5 = some x) ∧
    ((∃ x, tget (running (.resync 7) false [] []).sites 7 = some x) ∧ roomForOne (running (.resync 7) false [] [])) ∧
    (∃ x, tget (running .purge false [] []).groups 5 = some x) ∧ ∃ x, tget (running .purge false [] []).sites 7 = some x :=
  ⟨⟨_, rfl, rfl⟩, ⟨_, rfl⟩, ⟨⟨_, rfl⟩, room_of (by decide +kernel)⟩, ⟨_, rfl⟩, ⟨_, rfl⟩⟩

/-- Requests of each kind that find an operation in hand. -/
theorem witness_BulkControlRequests_kinds :
    let s := running .purge false [] []
    s.phase = .service ∧ s.bulk ≠ none ∧ s.bulkWaiting = none ∧
    (requestReady (asked s 0x51 [1, 1, 2, 5, 0, 0, 0, 33]) (frame 0x51 [1, 1, 2, 5, 0, 0, 0, 33]) [] (.roster true 2 5 0 33) ∧
      asksFor s (.roster true 2 5 0 33) true (.roster (.group 5) 0 32)) ∧
    (requestReady (asked s 0x52 [1, 1, 5]) (frame 0x52 [1, 1, 5]) [] (.recallGroup true 5) ∧
      asksFor s (.recallGroup true 5) true (.recallGroup 5)) ∧
    (requestReady (asked s 0x53 [1, 0, 5]) (frame 0x53 [1, 0, 5]) [] (.cancelRecall false 5) ∧
      asksFor s (.cancelRecall false 5) false (.cancelRecall 5)) ∧
    (requestReady (asked s 0x54 [1, 1, 7]) (frame 0x54 [1, 1, 7]) [] (.evacuate true 7) ∧
      asksFor s (.evacuate true 7) true (.evacuate 7)) ∧
    (requestReady (asked s 0x55 [1, 0, 7]) (frame 0x55 [1, 0, 7]) [] (.resync false 7) ∧
      asksFor s (.resync false 7) false (.resync 7)) ∧
    asksFor s (.purge true) true .purge :=
  ⟨rfl, by decide, rfl,
   ⟨ready_asked (by decide +kernel) rfl, .inl ⟨_, _, _, _, _, rfl, .inr (.inl ⟨rfl, rfl, rfl, by decide⟩), rfl⟩⟩,
   ⟨ready_asked (by decide +kernel) rfl, .inr (.inl ⟨_, rfl, rfl, rfl, by decide⟩)⟩,
   ⟨ready_asked (by decide +kernel) rfl, .inr (.inr (.inl ⟨_, rfl, rfl, rfl, by decide⟩))⟩,
   ⟨ready_asked (by decide +kernel) rfl, .inr (.inr (.inr (.inl ⟨_, rfl, rfl, rfl, by decide⟩)))⟩,
   ⟨ready_asked (by decide +kernel) rfl, .inr (.inr (.inr (.inr (.inl ⟨_, rfl, rfl, rfl, by decide⟩))))⟩,
   .inr (.inr (.inr (.inr (.inr ⟨rfl, rfl⟩))))⟩

/-- SET-PARAMETER with any parameter number and any value, in CONFIG and in SERVICE phase. -/
theorem witness_ParametersAreSetAndServiceOpens_all (k : Byte) (hi lo : Byte) (s : State) (hs : s = configured ∨ s = outage) :
    requestReady (asked s 0x18 [1, k, hi, lo]) (frame 0x18 [1, k, hi, lo]) [] (.setParameter k.toNat (hi.toNat * 256 + lo.toNat)) := by
  rcases hs with rfl | rfl <;> exact ready_asked rfl rfl

/-- MOVING with both sites working, LOST with a flag set, and the requests that release them. -/
theorem witness_ForceReleaseRetires_states :
    let h : Handover := { tag := 4, readySeen := false, quiescedSeen := false, deadline := 2000 }
    let s : State := { flying false false (.status 7 1) with
      groups := [(5, { group .routine [] 0 with recallState := .active, unreached := 1 })]
      radios := [(1, { record (.lost 7) with groups := [{ group := 5, pending := true }] }), (2, record (.moving 7 9 2000 h))] }
    Ascending s.radios ∧ s.phase = .service ∧
    (requestReady (asked s 0x31 [1, 0, 0, 2]) (frame 0x31 [1, 0, 0, 2]) [] (.forceRelease 2) ∧
      ∃ r, tget s.radios 2 = some r ∧ r.state = .moving 7 9 2000 h) ∧
    (s.outbound.length + 2 ≤ 448 ∧ roomForOne s) ∧
    (requestReady (asked s 0x31 [1, 0, 0, 1]) (frame 0x31 [1, 0, 0, 1]) [] (.forceRelease 1) ∧
      ∃ r, tget s.radios 1 = some r ∧ r.state = .lost 7 ∧ (groupNumbers r.groups).Nodup ∧ { group := 5, pending := true } ∈ r.groups) :=
  ⟨by decide +kernel, rfl, ⟨ready_asked (by decide +kernel) rfl, _, rfl, rfl⟩, ⟨by decide, room_of (by decide +kernel)⟩,
   ready_asked (by decide +kernel) rfl, _, rfl, rfl, by decide +kernel, by decide⟩

/-- SET-GROUPS of a record with its hearing entry where no group has a call, with room for two REGROUPs and at the ordinary limit. -/
theorem witness_SetGroupsOrdersARegroup_effects :
    let s (out : List SiteOut) : State :=
      { closing (.registered 7 2000) false none out with
        groups := [(5, group .routine [(7, 1)] 1), (11, { group .routine [] 0 with recallState := .active })] }
    (∀ out, requestReady (asked (s out) 0x34 [1, 0, 0, 5, 1, 11]) (frame 0x34 [1, 0, 0, 5, 1, 11]) [] (.setGroups 5 [11]) ∧
      (s out).phase = .service ∧ countsAscend (s out) ∧ noActiveCalls (s out) ∧
      ∃ r, tget (s out).radios 5 = some r ∧ servingSite r.state ≠ none ∧ recordOk r) ∧
    ((s []).outbound.length + 2 ≤ 448 ∧ (s []).outbound.length + 2 * movingCount (s []) + 2 ≤ 512) ∧
    ¬((s (List.replicate 448 (.drop 7 1))).outbound.length + 1 ≤ 448) := by
  refine ⟨fun out => ⟨ready_asked rfl rfl, rfl, ?_, ?_, _, rfl, by simp [record, servingSite], ?_⟩, by decide +kernel, by decide +kernel⟩
  · simp [countsAscend, group, Ascending, tkeys]
  · simp [noActiveCalls, group]
  · simp [recordOk, record, countedSites, servingSite, pendingSite, heardAt, groupNumbers]

/-! ### Premises that can be met: early closes, notices and the wider clauses -/

/-- The state at which the settle expiry does the early close that a copy or DEREG meets on `bursting`. -/
def arriving (m : SiteMsg) (seq : Nat) (st : RecordState) : State :=
  atArrival (reporting m [(5, bursting st [9])]) [] (.receipt 7 5 seq .taken [] none) 5 (bursting st [9])
    { newBurst (service 995) 9 9 false none none with sites := [9] }

/-- Newer copies of each kind, at distances 1 and 8 and first-flagged, meet an open burst in each state; the close keeps the record or,
of a JOINING one that no site can take, frees it. -/
theorem witness_NewerHeardOpensABurst_arrival :
    let h : Handover := { tag := 1, readySeen := false, quiescedSeen := false, deadline := 2000 }
    (∀ m st, Ascending (reporting m [(5, bursting st [9])]).radios ∧ (reporting m [(5, bursting st [9])]).radios.length ≤ 2048 ∧
      admitted (reporting m [(5, bursting st [9])]) 7 ∧ tget (reporting m [(5, bursting st [9])]).radios 5 = some (bursting st [9]) ∧
      (bursting st [9]).burst = some { newBurst (service 995) 9 9 false none none with sites := [9] }) ∧
    (∀ m, ∀ st ∈ [RecordState.joining, .registered 7 2000, .presumed 7 .lease 2000, .lost 7],
      roomForOne (reporting m [(5, bursting st [9])])) ∧
    (∀ st, (∃ k, copyHead (.heard 7 5 10 20) = some (.heard, k) ∧ newerCopy (bursting st [9]) k) ∧
      (∃ k, copyHead (.emerg 7 5 1 20) = some (.emerg, k) ∧ newerCopy (bursting st [9]) k) ∧
      ∃ k, copyHead (.reg 7 5 9 true 20 []) = some (.reg, k) ∧ newerCopy (bursting st [9]) k) ∧
    (∀ st ∈ [RecordState.registered 7 2000, .presumed 7 .lease 2000, .lost 7, .moving 7 9 2000 h],
      (tget (after (.settleExpiry 5) (arriving (.heard 7 5 10 20) 10 st)).radios 5).isSome = true) ∧
    tget (after (.settleExpiry 5) (arriving (.heard 7 5 10 20) 10 .joining)).radios 5 = none := by
  refine ⟨fun m st => ⟨by simp [Ascending, tkeys, reporting], by simp [reporting], reporting_admitted _ _, rfl, rfl⟩, ?_,
    fun st => ⟨⟨_, rfl, .inl ⟨rfl, by simp [bursting, record], by simp [bursting, record]⟩⟩,
      ⟨_, rfl, .inl ⟨rfl, by simp [bursting, record], by simp [bursting, record]⟩⟩, ⟨_, rfl, .inr ⟨rfl, ?_⟩⟩⟩,
    by decide +kernel, by decide +kernel⟩
  · intro m st hst
    simp only [List.mem_cons, List.not_mem_nil, or_false] at hst
    rcases hst with rfl | rfl | rfl | rfl <;> exact reporting_room _ _ rfl
  · simp [ownBurst, bursting, newBurst]

/-- What the close leaves to a newer DEREG: nothing, or a record in each state, with an emergency that the burst brought and without. -/
theorem witness_DeregRetiresOrIsHeld_arrival :
    let h : Handover := { tag := 1, readySeen := false, quiescedSeen := false, deadline := 2000 }
    let left (st : RecordState) (seq : Nat) := tget (after (.settleExpiry 5) (arriving (.dereg 7 5 seq) seq st)).radios 5
    (1 ≤ (10 + 16 - (bursting .joining [9]).lastSeq) % 16 ∧ (1 + 16 - (bursting .joining [9]).lastSeq) % 16 ≤ 8) ∧
    left .joining 10 = none ∧
    (∃ r, left (.registered 7 2000) 1 = some r ∧ r.emergency = none ∧ r.state = .registered 7 4000) ∧
    (∃ r, left (.moving 7 9 2000 h) 10 = some r ∧ r.emergency = none ∧ r.state = .moving 7 9 4000 h) ∧
    (∃ r, left (.lost 7) 10 = some r ∧ r.emergency = none ∧ r.state = .lost 7) ∧
    (let r : Radio := { record (.lost 7) with burst := some { newBurst (service 995) 9 9 false none (some 9) with sites := [9] } }
     let s := reporting (.dereg 7 5 10) [(5, r)]
     r.burst ≠ none ∧ Ascending s.radios ∧ roomForOne s ∧ admitted s 7 ∧
       ((tget (after (.settleExpiry 5) (atArrival s [] (.receipt 7 5 10 .taken [] none) 5 r
         { newBurst (service 995) 9 9 false none (some 9) with sites := [9] })).radios 5).bind Radio.emergency).isSome = true) :=
  ⟨by decide, by decide +kernel, ⟨_, rfl, rfl, rfl⟩, ⟨_, rfl, rfl, rfl⟩, ⟨_, rfl, rfl, rfl⟩,
   ⟨by decide, by decide +kernel, reporting_room _ _ rfl, reporting_admitted _ _, by decide +kernel⟩⟩

/-- EMERG and REG copies at distances 9 and 15, and an EMERG of an absent unit at a full Directory. -/
theorem witness_UnusableReportsOnlyGetTheirReceipt_kinds :
    let full := reporting (.emerg 7 5000 1 20) ((List.range 2048).map fun u => (u + 1, record (.lost 7)))
    (∃ k, copyHead (.emerg 7 5 2 20) = some (.emerg, k) ∧ k.first = false ∧ 9 ≤ (k.seq + 16 - (record (.lost 7)).lastSeq) % 16) ∧
    (∃ k, copyHead (.reg 7 5 8 false 20 [1]) = some (.reg, k) ∧ k.first = false ∧
      9 ≤ (k.seq + 16 - (record (.lost 7)).lastSeq) % 16) ∧
    (∀ m, roomForOne (reporting m [(5, record (.lost 7))]) ∧ admitted (reporting m [(5, record (.lost 7))]) 7 ∧
      tget (reporting m [(5, record (.lost 7))]).radios 5 = some (record (.lost 7))) ∧
    (∃ k, copyHead (.emerg 7 5000 1 20) = some (.emerg, k) ∧ carriesParts k = true) ∧
    (roomForOne full ∧ admitted full 7 ∧ tget full.radios 5000 = none ∧ 2048 ≤ full.radios.length ∧
      ∀ p ∈ full.radios, stateName p.2.state ≠ .retired) :=
  ⟨⟨_, rfl, rfl, by decide⟩, ⟨_, rfl, rfl, by decide⟩, fun m => ⟨reporting_room _ _ rfl, reporting_admitted _ _, rfl⟩, ⟨_, rfl, rfl⟩,
   room_of (by decide +kernel), reporting_admitted _ _, by decide +kernel, by decide +kernel, by decide +kernel⟩

/-- Site 7, group 5 with its recall ACTIVE and one unreached record, and a record with that flag. -/
def lastUnreached (st : RecordState) (m : SiteMsg) : State :=
  { reporting m [(5, { record st with groups := [{ group := 5, pending := true }], hearing := [heardAt 7 20 900] })] with
    groups := [(5, { group .routine [] 0 with recallState := .active, unreached := 1 })] }

/-- The last flag of an ACTIVE recall falls, by a receipt, by FORCE-RELEASE of a JOINING and of a served record, and by SET-GROUPS. -/
theorem witness_RecallCompletes :
    (∀ st m, ∃ r, tget (lastUnreached st m).radios 5 = some r ∧ r.state = st ∧ r.burst = none ∧ (groupNumbers r.groups).Nodup ∧
      recallsDone (lastUnreached st m) r.groups = [{ time := 1000, body := .recallComplete 5 }] ∧
      (lastUnreached st m).notices.length + r.groups.length ≤ 64 ∧ (lastUnreached st m).notices.length + 4 ≤ 64 ∧
      noActiveCalls (lastUnreached st m) ∧ Ascending (lastUnreached st m).radios ∧ (lastUnreached st m).phase = .service) ∧
    (∀ st m, requestReady (asked (lastUnreached st m) 0x31 [1, 0, 0, 5]) (frame 0x31 [1, 0, 0, 5]) [] (.forceRelease 5) ∧
      requestReady (asked (lastUnreached st m) 0x34 [1, 0, 0, 5, 0]) (frame 0x34 [1, 0, 0, 5, 0]) [] (.setGroups 5 [])) ∧
    (stateName RecordState.joining ≠ .retired ∧ servingSite RecordState.joining = none ∧
      servingSite (.registered 7 2000) = some 7) ∧
    ∃ r, tget (lastUnreached (.registered 7 2000) (.status 7 1)).radios 5 = some r ∧ recordOk r := by
  refine ⟨fun st m => ⟨_, rfl, rfl, rfl, by simp [groupNumbers], rfl, (by decide : 0 + 1 ≤ 64), (by decide : 0 + 4 ≤ 64), ?_, ?_, rfl⟩,
    fun st m => ⟨ready_asked rfl rfl, ready_asked rfl rfl⟩, by decide, _, rfl, ?_⟩
  · simp [noActiveCalls, lastUnreached, group]
  · simp [Ascending, tkeys, lastUnreached, reporting]
  · simp [recordOk, record, countedSites, servingSite, pendingSite, heardAt, groupNumbers]

/-- The penalties at the edges of their ranges. -/
theorem witness_ScoresFollowTheRule_penalties :
    1 ≤ 1 ∧ 15 < 16 * 1 ∧ 16 * 1 ≤ 16 ∧ 16 * 60 ≤ 960 ∧ 1 ≤ 255 ∧ 254 < 255 ∧ 255 ≤ 255 ∧ 0 ≤ 12 ∧ 12 ≤ 12 := by decide

/-- Each condition that restores a site, at a DOWN and at a DARK one: with room for the ADOPT of the record that waits there, and at the
limit of ordinary directives. -/
theorem witness_StatusesMoveTheSiteState_restores :
    let s (st : SiteState) (v : Nat) (out : List SiteOut) : State :=
      { service 1000 with
        sites := [(48, { upSite 1 with state := st })], siteIn := [.status 48 v], outbound := out
        radios := [(5, record (.presumed 48 .siteDark 2000)), (6, record (.presumed 48 .lease 2000))] }
    (∀ st v out, (s st v out).phase = .service ∧ (s st v out).notices.length + 2 ≤ 64 ∧ Ascending (s st v out).radios ∧
      (s st v out).siteIn = .status 48 v :: [] ∧ ∃ x, tget (s st v out).sites 48 = some x ∧ x.state = st ∧ x.syncLost = false) ∧
    wfSite 48 = true ∧ ((s .dark 1 []).radios.filter fun p => awaitsSite 48 p.2).length = 1 ∧
    ((s .dark 1 (List.replicate 447 (.drop 7 1))).outbound.length + 1 ≤ 448 ∧
      (s .dark 1 (List.replicate 447 (.drop 7 1))).outbound.length + 2 * movingCount (s .dark 1 []) + 1 ≤ 512) ∧
    ¬((s .dark 2 (List.replicate 448 (.drop 7 1))).outbound.length + 1 ≤ 448) :=
  ⟨fun _ _ _ => ⟨rfl, (by decide : 0 + 2 ≤ 64), by simp [Ascending, tkeys], rfl, _, rfl, rfl, rfl⟩, rfl, by decide +kernel,
   by decide +kernel, by decide +kernel⟩

/-- The outage of section 5.10 ends one handover and sends its CANCEL. -/
theorem witness_SilentOrFailingSitesGoDark_leaves :
    outage.radios.countP (fun p => leavesDark 9 p.2) = 1 ∧ outage.radios.flatMap (darkDirectives outage 9) = [.cancel 7 60377 812] ∧
    outage.notices.length < 64 := by decide +kernel

/-- An operation of every kind is aborted, with and without a request in the waiting slot. -/
theorem witness_BulkControlRequests_abort :
    ∀ (op : BulkOp) (wait : Option BulkOp), ∃ b,
      ({ running op false [] [] with bulkWaiting := wait } : State).bulk = some b ∧ bulkKind b.op = bulkKind op ∧
      ({ running op false [] [] with bulkWaiting := wait } : State).notices.length < 64 ∧
      ({ running op false [] [] with bulkWaiting := wait } : State).phase = .service ∧
      requestReady (asked { running op false [] [] with bulkWaiting := wait } 0x59 [1, 1, byte (bulkKind op)])
        (frame 0x59 [1, 1, byte (bulkKind op)]) [] (.bulkAbort 1 (bulkKind op)) := by
  intro op wait
  refine ⟨_, rfl, rfl, (by decide : 0 < 64), rfl, ?_⟩
  cases op <;> exact ready_asked rfl rfl

/-- A ROSTER page fills and a request waits. -/
theorem witness_BulkStepVisitsOrCompletes_waiting :
    let s : State := { paging with bulkWaiting := some (.recallGroup 5) }
    s.bulkWaiting = some (.recallGroup 5) ∧ s.notices.length < 64 ∧
    ∃ b, s.bulk = some b ∧ b.op = .roster (.cls (.inState .lost)) 0 2 ∧ b.suspended = false ∧ tnext s.radios b.cursor = some 42008 ∧
      2 ≤ b.page.length := ⟨rfl, by decide, _, rfl, rfl, rfl, by decide +kernel, by decide⟩

/-- SET-SITE with every field out of its range in CONFIG phase, with a capacity beside other fields and the site's own voice-channel
number in SERVICE, and of sites that are not configured. -/
theorem witness_SitesAreChanged_fields :
    (configured.phase = .config ∧
      requestReady (asked configured 0x12 [1, 48, 0x3F, 0, 17, 0xF7, 16, 2]) (frame 0x12 [1, 48, 0x3F, 0, 17, 0xF7, 16, 2]) []
        (.setSite 48 (some 0) (some 17) (some (-9)) (some 16) (some false) (some true)) ∧
      ∃ x, tget configured.sites 48 = some x ∧ x.count < 1) ∧
    (requestReady (asked outage 0x12 [1, 9, 0x07, 4, 2, 0xF8, 0, 0]) (frame 0x12 [1, 9, 0x07, 4, 2, 0xF8, 0, 0]) []
        (.setSite 9 (some 4) (some 2) (some (-8)) none none none) ∧
      outage.notices.length < 64 ∧ ∃ x, tget outage.sites 9 = some x ∧ min 16 (max 1 2) = x.voice ∧ 4 < x.count ∧ x.overFlag = false) ∧
    (requestReady (asked outage 0x12 [1, 0, 0, 0, 0, 0, 0, 0]) (frame 0x12 [1, 0, 0, 0, 0, 0, 0, 0]) []
        (.setSite 0 none none none none none none) ∧
      requestReady (asked outage 0x12 [1, 48, 0, 0, 0, 0, 0, 0]) (frame 0x12 [1, 48, 0, 0, 0, 0, 0, 0]) []
        (.setSite 48 none none none none none none) ∧ tget outage.sites 48 = none) ∧
    requestReady (asked outage 0x13 [1, 49, 1, 7]) (frame 0x13 [1, 49, 1, 7]) [] (.setNeighbours 49 [7]) ∧
    ∃ x, tget ({ outage with sites := [(9, { upSite 65 with overFlag := true })] } : State).sites 9 = some x ∧ x.overFlag = true ∧
      x.capacity < x.count :=
  ⟨⟨rfl, ready_asked (by decide +kernel) rfl, _, rfl, by decide⟩,
   ⟨ready_asked (by decide +kernel) rfl, by decide, _, rfl, rfl, by decide, rfl⟩,
   ⟨ready_asked (by decide +kernel) rfl, ready_asked (by decide +kernel) rfl, rfl⟩, ready_asked (by decide +kernel) rfl,
   _, rfl, rfl, by decide⟩

/-- SET-GROUP with both fields and a list that is filtered, and groups out of range and not configured. -/
theorem witness_GroupsAreDefinedAndChanged_fields :
    (requestReady (asked configured 0x16 [1, 1, 3, 2, 4, 48, 2, 48, 1]) (frame 0x16 [1, 1, 3, 2, 4, 48, 2, 48, 1]) []
        (.setGroup 1 (some 2) (some [48, 2, 48, 1])) ∧ ∃ x, tget configured.groups 1 = some x) ∧
    requestReady (asked outage 0x16 [1, 129, 0, 0, 0]) (frame 0x16 [1, 129, 0, 0, 0]) [] (.setGroup 129 none none) ∧
    (requestReady (asked outage 0x16 [1, 128, 0, 0, 0]) (frame 0x16 [1, 128, 0, 0, 0]) [] (.setGroup 128 none none) ∧
      tget outage.groups 128 = none) ∧
    requestReady (asked configured 0x15 [1, 0, 1, 0]) (frame 0x15 [1, 0, 1, 0]) [] (.defineGroup 0 1 []) ∧
    requestReady (asked configured 0x15 [1, 129, 1, 0]) (frame 0x15 [1, 129, 1, 0]) [] (.defineGroup 129 1 []) :=
  ⟨⟨ready_asked (by decide +kernel) rfl, _, rfl⟩, ready_asked (by decide +kernel) rfl, ⟨ready_asked (by decide +kernel) rfl, rfl⟩,
   ready_asked (by decide +kernel) rfl, ready_asked (by decide +kernel) rfl⟩

end Sys2Proof.Machine.Tests
end

