-- ==== Sys2Proof/Proofs/Scores.lean ====
section
/-! The score of a hearing entry (R49 to R51): one lemma for each penalty, in the order of the Site Selector's definitions, the
bounds of the raw score and of the clamped one, and the statement assembled from them. -/

namespace Sys2Proof.Machine

/-! ### The age penalty (R49) -/

theorem agePenalty_le (a d : Nat) : agePenalty a d ≤ 16 := Nat.min_le_left ..

theorem agePenalty_of_lt {a d : Nat} (h : a < 16 * d) : agePenalty a d = a / d :=
  Nat.min_eq_right (Nat.div_lt_of_lt_mul (Nat.mul_comm 16 d ▸ h)).le

theorem agePenalty_of_le {a d : Nat} (hd : 1 ≤ d) (h : 16 * d ≤ a) : agePenalty a d = 16 :=
  Nat.min_eq_left ((Nat.le_div_iff_mul_le hd).2 h)

/-! ### The occupancy and the load penalty (R50) -/

theorem siteOccupancy_le (n c : Nat) : siteOccupancy n c ≤ 16 := Nat.min_le_left ..

theorem siteOccupancy_of_lt {n c : Nat} (h : n < c) : siteOccupancy n c = 16 * n / c :=
  Nat.min_eq_right (Nat.div_le_of_le_mul (by omega))

theorem siteOccupancy_of_le {n c : Nat} (hc : 1 ≤ c) (h : c ≤ n) : siteOccupancy n c = 16 :=
  Nat.min_eq_left ((Nat.le_div_iff_mul_le hc).2 (Nat.mul_le_mul_left 16 h))

theorem loadPenalty_eq_zero_iff {o : Nat} : loadPenalty o = 0 ↔ o ≤ 12 := by
  unfold loadPenalty
  omega

theorem loadPenalty_le {o : Nat} (h : o ≤ 16) : loadPenalty o ≤ 8 := by
  unfold loadPenalty
  omega

/-! ### The raw score and the clamped score (R51) -/

/-- The ends are R51's: 0 − 8 − 16 − 8 − 8, and 63 + 7. -/
theorem rawScore_bounds {q ageP loadP degP : Nat} {b : Int} (hq : q ≤ 63) (hb : -8 ≤ b) (hb' : b ≤ 7) (hA : ageP ≤ 16)
    (hL : loadP ≤ 8) (hG : degP ≤ 8) : -40 ≤ rawScore q b ageP loadP degP ∧ rawScore q b ageP loadP degP ≤ 70 := by
  unfold rawScore
  omega

theorem clampScore_le (raw : Int) : clampScore raw ≤ 63 := Nat.min_le_left ..

theorem clampScore_cast (raw : Int) : (clampScore raw : Int) = min 63 (max 0 raw) := by
  unfold clampScore
  omega

theorem score_le (s : State) (t : Nat) (inSet : List Nat) (serving : Bool) (x : Site) (h : Hearing) :
    score s t inSet serving x h ≤ 63 := clampScore_le _

/-! ### The age of an entry and its score -/

theorem hearingAge_eq (t : Nat) (inSet : List Nat) (h : Hearing) :
    hearingAge t inSet h = if h.site ∈ inSet then 0 else min 65535 ((t - h.heard) / 10) := by
  simp only [hearingAge, secondsOf, List.contains_iff_mem]

theorem score_eq (s : State) (t : Nat) (inSet : List Nat) (serving : Bool) (x : Site) (h : Hearing) :
    score s t inSet serving x h = clampScore (rawScore h.quality x.bias
      (agePenalty (if h.site ∈ inSet then 0 else min 65535 ((t - h.heard) / 10)) s.params.ageDecay)
      (loadPenalty (siteOccupancy (if serving then x.count else x.count + 1) x.capacity)) (degradedPenalty x.state)) := by
  rw [← hearingAge_eq]
  rfl

/-- Settles O30: each part of the rule is the lemma of the definition it speaks of. -/
theorem scoresFollowTheRule : Obligations.ScoresFollowTheRule := by
  refine ⟨fun _ => ⟨rfl, rfl⟩, rfl, rfl, ?raw, ?penalties, ?age, ?occupancy, fun _ => loadPenalty_eq_zero_iff.2,
    rfl, rfl, rfl, rfl, clampScore_cast, ?score⟩
  case raw => exact fun _ _ _ _ _ => ⟨rfl, rawScore_bounds⟩
  case penalties => exact fun a d n c => ⟨agePenalty_le a d, loadPenalty_le (siteOccupancy_le n c)⟩
  case age => exact fun _ _ hd => ⟨agePenalty_of_lt, agePenalty_of_le hd⟩
  case occupancy => exact fun _ _ hc => ⟨siteOccupancy_of_lt, siteOccupancy_of_le hc⟩
  case score => exact fun s t inSet serving x h => ⟨score_le s t inSet serving x h, score_eq s t inSet serving x h⟩

end Sys2Proof.Machine
end

/-! UNDEFINE-GROUP and UNDEFINE-SITE (R107, R113): what each does to the record that it names, the step that takes it in each
case, and the statement assembled from them. -/

namespace Sys2Proof.Machine

/-! ### The record named -/

theorem groupConfigured_eq_false_iff (s : State) (g : Nat) :
    groupConfigured s g = false ↔ g = 0 ∨ 128 < g ∨ tget s.groups g = none := by
  rw [← Bool.not_eq_true, groupConfigured_iff, wfGroup_iff]
  by_cases hg : tget s.groups g = none
  · simp [hg]
  · simp only [hg, ne_eq, not_false_eq_true, and_true, or_false]
    omega

theorem doUndefineGroup_of_configured {s : State} {g : Nat} (h : groupConfigured s g = true) :
    doUndefineGroup g s = ({ s with groups := tdel s.groups g }, .done, .none) := if_pos h

theorem doUndefineGroup_of_not_configured {s : State} {g : Nat} (h : groupConfigured s g = false) :
    doUndefineGroup g s = (s, .noSuch, .none) := if_neg (Bool.eq_false_iff.1 h)

theorem doUndefineSite_of_configured {s : State} {n : Nat} (h : siteConfigured s n = true) :
    doUndefineSite n s = ({ s with
      sites := (tdel s.sites n).map fun p => (p.1, { p.2 with neighbours := p.2.neighbours.filter (· != n) })
      groups := s.groups.map fun p => (p.1, { p.2 with fixed := p.2.fixed.filter (· != n) }) }, .done, .none) := if_pos h

/-! ### The step that takes the request -/

section
variable {s : State} {e : RequestEntry} {rest : List RequestEntry} {g n : Nat}

theorem exec_undefineGroup_wrongPhase (h : requestReady s e rest (.undefineGroup g)) (hp : s.phase = .service) :
    exec .undefineGroup s = .next (answered s e rest .wrongPhase .none) :=
  congrArg Host.Outcome.next (serve_wrongPhase h rfl (by rw [hp]; rfl))

theorem exec_undefineGroup_noSuch (h : requestReady s e rest (.undefineGroup g)) (hp : s.phase = .config)
    (hg : groupConfigured s g = false) : exec .undefineGroup s = .next (answered s e rest .noSuch .none) := by
  rw [exec_undefineGroup_ready h hp, doUndefineGroup_of_not_configured (s := { s with requests := rest }) hg]
  rfl

theorem exec_undefineGroup_done (h : requestReady s e rest (.undefineGroup g)) (hp : s.phase = .config)
    (hg : groupConfigured s g = true) :
    exec .undefineGroup s = .next { answered s e rest .done .none with groups := tdel s.groups g } := by
  rw [exec_undefineGroup_ready h hp, doUndefineGroup_of_configured (s := { s with requests := rest }) hg]
  rfl

theorem exec_undefineSite_done (h : requestReady s e rest (.undefineSite n)) (hp : s.phase = .config)
    (hn : siteConfigured s n = true) :
    exec .undefineSite s = .next { answered s e rest .done .none with
      sites := (tdel s.sites n).map fun p => (p.1, { p.2 with neighbours := p.2.neighbours.filter (· != n) })
      groups := s.groups.map fun p => (p.1, { p.2 with fixed := p.2.fixed.filter (· != n) }) } := by
  rw [exec_undefineSite_ready h hp, doUndefineSite_of_configured (s := { s with requests := rest }) hn]
  rfl

end

/-- Settles O50: each case of the request is the step lemma of that case, and the table laws say what the removal leaves. -/
theorem undefineGroupRule : Obligations.UndefineGroupRule := by
  refine fun s e rest g => ⟨fun h => ⟨?service, ?noSuch, ?done⟩, ?site, ?quiet⟩
  case service => exact exec_undefineGroup_wrongPhase h
  case noSuch => exact fun hp hg => exec_undefineGroup_noSuch h hp ((groupConfigured_eq_false_iff s g).2 hg)
  case done =>
    intro hp h1 h128 hg
    have hc : groupConfigured s g = true := (groupConfigured_iff s g).2 ⟨(wfGroup_iff g).2 ⟨h1, h128⟩, hg⟩
    exact ⟨exec_undefineGroup_done h hp hc, tget_tdel_self s.groups g, fun _ => tget_tdel_ne s.groups⟩
  case site =>
    intro n h hp h1 h48 hn
    have hc : siteConfigured s n = true := (siteConfigured_iff s n).2 ⟨(wfSite_iff n).2 ⟨h1, h48⟩, hn⟩
    exact ⟨_, exec_undefineSite_done h hp hc, rfl⟩
  case quiet =>
    intro hq hp
    obtain ⟨hradios, hcalls, -, -⟩ := hq hp
    exact ⟨hradios, hcalls⟩

end Sys2Proof.Machine

/-! The notice-pending line (R161): it follows the notice queue, so what a raise, NEXT-NOTICE and the two resets do to the line is
what they leave in that queue. -/

namespace Sys2Proof.Machine

/-! ### The line follows the queue -/

theorem noticePendingLine_eq_true_iff (s : State) : noticePendingLine s = true ↔ s.notices ≠ [] := by
  simp [noticePendingLine]

theorem noticePendingLine_eq_false_iff (s : State) : noticePendingLine s = false ↔ s.notices = [] := by
  simp [noticePendingLine]

theorem noticePendingLine_congr {s t : State} (h : t.notices = s.notices) : noticePendingLine t = noticePendingLine s := by
  rw [noticePendingLine, h, noticePendingLine]

/-! ### What a raise leaves in the queue (R160) -/

theorem raise_notices_of_full {s : State} {b : NoticeBody} (h : 64 ≤ s.notices.length) : (raise s b).notices = s.notices := by
  rw [raise_of_full h]

/-- After a raise a notice waits: the one that entered, or those of a full queue. -/
theorem raise_notices_ne_nil (s : State) (b : NoticeBody) : (raise s b).notices ≠ [] := by
  rcases Nat.lt_or_ge s.notices.length 64 with hroom | hfull
  · simp [raise_of_room hroom]
  · rw [raise_notices_of_full hfull]
    exact List.ne_nil_of_length_pos (by omega)

/-! ### What NEXT-NOTICE and the resets leave in the queue (R162, R190, R191) -/

theorem doNextNotice_of_cons {s : State} {x : Notice} {more : List Notice} (h : s.notices = x :: more) :
    doNextNotice s = ({ s with notices := more }, .done, .notice more.length x) := by
  simp only [doNextNotice, h]

section
variable {s t : State} {e : RequestEntry} {rest : List RequestEntry}

theorem exec_nextNotice_of_cons {x : Notice} {more : List Notice} (h : requestReady s e rest .nextNotice)
    (hx : s.notices = x :: more) :
    exec .nextNotice s = .next { answered s e rest .done (.notice more.length x) with notices := more } := by
  rw [exec_nextNotice_ready h, doNextNotice_of_cons (s := { s with requests := rest }) hx]
  rfl

theorem nextNotice_leaves_rest {x : Notice} {more : List Notice} (h : requestReady s e rest .nextNotice)
    (hx : s.notices = x :: more) (ht : exec .nextNotice s = .next t) : t.notices = more := by
  rw [exec_nextNotice_of_cons h hx] at ht
  obtain rfl := Host.Outcome.next.inj ht
  rfl

theorem powerOnReset_leaves_no_notice (ht : exec .powerOnReset s = .next t) : t.notices = [] := by
  obtain rfl := Host.Outcome.next.inj ht
  rfl

theorem restart_leaves_no_notice {partly : Bool} (h : requestReady s e rest .restart)
    (ht : exec (.restart partly) s = .next t) : t.notices = [] := by
  rw [exec_restart_ready h] at ht
  obtain rfl := Host.Outcome.next.inj ht
  rfl

end

/-- Settles O57: each case is what the raise, the request or the reset leaves in the notice queue, which the line follows. -/
theorem noticePendingLineRule : Obligations.NoticePendingLineRule := by
  refine ⟨noticePendingLine_eq_true_iff, ?entering, fun _ _ => raise_notices_of_full, ?taken, ?others, ?powerOn, ?restart⟩
  case entering => exact fun s x => (noticePendingLine_eq_true_iff _).2 (raise_notices_ne_nil s x)
  case taken =>
    exact fun _ t _ _ _ h hx ht => (noticePendingLine_eq_false_iff t).2 (nextNotice_leaves_rest h hx ht)
  case others => exact fun _ _ _ _ => noticePendingLine_congr rfl
  case powerOn =>
    intro _ t ht
    have hempty : t.notices = [] := powerOnReset_leaves_no_notice ht
    exact ⟨hempty, (noticePendingLine_eq_false_iff t).2 hempty⟩
  case restart =>
    intro _ t _ _ _ h ht
    have hempty : t.notices = [] := restart_leaves_no_notice h ht
    exact ⟨hempty, (noticePendingLine_eq_false_iff t).2 hempty⟩

end Sys2Proof.Machine

/-! The machine and its ports: one step, what time brings, the reset state, and what the two ports do with frames received and sent
(R150, R151, R179 to R183, R187, R190). -/

namespace Sys2Proof.Machine

/-! ### The deadlines that part time has reached (R187) -/

theorem mem_dueOfRadio (now u : Nat) (r : Radio) (c : Instr) :
    c ∈ dueOfRadio now (u, r) ↔
      (c = .settleExpiry u ∧ ∃ b, r.burst = some b ∧ b.settle ≤ now) ∨
      (c = .handoverDeadlineExpiry u ∧ ∃ a p l k, r.state = .moving a p l k ∧ k.deadline ≤ now) ∨
      (c = .leaseExpiry u ∧
        ((∃ a l, r.state = .registered a l ∧ l ≤ now) ∨ ∃ a p l k, r.state = .moving a p l k ∧ l ≤ now)) ∨
      (c = .presumeHoldExpiry u ∧ ∃ a y h, r.state = .presumed a y h ∧ h ≤ now) ∨
      (c = .retireHoldExpiry u ∧ ∃ n y h, r.state = .retired n y h ∧ h ≤ now) := by
  simp only [dueOfRadio, List.mem_append]
  refine or_congr ?burst ?state
  case burst => cases r.burst <;> simp [and_comm]
  case state => cases r.state <;> simp [and_comm]

theorem mem_dueOfSite (now n : Nat) (x : Site) (c : Instr) :
    c ∈ dueOfSite now (n, x) ↔ c = .heartbeatExpiry n ∧ ∃ d, (x.state = .up d ∨ x.state = .degraded d) ∧ d ≤ now := by
  simp only [dueOfSite]
  cases x.state <;> simp [and_comm]

theorem mem_dueOfCall (now k : Nat) (y : Call) (c : Instr) (hm : Ascending y.map) :
    c ∈ dueOfCall now (k, y) ↔
      (c = .hangExpiry k ∧ ∃ d, y.state = .hang d ∧ d ≤ now) ∨
      ∃ n since h, tget y.map n = some (.queued since h) ∧ h ≤ now ∧ c = .queueHoldExpiry n k := by
  simp only [dueOfCall, List.mem_append, List.mem_flatMap]
  refine or_congr ?hang ⟨?_, ?_⟩
  case hang => cases y.state <;> simp [and_comm]
  · rintro ⟨⟨n, st⟩, hq, hc⟩
    cases st with
    | queued since h =>
      by_cases hh : h ≤ now
      · simp only [if_pos hh, List.mem_singleton] at hc
        exact ⟨n, since, h, tget_of_mem hm hq, hh, hc⟩
      · simp [if_neg hh] at hc
    | granted _ _ => simp at hc
    | busyOut => simp at hc
  · rintro ⟨n, since, h, hq, hh, rfl⟩
    exact ⟨(n, .queued since h), mem_of_tget hq, by simp [hh]⟩

theorem mem_dueCommands (s : State) (c : Instr) :
    c ∈ dueCommands s ↔
      (∃ p ∈ s.radios, c ∈ dueOfRadio s.partTime p) ∨ (∃ p ∈ s.sites, c ∈ dueOfSite s.partTime p) ∨
        ∃ p ∈ s.calls, c ∈ dueOfCall s.partTime p := by
  simp [dueCommands]

/-- In an ascending table the records listed are the records found. -/
theorem exists_mem_iff_tget {α : Type} {t : Table α} (h : Ascending t) (p : Nat → α → Prop) :
    (∃ q ∈ t, p q.1 q.2) ↔ ∃ k v, tget t k = some v ∧ p k v :=
  ⟨fun ⟨q, hq, hp⟩ => ⟨q.1, q.2, tget_of_mem h hq, hp⟩, fun ⟨k, v, hv, hp⟩ => ⟨(k, v), mem_of_tget hv, hp⟩⟩

theorem chosenDue_mem {s : State} (h : dueCommands s ≠ []) : ∃ d ∈ dueCommands s, chosenDue s = some d := by
  match hd : dueCommands s with
  | [] => exact absurd hd h
  | [d] => exact ⟨d, by simp, by simp [chosenDue, hd]⟩
  | d :: e :: rest =>
    have hlt : Config.firstTaken s.choices % (d :: e :: rest).length < (d :: e :: rest).length := Nat.mod_lt _ (by simp)
    refine ⟨_, List.getElem_mem hlt, ?_⟩
    simp only [chosenDue, hd]
    rw [List.getD_eq_getElem _ _ hlt]

theorem step_of_due {s : State} {d : Instr} (hp : s.pending = []) (hd : chosenDue s = some d) :
    step s = exec d { s with choices := s.choices + 1 } := by
  simp only [step, hp, hd, countChoice]

theorem step_of_no_due {s : State} (hp : s.pending = []) (hd : dueCommands s = []) : step s = .next (tick s) := by
  simp only [step, hp, chosenDue, hd]

/-- Settles O1: the queue's front decides the step. -/
theorem stepRunsTheFrontCommand : Obligations.StepRunsTheFrontCommand := by
  intro s c rest h
  simp only [step, h]

/-- Settles O2: the step takes the chosen deadline or ticks, and the deadlines listed are those of each record, site and call. -/
theorem idleStepTakesAReachedDeadlineOrTicks : Obligations.IdleStepTakesAReachedDeadlineOrTicks := by
  intro s hr hs hc hm hp
  refine ⟨fun hd ht => ?tick, fun hd => ?taken, fun c => ?listed⟩
  case tick =>
    rw [step_of_no_due hp hd]
    exact congrArg Host.Outcome.next (if_pos ht)
  case taken =>
    obtain ⟨d, hmem, hchosen⟩ := chosenDue_mem hd
    exact ⟨d, hmem, step_of_due hp hchosen⟩
  case listed =>
    have radio := exists_mem_iff_tget hr fun u r => c ∈ dueOfRadio s.partTime (u, r)
    have site := exists_mem_iff_tget hs fun n x => c ∈ dueOfSite s.partTime (n, x)
    have call : (∃ p ∈ s.calls, c ∈ dueOfCall s.partTime p) ↔ ∃ k y, tget s.calls k = some y ∧
        ((c = .hangExpiry k ∧ ∃ d, y.state = .hang d ∧ d ≤ s.partTime) ∨
          ∃ n since h, tget y.map n = some (.queued since h) ∧ h ≤ s.partTime ∧ c = .queueHoldExpiry n k) := by
      rw [← exists_mem_iff_tget hc]
      exact exists_congr fun p => and_congr_right fun hp => mem_dueOfCall _ _ _ _ (hm p hp)
    rw [mem_dueCommands, radio, site, call]
    simp only [mem_dueOfRadio, mem_dueOfSite]
    cases c with
    | queueHoldExpiry n k =>
      have found : ∀ st, callStatus s k n = some st ↔ ∃ y, tget s.calls k = some y ∧ tget y.map n = some st := by
        intro st
        unfold callStatus
        cases tget s.calls k <;> simp
      simp only [reduceCtorEq, false_and, or_self, and_false, exists_false, false_or, Instr.queueHoldExpiry.injEq, found]
      constructor
      · rintro ⟨k', y, hy, n', since, h, hq, hh, rfl, rfl⟩
        exact ⟨since, h, ⟨y, hy, hq⟩, hh⟩
      · rintro ⟨since, h, ⟨y, hy, hq⟩, hh⟩
        exact ⟨k, y, hy, n, since, h, hq, hh, rfl, rfl⟩
    | settleExpiry u => simp
    | handoverDeadlineExpiry u => simp
    | leaseExpiry u => simp
    | presumeHoldExpiry u => simp
    | retireHoldExpiry u => simp
    | heartbeatExpiry n => simp
    | hangExpiry k => simp
    | _ => simp

/-! ### The reset state -/

/-- Settles O20: each field is the value written. -/
theorem powerOnResetLeavesTheResetState : Obligations.PowerOnResetLeavesTheResetState := fun _ => rfl

/-- Settles O15: the reset state has no record, site, group, call or frame for an invariant to speak of. -/
theorem resetMeetsTheInvariants : Obligations.ResetMeetsTheInvariants := by
  have quiet : ConfigQuiet State.reset := fun _ => ⟨rfl, rfl, rfl, rfl⟩
  have directory : DirectoryOk State.reset := by simp [DirectoryOk, State.reset, tkeys]
  have records : RecordsOk State.reset := by simp [RecordsOk, State.reset]
  have table : CallTableOk State.reset := ⟨by simp [State.reset], by simp [State.reset], quiet, by simp [State.reset, tkeys],
    by simp [State.reset], by simp [State.reset]⟩
  refine ⟨by simp [PortsBounded, State.reset], directory, by simp [OutboundOk, State.reset, movingCount],
    ⟨by simp [State.reset], by simp [State.reset], quiet, by simp [State.reset]⟩, records,
    ⟨records, by simp [State.reset], quiet, by simp [State.reset]⟩,
    ⟨directory, records, by simp [State.reset], quiet, by simp [State.reset], by simp [State.reset], by simp [State.reset]⟩,
    ⟨table, by simp [State.reset], by simp [State.reset], by simp [State.reset]⟩, table⟩

/-! ### The receiver (R179, R180) -/

theorem receiveBytes_append (rx : Receiver) (l m : List Byte) :
    receiveBytes rx (l ++ m) = ((receiveBytes (receiveBytes rx l).1 m).1,
      (receiveBytes rx l).2 ++ (receiveBytes (receiveBytes rx l).1 m).2) := by
  induction l generalizing rx with
  | nil => rfl
  | cons b l ih => simp only [List.cons_append, receiveBytes, ih, List.append_assoc]

theorem receiveBytes_noise {noise : List Byte} (h : startByte ∉ noise) : receiveBytes .hunting noise = (.hunting, []) := by
  induction noise with
  | nil => rfl
  | cons b l ih =>
    obtain ⟨hb, hl⟩ := not_or.1 (mt List.mem_cons.2 h)
    simp [receiveBytes, receiveByte, Ne.symm hb, ih hl]

/-- Inside a frame the receiver keeps every byte until body and check are complete. -/
theorem receiveBytes_inFrame (len kind : Byte) (got more : List Byte) (h : got.length + more.length = len.toNat + 2)
    (hm : more ≠ []) :
    receiveBytes (.inFrame (len :: kind :: got)) more = (.hunting, [finishFrame len kind (got ++ more)]) := by
  induction more generalizing got with
  | nil => exact absurd rfl hm
  | cons b rest ih =>
    simp only [List.length_cons] at h
    cases rest with
    | nil =>
      have hlast : got.length + 1 = len.toNat + 2 := h
      simp [receiveBytes, receiveByte, hlast]
    | cons b' rest' =>
      have hmore : ¬(got.length + 1 = len.toNat + 2) := by simp only [List.length_cons] at h; omega
      have hstep : receiveByte (.inFrame (len :: kind :: got)) b = (.inFrame (len :: kind :: (got ++ [b])), none) :=
        if_neg hmore
      have hrest := ih (got ++ [b]) (by simp only [List.length_append, List.length_singleton]; omega) (by simp)
      rw [receiveBytes, hstep]
      simp only [hrest]
      simp

theorem byte_toNat {n : Nat} (h : n < 256) : (byte n).toNat = n := by simp [byte, Nat.mod_eq_of_lt h]

/-- A frame of any body and any two check bytes is received whole; it passes exactly with the check that belongs to it. -/
theorem receiveBytes_frame (kind : Byte) (body check : List Byte) (h2 : 2 ≤ body.length) (h250 : body.length ≤ 250)
    (hc : check.length = 2) :
    receiveBytes .hunting (startByte :: byte body.length :: kind :: body ++ check) =
      (.hunting, [.frame kind body (check == checkBytes (byte body.length :: kind :: body))]) := by
  have hlen : (byte body.length).toNat = body.length := byte_toNat (by omega)
  have hrange : 2 ≤ (byte body.length).toNat ∧ (byte body.length).toNat ≤ 250 := by rw [hlen]; exact ⟨h2, h250⟩
  have hbody := receiveBytes_inFrame (byte body.length) kind [] (body ++ check) (by simp [hlen, hc])
    (by intro h; rw [List.append_eq_nil_iff] at h; simp [h.1] at h2)
  simp only [List.nil_append] at hbody
  simp only [List.cons_append, receiveBytes, receiveByte, if_true, if_pos hrange, Option.toList_none, List.nil_append, hbody]
  simp [finishFrame, hlen]

theorem receiveBytes_impossible {len : Byte} (h : len.toNat < 2 ∨ 250 < len.toNat) :
    receiveBytes .hunting [startByte, len] = (.hunting, [.impossible]) := by
  have hout : ¬(2 ≤ len.toNat ∧ len.toNat ≤ 250) := by omega
  simp [receiveBytes, receiveByte, hout]

theorem checkBytes_length (l : List Byte) : (checkBytes l).length = 2 := rfl

theorem receiveBytes_frameBytes (kind : Byte) (body : List Byte) (h2 : 2 ≤ body.length) (h250 : body.length ≤ 250) :
    receiveBytes .hunting (frameBytes kind body) = (.hunting, [.frame kind body true]) := by
  have := receiveBytes_frame kind body _ h2 h250 (checkBytes_length (byte body.length :: kind :: body))
  simpa [frameBytes] using this

/-- Settles O16: noise is discarded, the frame is received whole, and what follows meets a receiver that hunts. -/
theorem framesAreReceivedAsSent : Obligations.FramesAreReceivedAsSent := by
  intro kind body noise rest h2 h250 hn
  rw [List.append_assoc, receiveBytes_append, receiveBytes_noise hn, receiveBytes_append,
    receiveBytes_frameBytes kind body h2 h250]
  rfl

/-! ### What the ports do with a frame (R150, R181, R182) -/

section
variable {s : State} {bytes : List Byte} {x : Received}

theorem exec_siteFrame_of_one (h : receiveBytes .hunting bytes = (.hunting, [x])) (hs : s.siteRx = .hunting) :
    exec (.siteFrameReceived bytes) s = .next (acceptSite s x) := by
  have hsame : ({ s with siteRx := .hunting } : State) = s := by rw [← hs]
  simp only [exec, execSiteFrameReceived, hs, h, List.foldl_cons, List.foldl_nil, hsame]

theorem exec_dispatchFrame_of_one (h : receiveBytes .hunting bytes = (.hunting, [x])) (hs : s.dispatchRx = .hunting) :
    exec (.dispatchFrameReceived bytes) s = .next (acceptRequest s x) := by
  have hsame : ({ s with dispatchRx := .hunting } : State) = s := by rw [← hs]
  simp only [exec, execDispatchFrameReceived, hs, h, List.foldl_cons, List.foldl_nil, hsame]

theorem acceptSite_of_room {kind : Byte} {body : List Byte} {m : SiteMsg} (hm : siteMessage kind body = some m)
    (h : s.siteIn.length < 128) : acceptSite s (.frame kind body true) = { s with siteIn := s.siteIn ++ [m] } := by
  simp [acceptSite, hm, h]

theorem acceptSite_of_full (h : 128 ≤ s.siteIn.length) (x : Received) : acceptSite s x = s := by
  unfold acceptSite
  split
  · split
    · exact if_neg (Nat.not_lt.2 h)
    · rfl
  · rfl

theorem acceptSite_of_misfit {kind : Byte} {body : List Byte} (hm : siteMessage kind body = none) (b : Bool) :
    acceptSite s (.frame kind body b) = s := by
  cases b <;> simp [acceptSite, hm]

theorem acceptRequest_of_room (h : s.requests.length < 16) (x : Received) :
    acceptRequest s x = { s with requests := s.requests ++ [entryOf x] } := if_pos h

theorem acceptRequest_of_full (h : 16 ≤ s.requests.length) (ha : s.answers.length < 32) (x : Received) :
    acceptRequest s x = pushAnswer s (entryOf x) .full .none :=
  (if_neg (Nat.not_lt.2 h)).trans (if_pos ha)

theorem acceptRequest_of_lost (h : 16 ≤ s.requests.length) (ha : 32 ≤ s.answers.length) (x : Received) :
    acceptRequest s x = { s with answerLost := true } :=
  (if_neg (Nat.not_lt.2 h)).trans (if_neg (Nat.not_lt.2 ha))

end

/-- Settles O17: the receiver hands on one frame, and the port enters or discards it. -/
theorem siteFramesEnterOrAreDiscarded : Obligations.SiteFramesEnterOrAreDiscarded := by
  intro s kind body hrx h2 h250
  have whole := receiveBytes_frameBytes kind body h2 h250
  refine ⟨fun m hm hlt => ?_, fun hfull => ?_, fun hm => ?_, fun check hc hne => ?_, fun len hlen => ?_⟩
  · rw [exec_siteFrame_of_one whole hrx, acceptSite_of_room hm hlt]
  · rw [exec_siteFrame_of_one whole hrx, acceptSite_of_full hfull]
  · rw [exec_siteFrame_of_one whole hrx, acceptSite_of_misfit hm]
  · have wrong := receiveBytes_frame kind body check h2 h250 hc
    rw [beq_false_of_ne hne] at wrong
    exact exec_siteFrame_of_one wrong hrx
  · exact exec_siteFrame_of_one (receiveBytes_impossible hlen) hrx

/-- Settles O18: the receiver hands on one frame, and the port enters it, answers FULL, or marks the answer lost. -/
theorem requestFramesEnterOrAreAnsweredFull : Obligations.RequestFramesEnterOrAreAnsweredFull := by
  intro s kind body hrx h2 h250
  have whole := receiveBytes_frameBytes kind body h2 h250
  refine ⟨fun hroom => ⟨?_, fun check hc hne => ?_, fun len hlen => ?_⟩, fun hfull hans => ?_, fun hfull hans => ?_⟩
  · rw [exec_dispatchFrame_of_one whole hrx, acceptRequest_of_room hroom]
    rfl
  · have wrong := receiveBytes_frame kind body check h2 h250 hc
    rw [beq_false_of_ne hne] at wrong
    rw [exec_dispatchFrame_of_one wrong hrx, acceptRequest_of_room hroom]
    rfl
  · rw [exec_dispatchFrame_of_one (receiveBytes_impossible hlen) hrx, acceptRequest_of_room hroom]
    rfl
  · rw [exec_dispatchFrame_of_one whole hrx, acceptRequest_of_full hfull hans]
    cases body <;> rfl
  · rw [exec_dispatchFrame_of_one whole hrx, acceptRequest_of_lost hfull hans]

/-! ### What leaves the ports (R151, R183) -/

/-- Settles O19: each case is the branch that the residue and the queue's head choose. -/
theorem sentFramesLeaveTheirQueues : Obligations.SentFramesLeaveTheirQueues := by
  intro s
  refine ⟨fun f hf => ?_, fun f rest hr ho => ?_, fun hr ho => ?_, fun a rest ha => ?_, fun ha => ?_⟩
  · simp only [exec, execOutboundEntrySent, hf]; rfl
  · simp only [exec, execOutboundEntrySent, hr, ho]; rfl
  · simp only [exec, execOutboundEntrySent, hr, ho]; rfl
  · simp only [exec, execAnswerSent, ha]; rfl
  · simp only [exec, execAnswerSent, ha]; rfl

end Sys2Proof.Machine

/-! The pool and the channel queue of one site as functions of the calls' statuses there (R134): what a grant, a queue entry, a
preemption and the handing on of a freed channel keep of the agreement between them (R135 to R140). -/

namespace Sys2Proof.Machine

/-! ### The best of a list -/

theorem bestOf_mem {α : Type} {before : α → α → Bool} {l : List α} {b : α} (h : bestOf before l = some b) : b ∈ l := by
  induction l generalizing b with
  | nil => cases h
  | cons a rest ih =>
    simp only [bestOf] at h
    split at h
    · rename_i c hc
      split at h
      · cases h; exact List.mem_cons_of_mem _ (ih hc)
      · cases h; exact List.mem_cons_self
    · cases h; exact List.mem_cons_self

theorem bestOf_eq_none_iff {α : Type} {before : α → α → Bool} {l : List α} : bestOf before l = none ↔ l = [] := by
  cases l with
  | nil => simp [bestOf]
  | cons a rest =>
    simp only [bestOf, reduceCtorEq, iff_false]
    split
    · split <;> simp
    · simp

/-! ### Agreement of a pool and a queue with the statuses -/

/-- The statuses that calls have at one site agree with its v channels and its queue (R134). A freed channel, while it is being handed
on, may stand free beside a queue (R140). -/
structure PoolOk (st : Nat → Option CallStatus) (v : Nat) (queue : List Nat) (freed : Option Nat) : Prop where
  inPool : ∀ {c ch y}, st c = some (.granted ch y) → 1 ≤ ch ∧ ch ≤ v
  once : ∀ {c d ch y z}, st c = some (.granted ch y) → st d = some (.granted ch z) → c = d
  nodup : queue.Nodup
  short : queue.length ≤ 8
  queued : ∀ c, c ∈ queue ↔ ∃ y h, st c = some (.queued y h)
  full : queue ≠ [] → ∀ ch, 1 ≤ ch → ch ≤ v → freed ≠ some ch → ∃ c y, st c = some (.granted ch y)

/-- A call that neither holds a channel nor waits for one: it has no status, or is BUSY-OUT. -/
def idle (x : Option CallStatus) : Prop := x = none ∨ x = some .busyOut

theorem idle.not_granted {x : Option CallStatus} (h : idle x) (ch y : Nat) : x ≠ some (.granted ch y) := by
  rcases h with h | h <;> simp [h]

theorem idle.not_queued {x : Option CallStatus} (h : idle x) (y z : Nat) : x ≠ some (.queued y z) := by
  rcases h with h | h <;> simp [h]

section
variable {st : Nat → Option CallStatus} {v : Nat} {queue : List Nat} {freed : Option Nat} {c d ch t h : Nat} {new : Option CallStatus}

theorem PoolOk.not_mem (hp : PoolOk st v queue freed) (hc : idle (st c)) : c ∉ queue :=
  fun hm => let ⟨y, z, e⟩ := (hp.queued c).1 hm; hc.not_queued y z e

/-- An idle call stays idle. -/
theorem PoolOk.stay_idle (hp : PoolOk st v queue freed) (hc : idle (st c)) (hn : idle new) :
    PoolOk (Function.update st c new) v queue freed where
  inPool {d ch y} e := by
    by_cases hd : d = c
    · subst hd; rw [Function.update_self] at e; exact absurd e (hn.not_granted _ _)
    · rw [Function.update_of_ne hd] at e; exact hp.inPool e
  once {a b ch y z} e1 e2 := by
    have ha : a ≠ c := by rintro rfl; rw [Function.update_self] at e1; exact hn.not_granted _ _ e1
    have hb : b ≠ c := by rintro rfl; rw [Function.update_self] at e2; exact hn.not_granted _ _ e2
    rw [Function.update_of_ne ha] at e1
    rw [Function.update_of_ne hb] at e2
    exact hp.once e1 e2
  nodup := hp.nodup
  short := hp.short
  queued d := by
    by_cases hd : d = c
    · subst hd
      rw [Function.update_self]
      exact iff_of_false (hp.not_mem hc) fun ⟨y, z, e⟩ => hn.not_queued y z e
    · rw [Function.update_of_ne hd]; exact hp.queued d
  full hq ch h1 h2 hf := by
    obtain ⟨d, y, e⟩ := hp.full hq ch h1 h2 hf
    have hd : d ≠ c := by rintro rfl; exact hc.not_granted _ _ e
    exact ⟨d, y, by rw [Function.update_of_ne hd]; exact e⟩

/-- An idle call is granted a channel that no call holds (R135). With the freed channel granted, none stands free beside a queue. -/
theorem PoolOk.grant (hp : PoolOk st v queue freed) (hc : idle (st c)) (h1 : 1 ≤ ch) (hv : ch ≤ v)
    (hfree : ∀ d y, st d ≠ some (.granted ch y)) (hf : freed = none ∨ freed = some ch) :
    PoolOk (Function.update st c (some (.granted ch t))) v queue none where
  inPool {d k y} e := by
    by_cases hd : d = c
    · subst hd; rw [Function.update_self] at e; cases e; exact ⟨h1, hv⟩
    · rw [Function.update_of_ne hd] at e; exact hp.inPool e
  once {a b k y z} e1 e2 := by
    by_cases ha : a = c <;> by_cases hb : b = c
    · rw [ha, hb]
    · subst ha
      rw [Function.update_self] at e1; cases e1
      rw [Function.update_of_ne hb] at e2; exact absurd e2 (hfree _ _)
    · subst hb
      rw [Function.update_self] at e2; cases e2
      rw [Function.update_of_ne ha] at e1; exact absurd e1 (hfree _ _)
    · rw [Function.update_of_ne ha] at e1
      rw [Function.update_of_ne hb] at e2
      exact hp.once e1 e2
  nodup := hp.nodup
  short := hp.short
  queued d := by
    by_cases hd : d = c
    · subst hd
      rw [Function.update_self]
      exact iff_of_false (hp.not_mem hc) (by simp)
    · rw [Function.update_of_ne hd]; exact hp.queued d
  full hq k k1 kv _ := by
    by_cases hk : k = ch
    · exact ⟨c, t, by rw [Function.update_self, hk]⟩
    · have hne : freed ≠ some k := by
        rcases hf with rfl | rfl
        · simp
        · simpa using Ne.symm hk
      obtain ⟨d, y, e⟩ := hp.full hq k k1 kv hne
      have hd : d ≠ c := by rintro rfl; exact hc.not_granted _ _ e
      exact ⟨d, y, by rw [Function.update_of_ne hd]; exact e⟩

/-- A queued call leaves the queue and is idle (R137, R138, R140, R144). -/
theorem PoolOk.leave (hp : PoolOk st v queue freed) (hc : c ∈ queue) (hn : idle new) :
    PoolOk (Function.update st c new) v (queue.erase c) freed where
  inPool {d ch y} e := by
    by_cases hd : d = c
    · subst hd; rw [Function.update_self] at e; exact absurd e (hn.not_granted _ _)
    · rw [Function.update_of_ne hd] at e; exact hp.inPool e
  once {a b ch y z} e1 e2 := by
    have ha : a ≠ c := by rintro rfl; rw [Function.update_self] at e1; exact hn.not_granted _ _ e1
    have hb : b ≠ c := by rintro rfl; rw [Function.update_self] at e2; exact hn.not_granted _ _ e2
    rw [Function.update_of_ne ha] at e1
    rw [Function.update_of_ne hb] at e2
    exact hp.once e1 e2
  nodup := hp.nodup.erase c
  short := List.erase_sublist.length_le.trans hp.short
  queued d := by
    rw [hp.nodup.mem_erase_iff]
    by_cases hd : d = c
    · subst hd
      rw [Function.update_self]
      exact iff_of_false (fun h => h.1 rfl) fun ⟨y, z, e⟩ => hn.not_queued y z e
    · rw [Function.update_of_ne hd, ← hp.queued d]
      exact and_iff_right hd
  full hq ch h1 h2 hf := by
    have hne : queue ≠ [] := List.ne_nil_of_mem hc
    obtain ⟨d, y, e⟩ := hp.full hne ch h1 h2 hf
    have hd : d ≠ c := by
      rintro rfl
      obtain ⟨y', z, e'⟩ := (hp.queued d).1 hc
      rw [e] at e'; cases e'
    exact ⟨d, y, by rw [Function.update_of_ne hd]; exact e⟩

/-- An idle call joins a queue of fewer than eight at a site with no channel free (R137). -/
theorem PoolOk.join (hp : PoolOk st v queue none) (hc : idle (st c)) (hlen : queue.length < 8)
    (hfull : ∀ ch, 1 ≤ ch → ch ≤ v → ∃ d y, st d = some (.granted ch y)) :
    PoolOk (Function.update st c (some (.queued t h))) v (queue ++ [c]) none where
  inPool {d ch y} e := by
    have hd : d ≠ c := by rintro rfl; simp at e
    rw [Function.update_of_ne hd] at e; exact hp.inPool e
  once {a b ch y z} e1 e2 := by
    have ha : a ≠ c := by rintro rfl; simp at e1
    have hb : b ≠ c := by rintro rfl; simp at e2
    rw [Function.update_of_ne ha] at e1
    rw [Function.update_of_ne hb] at e2
    exact hp.once e1 e2
  nodup := by
    have hnot := hp.not_mem hc
    exact List.nodup_append.2 ⟨hp.nodup, List.nodup_singleton c, fun a ha b hb => by
      rw [List.mem_singleton] at hb; rintro rfl; exact hnot (hb ▸ ha)⟩
  short := by simp only [List.length_append, List.length_singleton]; omega
  queued d := by
    by_cases hd : d = c
    · subst hd; simp
    · rw [Function.update_of_ne hd, ← hp.queued d]; simp [hd]
  full _ ch h1 h2 _ := by
    obtain ⟨d, y, e⟩ := hfull ch h1 h2
    have hd : d ≠ c := by rintro rfl; exact hc.not_granted _ _ e
    exact ⟨d, y, by rw [Function.update_of_ne hd]; exact e⟩

/-- A call gives its channel up: until it is handed on it may stand free beside the queue (R140). -/
theorem PoolOk.release (hp : PoolOk st v queue none) (hc : st c = some (.granted ch t)) (hn : idle new) :
    PoolOk (Function.update st c new) v queue (some ch) where
  inPool {d k y} e := by
    by_cases hd : d = c
    · subst hd; rw [Function.update_self] at e; exact absurd e (hn.not_granted _ _)
    · rw [Function.update_of_ne hd] at e; exact hp.inPool e
  once {a b k y z} e1 e2 := by
    have ha : a ≠ c := by rintro rfl; rw [Function.update_self] at e1; exact hn.not_granted _ _ e1
    have hb : b ≠ c := by rintro rfl; rw [Function.update_self] at e2; exact hn.not_granted _ _ e2
    rw [Function.update_of_ne ha] at e1
    rw [Function.update_of_ne hb] at e2
    exact hp.once e1 e2
  nodup := hp.nodup
  short := hp.short
  queued d := by
    by_cases hd : d = c
    · subst hd
      rw [Function.update_self, hp.queued d, hc]
      exact iff_of_false (by simp) fun ⟨y, z, e⟩ => hn.not_queued y z e
    · rw [Function.update_of_ne hd]; exact hp.queued d
  full hq k h1 h2 hf := by
    obtain ⟨d, y, e⟩ := hp.full hq k h1 h2 (by simp)
    have hd : d ≠ c := by
      rintro rfl
      rw [hc] at e; cases e
      exact hf rfl
    exact ⟨d, y, by rw [Function.update_of_ne hd]; exact e⟩

theorem PoolOk.released_free (hp : PoolOk st v queue none) (hc : st c = some (.granted ch t)) (hn : idle new) (d y : Nat) :
    Function.update st c new d ≠ some (.granted ch y) := by
  intro e
  by_cases hd : d = c
  · subst hd; rw [Function.update_self] at e; exact hn.not_granted _ _ e
  · rw [Function.update_of_ne hd] at e; exact hd (hp.once e hc)

end

/-! ### The statuses, the pool and the queue of a site in a state -/

/-- The statuses of the calls at site n. -/
def statuses (s : State) (n : Nat) : Nat → Option CallStatus := fun c => callStatus s c n

/-- The number of voice channels and the queue of site n. -/
def poolOf (s : State) (n : Nat) : Option (Nat × List Nat) := (tget s.sites n).map fun x => (x.voice, x.queue)

/-- The pool and queue of site n agree with the calls' maps. -/
def PoolAt (s : State) (n : Nat) (freed : Option Nat) : Prop :=
  ∀ v queue, poolOf s n = some (v, queue) → PoolOk (statuses s n) v queue freed

/-- The maps of all calls list their sites in ascending order. -/
def mapsAscend (s : State) : Prop := ∀ p ∈ s.calls, Ascending p.2.map

/-- Every site's pool and queue agree with the calls' maps (R134), apart from the order of the Call Table. -/
structure Pools (s : State) : Prop where
  maps : mapsAscend s
  pools : ∀ n, PoolAt s n none

theorem mapsAscend_congr {s t : State} (h : t.calls = s.calls) (hm : mapsAscend s) : mapsAscend t := by
  unfold mapsAscend; rw [h]; exact hm

theorem mapsAscend_modCall {s : State} {c : Nat} {f : Call → Call} (hf : ∀ x, Ascending x.map → Ascending (f x).map)
    (hm : mapsAscend s) : mapsAscend (modCall s c f) := by
  intro p hp
  rcases mem_tmod hp with hp | ⟨x, hx, rfl⟩
  · exact hm p hp
  · exact hf x (hm _ (mem_of_tget hx))

theorem mapsAscend.of_tget {s : State} (h : mapsAscend s) {c : Nat} {x : Call} (hx : tget s.calls c = some x) : Ascending x.map :=
  h _ (mem_of_tget hx)

theorem statuses_congr {s t : State} (h : t.calls = s.calls) (n : Nat) : statuses t n = statuses s n := by
  funext c; simp only [statuses, callStatus, h]

theorem poolOf_congr {s t : State} {n : Nat} (h : tget t.sites n = tget s.sites n) : poolOf t n = poolOf s n := by
  simp only [poolOf, h]

theorem callStatus_modMap (s : State) (c d n : Nat) (f : Table CallStatus → Table CallStatus) :
    callStatus (modCall s c fun x => { x with map := f x.map }) d n =
      if d = c then (tget s.calls d).bind fun x => tget (f x.map) n else callStatus s d n := by
  by_cases hd : d = c
  · subst hd
    cases h : tget s.calls d <;> simp [callStatus, h]
  · simp only [callStatus, modCall_calls, tget_tmod, if_neg hd]

theorem statuses_setStatus_self {s : State} {c : Nat} {x : Call} (hc : tget s.calls c = some x) (n : Nat) (st : CallStatus) :
    statuses (setStatus s c n st) n = Function.update (statuses s n) c (some st) := by
  funext d
  simp only [statuses, setStatus, callStatus_modMap s c d n fun m => tput m n st]
  by_cases hd : d = c
  · subst hd; simp [hc]
  · rw [if_neg hd, Function.update_of_ne hd]; rfl

theorem statuses_setStatus_ne (s : State) (c : Nat) {n m : Nat} (h : m ≠ n) (st : CallStatus) :
    statuses (setStatus s c n st) m = statuses s m := by
  funext d
  simp only [statuses, setStatus, callStatus_modMap s c d m fun t => tput t n st]
  split
  · rename_i hd; subst hd
    cases hx : tget s.calls d <;> simp [callStatus, hx, tget_tput_ne _ _ h]
  · rfl

theorem statuses_clearStatus_self {s : State} (hm : mapsAscend s) (c n : Nat) :
    statuses (clearStatus s c n) n = Function.update (statuses s n) c none := by
  funext d
  simp only [statuses, clearStatus, callStatus_modMap s c d n fun m => tdel m n]
  by_cases hd : d = c
  · subst hd
    rw [if_pos rfl, Function.update_self]
    cases hx : tget s.calls d with
    | none => rfl
    | some x => exact tget_tdel_self _ _ (hm.of_tget hx)
  · rw [if_neg hd, Function.update_of_ne hd]; rfl

theorem statuses_clearStatus_ne (s : State) (c : Nat) {n m : Nat} (h : m ≠ n) :
    statuses (clearStatus s c n) m = statuses s m := by
  funext d
  simp only [statuses, clearStatus, callStatus_modMap s c d m fun t => tdel t n]
  split
  · rename_i hd; subst hd
    cases hx : tget s.calls d <;> simp [callStatus, hx, tget_tdel_ne _ h]
  · rfl

theorem poolOf_modQueue_self (s : State) (n : Nat) (f : List Nat → List Nat) :
    poolOf (modSite s n fun x => { x with queue := f x.queue }) n = (poolOf s n).map fun p => (p.1, f p.2) := by
  simp only [poolOf, modSite_sites, tget_tmod_self]
  cases tget s.sites n <;> rfl

theorem poolOf_leaveQueue_self (s : State) (n c : Nat) :
    poolOf (leaveQueue s n c) n = (poolOf s n).map fun p => (p.1, p.2.erase c) := poolOf_modQueue_self s n fun q => q.erase c

theorem poolOf_joinQueue_self (s : State) (n c : Nat) :
    poolOf (joinQueue s n c) n = (poolOf s n).map fun p => (p.1, p.2 ++ [c]) := poolOf_modQueue_self s n fun q => q ++ [c]

theorem joinedQueue_eq (s : State) (n : Nat) : joinedQueue s n = ((poolOf s n).map Prod.snd).getD [] := by
  unfold joinedQueue poolOf
  cases tget s.sites n <;> rfl

theorem voiceChannels_eq (s : State) (n : Nat) : voiceChannels s n = ((poolOf s n).map Prod.fst).getD 0 := by
  unfold voiceChannels poolOf
  cases tget s.sites n <;> rfl

/-! ### Changes at one site alone -/

/-- Between s and t only the statuses, the pool and the queue of site n may differ. -/
structure OnlyAt (n : Nat) (s t : State) : Prop where
  statuses : ∀ m, m ≠ n → statuses t m = statuses s m
  pool : ∀ m, m ≠ n → poolOf t m = poolOf s m

theorem OnlyAt.refl (n : Nat) (s : State) : OnlyAt n s s := ⟨fun _ _ => rfl, fun _ _ => rfl⟩

theorem OnlyAt.trans {n : Nat} {a b c : State} (h1 : OnlyAt n a b) (h2 : OnlyAt n b c) : OnlyAt n a c :=
  ⟨fun m hm => (h2.statuses m hm).trans (h1.statuses m hm), fun m hm => (h2.pool m hm).trans (h1.pool m hm)⟩

theorem OnlyAt.of_same (n : Nat) {s t : State} (hc : t.calls = s.calls) (hs : t.sites = s.sites) : OnlyAt n s t :=
  ⟨fun m _ => statuses_congr hc m, fun m _ => poolOf_congr (by rw [hs])⟩

theorem onlyAt_setStatus (s : State) (c n : Nat) (st : CallStatus) : OnlyAt n s (setStatus s c n st) :=
  ⟨fun _ hm => statuses_setStatus_ne s c hm st, fun _ _ => rfl⟩

theorem onlyAt_clearStatus (s : State) (c n : Nat) : OnlyAt n s (clearStatus s c n) :=
  ⟨fun _ hm => statuses_clearStatus_ne s c hm, fun _ _ => rfl⟩

theorem onlyAt_modSite (s : State) (n : Nat) (f : Site → Site) : OnlyAt n s (modSite s n f) :=
  ⟨fun m _ => statuses_congr rfl m, fun _ hm => poolOf_congr (tget_tmod_ne _ _ hm)⟩

theorem onlyAt_raise (n : Nat) (s : State) (b : NoticeBody) : OnlyAt n s (raise s b) := .of_same n (by simp) (by simp)

theorem onlyAt_grantChannel (s : State) (c n ch : Nat) : OnlyAt n s (grantChannel s c n ch) :=
  (onlyAt_setStatus s c n _).trans (.of_same n rfl rfl)

/-- Where the change is at site n alone, its agreement there is all that is left to show. -/
theorem Pools.of_onlyAt {n : Nat} {s t : State} (hp : Pools s) (h : OnlyAt n s t) (hm : mapsAscend t) (hn : PoolAt t n none) :
    Pools t := by
  refine ⟨hm, fun m v q he => ?_⟩
  by_cases e : m = n
  · subst e; exact hn v q he
  · rw [h.pool m e] at he
    rw [h.statuses m e]
    exact hp.pools m v q he

/-! ### Channels held and free (R134, R135) -/

theorem mem_channelsHeld {s : State} (ha : Ascending s.calls) (n ch : Nat) :
    ch ∈ channelsHeld s n ↔ ∃ c y, statuses s n c = some (.granted ch y) := by
  have hheld : ∀ x : Option CallStatus, heldChannel x = some ch ↔ ∃ y, x = some (.granted ch y) := by
    intro x
    rcases x with _ | (_ | _ | _) <;> simp [heldChannel]
  have hst : ∀ c x, tget s.calls c = some x → statuses s n c = tget x.map n := fun c x h => by simp [statuses, callStatus, h]
  simp only [channelsHeld, List.mem_filterMap, hheld]
  constructor
  · rintro ⟨⟨c, x⟩, hp, y, e⟩
    exact ⟨c, y, by rw [hst c x (tget_of_mem ha hp)]; exact e⟩
  · rintro ⟨c, y, e⟩
    cases hx : tget s.calls c with
    | none => simp [statuses, callStatus, hx] at e
    | some x => exact ⟨(c, x), mem_of_tget hx, y, by rw [← hst c x hx]; exact e⟩

theorem freeChannel_eq_none_iff {s : State} (ha : Ascending s.calls) {n v : Nat} (hv : voiceChannels s n = v) :
    freeChannel s n = none ↔ ∀ ch, 1 ≤ ch → ch ≤ v → ∃ c y, statuses s n c = some (.granted ch y) := by
  simp only [freeChannel, hv, List.find?_eq_none, List.mem_map, List.mem_range, Bool.not_eq_true, Bool.not_eq_false',
    List.contains_iff_mem, mem_channelsHeld ha]
  constructor
  · intro h ch h1 h2
    exact h ch ⟨ch - 1, by omega, by omega⟩
  · rintro h ch ⟨k, hk, rfl⟩
    exact h _ (by omega) (by omega)

/-- The free channel found is the lowest of the pool that no call holds. -/
theorem freeChannel_of_some {s : State} (ha : Ascending s.calls) {n ch : Nat} (h : freeChannel s n = some ch) :
    1 ≤ ch ∧ ch ≤ voiceChannels s n ∧ ∀ c y, statuses s n c ≠ some (.granted ch y) := by
  have hfree := List.find?_some h
  have hmem := List.mem_of_find?_eq_some h
  simp only [List.mem_map, List.mem_range] at hmem
  obtain ⟨k, hk, rfl⟩ := hmem
  refine ⟨by omega, by omega, fun c y e => ?_⟩
  have : (k + 1) ∈ channelsHeld s n := (mem_channelsHeld ha n _).2 ⟨c, y, e⟩
  simp [this] at hfree

theorem mem_ofPriority (s : State) (q : List Nat) (p : Priority) (c : Nat) :
    c ∈ ofPriority s q p ↔ c ∈ q ∧ callPriority s c = p := by
  simp [ofPriority]

theorem mem_channelQueue (s : State) (n c : Nat) : c ∈ channelQueue s n ↔ c ∈ joinedQueue s n := by
  simp only [channelQueue, List.mem_append, mem_ofPriority, ← and_or_left]
  refine and_iff_left ?_
  cases callPriority s c <;> simp

theorem channelQueue_nodup {s : State} {n : Nat} (h : (joinedQueue s n).Nodup) : (channelQueue s n).Nodup := by
  have part : ∀ p, (ofPriority s (joinedQueue s n) p).Nodup := fun p => h.filter _
  have apart : ∀ {p q : Priority} {a b : Nat}, p ≠ q → a ∈ ofPriority s (joinedQueue s n) p →
      b ∈ ofPriority s (joinedQueue s n) q → a ≠ b := by
    rintro p q a b hpq ha hb rfl
    exact hpq (((mem_ofPriority ..).1 ha).2.symm.trans ((mem_ofPriority ..).1 hb).2)
  simp only [channelQueue, List.nodup_append, part, true_and, List.mem_append]
  refine ⟨⟨fun a ha b hb => apart (by decide) ha hb, ?_⟩, ?_⟩
  · rintro a (ha | ha) b hb
    · exact apart (by decide) ha hb
    · exact apart (by decide) ha hb
  · rintro a ((ha | ha) | ha) b hb
    · exact apart (by decide) ha hb
    · exact apart (by decide) ha hb
    · exact apart (by decide) ha hb

/-! ### Arbitration keeps the agreement (R135 to R137) -/

theorem mapsAscend_setStatus {s : State} (h : mapsAscend s) (c n : Nat) (st : CallStatus) : mapsAscend (setStatus s c n st) :=
  mapsAscend_modCall (fun _ hx => ascending_tput _ _ _ hx) h

theorem mapsAscend_clearStatus {s : State} (h : mapsAscend s) (c n : Nat) : mapsAscend (clearStatus s c n) :=
  mapsAscend_modCall (fun _ hx => ascending_tdel _ _ hx) h

theorem mapsAscend_grantChannel {s : State} (h : mapsAscend s) (c n ch : Nat) : mapsAscend (grantChannel s c n ch) :=
  mapsAscend_congr (s := setStatus s c n (.granted ch s.partTime)) rfl (mapsAscend_setStatus h c n _)

theorem statuses_grantChannel {s : State} {c : Nat} {x : Call} (hc : tget s.calls c = some x) (n ch : Nat) :
    statuses (grantChannel s c n ch) n = Function.update (statuses s n) c (some (.granted ch s.partTime)) := by
  rw [← statuses_setStatus_self hc]
  exact statuses_congr rfl n

section
variable {s : State} {c n : Nat} {x : Call}

theorem pools_setBusyOut (hp : Pools s) (hc : tget s.calls c = some x) (hi : idle (statuses s n c)) :
    Pools (setStatus s c n .busyOut) :=
  hp.of_onlyAt (onlyAt_setStatus s c n _) (mapsAscend_setStatus hp.maps c n _) fun v q he => by
    rw [statuses_setStatus_self hc]
    exact (hp.pools n v q he).stay_idle hi (.inr rfl)

theorem pools_queueCall (hp : Pools s) (ha : Ascending s.calls) (hc : tget s.calls c = some x) (hi : idle (statuses s n c))
    (hfull : freeChannel s n = none) : Pools (queueCall s c n) := by
  unfold queueCall
  simp only []
  split
  · rename_i hlen
    refine hp.of_onlyAt ((onlyAt_modSite s n _).trans (onlyAt_setStatus _ c n _))
      (mapsAscend_setStatus (mapsAscend_congr rfl hp.maps) c n _) fun v q he => ?_
    rw [statuses_setStatus_self (s := joinQueue s n c) hc]
    change poolOf (joinQueue s n c) n = _ at he
    rw [poolOf_joinQueue_self] at he
    obtain ⟨⟨v', q'⟩, hpool, e⟩ := Option.map_eq_some_iff.1 he
    simp only [Prod.mk.injEq] at e
    obtain ⟨rfl, rfl⟩ := e
    rw [joinedQueue_eq, hpool] at hlen
    have hheld := (freeChannel_eq_none_iff ha (v := v') (by rw [voiceChannels_eq, hpool]; rfl)).1 hfull
    exact (hp.pools n v' q' hpool).join hi hlen hheld
  · rename_i hlen
    split
    · rename_i last hlast
      split
      · have hmem : last ∈ joinedQueue s n := (mem_channelQueue s n last).1 (List.mem_of_getLast? hlast)
        refine hp.of_onlyAt ((onlyAt_modSite s n _).trans ((onlyAt_setStatus _ last n _).trans
          ((onlyAt_modSite _ n _).trans (onlyAt_setStatus _ c n _))))
          (mapsAscend_setStatus (mapsAscend_congr (s := setStatus s last n .busyOut) rfl
            (mapsAscend_setStatus hp.maps last n _)) c n _) fun v q he => ?_
        change poolOf (joinQueue (leaveQueue s n last) n c) n = _ at he
        rw [poolOf_joinQueue_self, poolOf_leaveQueue_self, Option.map_map] at he
        obtain ⟨⟨v', q'⟩, hpool, e⟩ := Option.map_eq_some_iff.1 he
        simp only [Function.comp_apply, Prod.mk.injEq] at e
        obtain ⟨rfl, rfl⟩ := e
        rw [joinedQueue_eq, hpool] at hmem
        have hpn := hp.pools n v' q' hpool
        obtain ⟨y, z, hst⟩ := (hpn.queued last).1 hmem
        have hne : c ≠ last := by rintro rfl; exact hi.not_queued y z hst
        have hcall : ∃ w, tget s.calls last = some w := by
          cases hw : tget s.calls last with
          | none => simp [statuses, callStatus, hw] at hst
          | some w => exact ⟨w, rfl⟩
        obtain ⟨w, hw⟩ := hcall
        have hc' : ∃ x', tget (joinQueue (setStatus (leaveQueue s n last) last n .busyOut) n c).calls c = some x' :=
          ⟨x, (tget_tmod_ne _ _ hne).trans hc⟩
        obtain ⟨x', hx'⟩ := hc'
        have hst2 : statuses (joinQueue (setStatus (leaveQueue s n last) last n .busyOut) n c) n =
            Function.update (statuses s n) last (some .busyOut) :=
          statuses_setStatus_self (s := leaveQueue s n last) hw n .busyOut
        rw [statuses_setStatus_self hx', hst2]
        have hleft := hpn.leave (new := some .busyOut) hmem (.inr rfl)
        have hidle : idle (Function.update (statuses s n) last (some .busyOut) c) := by
          rw [Function.update_of_ne hne]; exact hi
        have hshort : (q'.erase last).length < 8 := by
          have := hpn.short
          have : (q'.erase last).length = q'.length - 1 := List.length_erase_of_mem hmem
          have : 0 < q'.length := List.length_pos_of_mem hmem
          omega
        refine hleft.join hidle hshort fun ch h1 h2 => ?_
        have hheld := (freeChannel_eq_none_iff ha (v := v') (by rw [voiceChannels_eq, hpool]; rfl)).1 hfull
        obtain ⟨d, y', e⟩ := hheld ch h1 h2
        have hd : d ≠ last := by rintro rfl; rw [hst] at e; cases e
        exact ⟨d, y', by rw [Function.update_of_ne hd]; exact e⟩
      · exact pools_setBusyOut hp hc hi
    · exact pools_setBusyOut hp hc hi

theorem mem_victims {v : Victim} (ha : Ascending s.calls) (h : v ∈ victims s n) :
    ∃ y, tget s.calls v.call = some y ∧ tget y.map n = some (.granted v.channel v.since) ∧ y.priority ≠ .emergency ∧
      v.priority = y.priority := by
  simp only [victims, List.mem_filterMap] at h
  obtain ⟨⟨k, y⟩, hy, hv⟩ := h
  split at hv
  · rename_i ch since hm
    split at hv
    · cases hv
    · rename_i hpr
      cases hv
      exact ⟨y, tget_of_mem ha hy, hm, hpr, rfl⟩
  · cases hv

theorem pools_preempt (hp : Pools s) (ha : Ascending s.calls) (hc : tget s.calls c = some x) (hi : idle (statuses s n c))
    (hfull : freeChannel s n = none) : Pools (preempt s c n) := by
  unfold preempt
  split
  · rename_i v hv
    split
    · obtain ⟨y, hy, hst, -⟩ := mem_victims ha (bestOf_mem hv)
      have hst : statuses s n v.call = some (.granted v.channel v.since) := by simpa [statuses, callStatus, hy] using hst
      have hne : c ≠ v.call := by rintro rfl; exact hi.not_granted _ _ hst
      have hc1 : tget (pushOut (setStatus s v.call n .busyOut) (.callDrop n v.call v.channel)).calls c = some x :=
        (tget_tmod_ne _ _ hne).trans hc
      have hst1 : statuses (pushOut (setStatus s v.call n .busyOut) (.callDrop n v.call v.channel)) n =
          Function.update (statuses s n) v.call (some .busyOut) := statuses_setStatus_self hy n .busyOut
      refine hp.of_onlyAt ((onlyAt_setStatus s v.call n .busyOut).trans (.trans
        (.of_same (t := pushOut (setStatus s v.call n .busyOut) (.callDrop n v.call v.channel)) n rfl rfl)
        ((onlyAt_grantChannel _ c n v.channel).trans (onlyAt_raise n _ _))))
        (mapsAscend_congr (raise_calls _ _) (mapsAscend_grantChannel
          (mapsAscend_congr (s := setStatus s v.call n .busyOut) rfl (mapsAscend_setStatus hp.maps v.call n _)) c n _))
        fun w q he => ?_
      rw [statuses_congr (raise_calls _ _), statuses_grantChannel hc1, hst1]
      rw [poolOf_congr (s := s) (by rw [raise_sites]; rfl)] at he
      have hpn := hp.pools n w q he
      obtain ⟨h1, hw⟩ := hpn.inPool hst
      exact (hpn.release hst (.inr rfl)).grant (by rw [Function.update_of_ne hne]; exact hi) h1 hw
        (hpn.released_free hst (.inr rfl)) (.inr rfl)
    · exact pools_setBusyOut hp hc hi
  · exact pools_queueCall hp ha hc hi hfull

/-- The arbitration of a call that has no place at the site. -/
theorem pools_arbitrate (hp : Pools s) (ha : Ascending s.calls) (hc : tget s.calls c = some x) (hi : idle (statuses s n c)) :
    Pools (arbitrate s c n) := by
  unfold arbitrate
  split
  · rename_i ch hch
    split
    · refine hp.of_onlyAt (onlyAt_grantChannel s c n ch) (mapsAscend_grantChannel hp.maps c n ch) fun v q he => ?_
      rw [statuses_grantChannel hc]
      change poolOf s n = _ at he
      obtain ⟨h1, hv, hfree⟩ := freeChannel_of_some ha hch
      rw [voiceChannels_eq, he] at hv
      exact (hp.pools n v q he).grant hi h1 hv hfree (.inl rfl)
    · exact pools_setBusyOut hp hc hi
  · rename_i hfull
    split
    · exact pools_preempt hp ha hc hi hfull
    · exact pools_queueCall hp ha hc hi hfull

end

/-! ### A freed channel is handed on (R140) -/

theorem tget_calls_leaveQueue (s : State) (n c k : Nat) : tget (leaveQueue s n c).calls k = tget s.calls k := rfl

theorem call_of_queued {s : State} {n c y z : Nat} (h : statuses s n c = some (.queued y z)) : ∃ x, tget s.calls c = some x := by
  cases hx : tget s.calls c with
  | none => simp [statuses, callStatus, hx] at h
  | some x => exact ⟨x, rfl⟩

theorem onlyAt_handOnTo (s : State) (n ch : Nat) (l : List Nat) : OnlyAt n s (handOnTo s n ch l) := by
  induction l generalizing s with
  | nil => exact .refl n s
  | cons c rest ih =>
    simp only [handOnTo]
    split
    · exact (onlyAt_modSite s n _).trans (onlyAt_grantChannel _ c n ch)
    · exact (onlyAt_modSite s n _).trans ((onlyAt_setStatus _ c n _).trans (ih _))

theorem mapsAscend_handOnTo {s : State} (h : mapsAscend s) (n ch : Nat) (l : List Nat) : mapsAscend (handOnTo s n ch l) := by
  induction l generalizing s with
  | nil => exact h
  | cons c rest ih =>
    simp only [handOnTo]
    split
    · exact mapsAscend_grantChannel (mapsAscend_congr (s := s) rfl h) c n ch
    · exact ih (mapsAscend_setStatus (mapsAscend_congr (s := s) rfl h) c n _)

/-- Handed along a list that holds the queue's calls, the freed channel is granted, or the queue is left empty. -/
theorem poolAt_handOnTo {s : State} {n ch : Nat} {l : List Nat} (hl : l.Nodup)
    (hq : ∀ v q, poolOf s n = some (v, q) → PoolOk (statuses s n) v q (some ch) ∧ 1 ≤ ch ∧ ch ≤ v ∧ ∀ c, c ∈ l ↔ c ∈ q)
    (hfree : ∀ c y, statuses s n c ≠ some (.granted ch y)) : PoolAt (handOnTo s n ch l) n none := by
  induction l generalizing s with
  | nil =>
    intro v q he
    obtain ⟨hp, -, -, hmem⟩ := hq v q he
    have hnil : q = [] := List.eq_nil_iff_forall_not_mem.2 fun c hc => by simpa using (hmem c).2 hc
    exact ⟨hp.inPool, hp.once, hp.nodup, hp.short, hp.queued, fun hne => absurd hnil hne⟩
  | cons c rest ih =>
    obtain ⟨hnot, hrest⟩ := List.nodup_cons.1 hl
    simp only [handOnTo]
    have hleave : poolOf (leaveQueue s n c) n = (poolOf s n).map fun p => (p.1, p.2.erase c) := poolOf_leaveQueue_self s n c
    split
    · intro v q he
      change poolOf (leaveQueue s n c) n = _ at he
      rw [hleave] at he
      obtain ⟨⟨v', q'⟩, hpool, e⟩ := Option.map_eq_some_iff.1 he
      simp only [Prod.mk.injEq] at e
      obtain ⟨rfl, rfl⟩ := e
      obtain ⟨hp, h1, hv, hmem⟩ := hq v' q' hpool
      have hc : c ∈ q' := (hmem c).1 List.mem_cons_self
      obtain ⟨y, z, hst⟩ := (hp.queued c).1 hc
      obtain ⟨x, hx⟩ := call_of_queued hst
      rw [statuses_grantChannel (s := leaveQueue s n c) hx, statuses_congr (s := s) (t := leaveQueue s n c) rfl]
      have hleft := hp.leave (new := none) hc (.inl rfl)
      have hgrant := hleft.grant (c := c) (t := (leaveQueue s n c).partTime) (ch := ch) (by simp [idle]) h1 hv
        (fun d y' e => by
          by_cases hd : d = c
          · subst hd; simp at e
          · rw [Function.update_of_ne hd] at e; exact hfree d y' e) (.inr rfl)
      rwa [Function.update_idem] at hgrant
    · refine ih hrest (fun v q he => ?_) fun d y e => ?_
      · change poolOf (leaveQueue s n c) n = _ at he
        rw [hleave] at he
        obtain ⟨⟨v', q'⟩, hpool, e⟩ := Option.map_eq_some_iff.1 he
        simp only [Prod.mk.injEq] at e
        obtain ⟨rfl, rfl⟩ := e
        obtain ⟨hp, h1, hv, hmem⟩ := hq v' q' hpool
        have hc : c ∈ q' := (hmem c).1 List.mem_cons_self
        obtain ⟨y, z, hst⟩ := (hp.queued c).1 hc
        obtain ⟨x, hx⟩ := call_of_queued hst
        rw [statuses_setStatus_self (s := leaveQueue s n c) hx, statuses_congr (s := s) (t := leaveQueue s n c) rfl]
        refine ⟨hp.leave hc (.inr rfl), h1, hv, fun d => ?_⟩
        rw [hp.nodup.mem_erase_iff, ← hmem d]
        by_cases hd : d = c
        · subst hd; simp [hnot]
        · simp [hd]
      · by_cases hx : ∃ x, tget s.calls c = some x
        · obtain ⟨x, hx⟩ := hx
          rw [statuses_setStatus_self (s := leaveQueue s n c) hx, statuses_congr (s := s) (t := leaveQueue s n c) rfl] at e
          by_cases hd : d = c
          · subst hd; simp at e
          · rw [Function.update_of_ne hd] at e; exact hfree d y e
        · have hnone : tget s.calls c = none := Option.eq_none_iff_forall_ne_some.2 fun x hx' => hx ⟨x, hx'⟩
          have hsame : (setStatus (leaveQueue s n c) c n .busyOut).calls = s.calls := tmod_of_none _ _ hnone
          rw [statuses_congr hsame] at e
          exact hfree d y e

/-- A call that holds a channel gives it up, and the channel is handed on. -/
theorem pools_handOn_clear {s u : State} {c n ch y : Nat} (hp : Pools s) (hc : statuses s n c = some (.granted ch y))
    (hcalls : u.calls = s.calls) (hsites : u.sites = s.sites) : Pools (handOn (clearStatus u c n) n ch) := by
  have hm : mapsAscend u := mapsAscend_congr hcalls hp.maps
  have hst : statuses (clearStatus u c n) n = Function.update (statuses s n) c none := by
    rw [statuses_clearStatus_self hm, statuses_congr hcalls]
  have hpool : poolOf (clearStatus u c n) n = poolOf s n := poolOf_congr (by rw [show (clearStatus u c n).sites = u.sites from rfl, hsites])
  refine hp.of_onlyAt ((OnlyAt.of_same n hcalls hsites).trans ((onlyAt_clearStatus u c n).trans (onlyAt_handOnTo _ n ch _)))
    (mapsAscend_handOnTo (mapsAscend_clearStatus hm c n) n ch _) ?_
  cases hpo : poolOf s n with
  | none =>
    intro v q he
    have : poolOf (handOn (clearStatus u c n) n ch) n ≠ some (v, q) := by
      have frame := (callFrame_handOn (clearStatus u c n) n ch).sites n
      have hs : tget (clearStatus u c n).sites n = none := by
        simpa [poolOf] using hpool.trans hpo
      rw [hs] at frame
      have hnone : tget (handOn (clearStatus u c n) n ch).sites n = none := by simpa using frame
      simp [poolOf, hnone]
    exact absurd he this
  | some p =>
    obtain ⟨v, q⟩ := p
    have hpn := hp.pools n v q hpo
    obtain ⟨h1, hv⟩ := hpn.inPool hc
    have hjoined : joinedQueue (clearStatus u c n) n = q := by rw [joinedQueue_eq, hpool, hpo]; rfl
    refine poolAt_handOnTo (channelQueue_nodup (by rw [hjoined]; exact hpn.nodup)) (fun v' q' he => ?_) fun d y' => ?_
    · rw [hpool, hpo] at he
      cases he
      rw [hst]
      exact ⟨hpn.release hc (.inl rfl), h1, hv, fun d => by rw [mem_channelQueue, hjoined]⟩
    · rw [hst]
      exact hpn.released_free hc (.inl rfl) d y'

end Sys2Proof.Machine

/-! The Call Table's order and the agreement of pools and queues through the end and the creation of calls (R128 to R133, R144), and
what the work inside any event leaves of the rest of the part. -/

namespace Sys2Proof.Machine

/-! ### The Call Table in order (R128) -/

/-- The Call Table in order, apart from the phase. -/
structure CallTable (s : State) : Prop where
  calls : Ascending s.calls
  groups : Ascending s.groups
  ident : ∀ {c y}, tget s.calls c = some y → 1 ≤ c ∧ c ≤ 32
  active : ∀ {c y}, tget s.calls c = some y → ∃ x, tget s.groups y.group = some x ∧ x.activeCall = some c
  call : ∀ {g x c}, tget s.groups g = some x → x.activeCall = some c → ∃ y, tget s.calls c = some y ∧ y.group = g

theorem mem_tkeys_iff {α : Type} {t : Table α} (h : Ascending t) (k : Nat) : k ∈ tkeys t ↔ ∃ v, tget t k = some v := by
  simp only [tkeys, List.mem_map]
  constructor
  · rintro ⟨⟨j, v⟩, hp, rfl⟩; exact ⟨v, tget_of_mem h hp⟩
  · rintro ⟨v, hv⟩; exact ⟨(k, v), mem_of_tget hv, rfl⟩

theorem forall_mem_iff_tget {α : Type} {t : Table α} (h : Ascending t) (p : Nat → α → Prop) :
    (∀ q ∈ t, p q.1 q.2) ↔ ∀ k v, tget t k = some v → p k v :=
  ⟨fun hq k v hv => hq (k, v) (mem_of_tget hv), fun hk q hq => hk q.1 q.2 (tget_of_mem h hq)⟩

theorem callTableOk_iff (s : State) : CallTableOk s ↔ CallTable s ∧ ConfigQuiet s := by
  constructor
  · rintro ⟨hc, hg, hq, hid, hact, hcall⟩
    exact ⟨⟨hc, hg, fun h => hid _ ((mem_tkeys_iff hc _).2 ⟨_, h⟩), fun h => hact _ (mem_of_tget h),
      fun h e => hcall _ (mem_of_tget h) _ e⟩, hq⟩
  · rintro ⟨⟨hc, hg, hid, hact, hcall⟩, hq⟩
    refine ⟨hc, hg, hq, fun c hm => ?_, fun p hp => hact (tget_of_mem hc hp), fun p hp c e => hcall (tget_of_mem hg hp) e⟩
    obtain ⟨y, hy⟩ := (mem_tkeys_iff hc c).1 hm
    exact hid hy

theorem CallTable.of_same {s t : State} (h : CallTable s) (hc : Ascending t.calls) (hg : Ascending t.groups)
    (hcalls : ∀ k, (tget t.calls k).map Call.group = (tget s.calls k).map Call.group)
    (hgroups : ∀ g, (tget t.groups g).map Group.activeCall = (tget s.groups g).map Group.activeCall) : CallTable t := by
  have back : ∀ {c y}, tget t.calls c = some y → ∃ w, tget s.calls c = some w ∧ w.group = y.group := by
    intro c y hy
    have := hcalls c
    rw [hy, Option.map_some, eq_comm, Option.map_eq_some_iff] at this
    exact this
  have gback : ∀ {g x}, tget t.groups g = some x → ∃ w, tget s.groups g = some w ∧ w.activeCall = x.activeCall := by
    intro g x hx
    have := hgroups g
    rw [hx, Option.map_some, eq_comm, Option.map_eq_some_iff] at this
    exact this
  refine ⟨hc, hg, fun hy => ?_, fun hy => ?_, fun {g x c} hx he => ?_⟩
  · obtain ⟨w, hw, -⟩ := back hy
    exact h.ident hw
  · obtain ⟨w, hw, hwg⟩ := back hy
    obtain ⟨x, hx, hxa⟩ := h.active hw
    have := hgroups w.group
    rw [hx, Option.map_some, Option.map_eq_some_iff] at this
    obtain ⟨x', hx', e⟩ := this
    exact ⟨x', hwg ▸ hx', e.trans hxa⟩
  · obtain ⟨w, hw, hwa⟩ := gback hx
    obtain ⟨y, hy, hyg⟩ := h.call hw (hwa.trans he)
    have := hcalls c
    rw [hy, Option.map_some, Option.map_eq_some_iff] at this
    obtain ⟨y', hy', e⟩ := this
    exact ⟨y', hy', e.trans hyg⟩

theorem CallFrame.callGroups {s t : State} (h : CallFrame s t) (k : Nat) :
    (tget t.calls k).map Call.group = (tget s.calls k).map Call.group := by
  have := congrArg (Option.map Call.group) (h.calls k)
  simpa [Option.map_map, Function.comp_def] using this

theorem CallFrame.has_call {s t : State} (h : CallFrame s t) {c : Nat} {x : Call} (hc : tget s.calls c = some x) :
    ∃ y, tget t.calls c = some y ∧ y.group = x.group := by
  have := h.callGroups c
  rw [hc, Option.map_some, Option.map_eq_some_iff] at this
  exact this

theorem CallFrame.table {s t : State} (h : CallFrame s t) (hc : Ascending t.calls) (hs : CallTable s) : CallTable t :=
  hs.of_same hc (by rw [h.groups]; exact hs.groups) h.callGroups fun g => by rw [h.groups]

/-! ### Pools and queues in order -/

theorem channelsHeld_nodup_iff {s : State} (ha : Ascending s.calls) (n : Nat) :
    (channelsHeld s n).Nodup ↔
      ∀ c d ch y z, statuses s n c = some (.granted ch y) → statuses s n d = some (.granted ch z) → c = d := by
  have hst : ∀ p ∈ s.calls, statuses s n p.1 = tget p.2.map n := fun p hp => by
    simp [statuses, callStatus, tget_of_mem ha hp]
  have hheld : ∀ {x : Option CallStatus} {ch}, heldChannel x = some ch ↔ ∃ y, x = some (.granted ch y) := by
    intro x ch
    rcases x with _ | (_ | _ | _) <;> simp [heldChannel]
  have hpairs : s.calls.Pairwise fun p q => p.1 < q.1 := List.pairwise_map.1 ha
  unfold channelsHeld List.Nodup
  rw [List.pairwise_filterMap]
  constructor
  · intro h c d ch y z hc hd
    obtain ⟨x, hx⟩ : ∃ x, tget s.calls c = some x := by
      cases hx : tget s.calls c with
      | none => simp [statuses, callStatus, hx] at hc
      | some x => exact ⟨x, rfl⟩
    obtain ⟨w, hw⟩ : ∃ w, tget s.calls d = some w := by
      cases hw : tget s.calls d with
      | none => simp [statuses, callStatus, hw] at hd
      | some w => exact ⟨w, rfl⟩
    have symm : Std.Symm fun p q : Nat × Call =>
        ∀ b, heldChannel (tget p.2.map n) = some b → ∀ b', heldChannel (tget q.2.map n) = some b' → b ≠ b' :=
      ⟨fun p q hpq b hb b' hb' e => hpq b' hb' b hb e.symm⟩
    by_contra hne
    have := h.forall (mem_of_tget hx) (mem_of_tget hw) (by simp [hne])
    refine this ch (hheld.2 ⟨y, ?_⟩) ch (hheld.2 ⟨z, ?_⟩) rfl
    · rw [← hst _ (mem_of_tget hx)]; exact hc
    · rw [← hst _ (mem_of_tget hw)]; exact hd
  · intro h
    refine hpairs.imp_of_mem fun {p q} hp hq hlt b hb b' hb' e => ?_
    obtain ⟨y, hy⟩ := hheld.1 hb
    obtain ⟨z, hz⟩ := hheld.1 hb'
    subst e
    rw [← hst p hp] at hy
    rw [← hst q hq] at hz
    exact Nat.ne_of_lt hlt (h _ _ _ _ _ hy hz)

theorem channelsAgree_iff (s : State) :
    ChannelsAgree s ↔ CallTable s ∧ ConfigQuiet s ∧ Ascending s.sites ∧ Pools s := by
  have queuedIff : ∀ c n, queuedAt s c n ↔ ∃ y h, statuses s n c = some (.queued y h) := fun _ _ => Iff.rfl
  have voice : ∀ p ∈ s.sites, Ascending s.sites → voiceChannels s p.1 = p.2.voice := fun p hp hs => by
    simp [voiceChannels, tget_of_mem hs hp]
  have pool : ∀ p ∈ s.sites, Ascending s.sites → poolOf s p.1 = some (p.2.voice, p.2.queue) := fun p hp hs => by
    simp [poolOf, tget_of_mem hs hp]
  unfold ChannelsAgree
  rw [callTableOk_iff]
  constructor
  · rintro ⟨⟨htab, hq⟩, hs, hm, hsite⟩
    refine ⟨htab, hq, hs, hm, fun n v queue he => ?_⟩
    obtain ⟨x, hx, e⟩ := Option.map_eq_some_iff.1 he
    simp only [Prod.mk.injEq] at e
    obtain ⟨rfl, rfl⟩ := e
    have hmem := mem_of_tget hx
    obtain ⟨hin, hnd, hqn, hql, hqq, hqf⟩ := hsite _ hmem
    refine ⟨fun hc => hin _ ((mem_channelsHeld htab.calls n _).2 ⟨_, _, hc⟩),
      fun h1 h2 => (channelsHeld_nodup_iff htab.calls n).1 hnd _ _ _ _ _ h1 h2, hqn, hql, hqq, fun hne ch h1 h2 _ => ?_⟩
    exact (freeChannel_eq_none_iff htab.calls (voice _ hmem hs)).1 (hqf hne) ch h1 h2
  · rintro ⟨htab, hq, hs, hm, hpools⟩
    refine ⟨⟨htab, hq⟩, hs, hm, fun p hp => ?_⟩
    have hpn := hpools p.1 _ _ (pool p hp hs)
    refine ⟨fun ch hch => ?_, (channelsHeld_nodup_iff htab.calls p.1).2 fun _ _ _ _ _ => hpn.once, hpn.nodup, hpn.short,
      hpn.queued, fun hne => (freeChannel_eq_none_iff htab.calls (voice p hp hs)).2 fun ch h1 h2 =>
        hpn.full hne ch h1 h2 (by simp)⟩
    obtain ⟨c, y, e⟩ := (mem_channelsHeld htab.calls p.1 ch).1 hch
    exact hpn.inPool e

/-! ### What arbitration leaves at other sites -/

theorem onlyAt_queueCall (s : State) (c n : Nat) : OnlyAt n s (queueCall s c n) := by
  unfold queueCall
  simp only []
  split
  · exact (onlyAt_modSite s n _).trans (onlyAt_setStatus _ c n _)
  · split
    · split
      · exact (onlyAt_modSite s n _).trans ((onlyAt_setStatus _ _ n _).trans
          ((onlyAt_modSite _ n _).trans (onlyAt_setStatus _ c n _)))
      · exact onlyAt_setStatus s c n _
    · exact onlyAt_setStatus s c n _

theorem onlyAt_preempt (s : State) (c n : Nat) : OnlyAt n s (preempt s c n) := by
  unfold preempt
  split
  · rename_i v _
    split
    · exact (onlyAt_setStatus s v.call n .busyOut).trans (.trans
        (.of_same (t := pushOut (setStatus s v.call n .busyOut) (.callDrop n v.call v.channel)) n rfl rfl)
        ((onlyAt_grantChannel _ c n v.channel).trans (onlyAt_raise n _ _)))
    · exact onlyAt_setStatus s c n _
  · exact onlyAt_queueCall s c n

theorem onlyAt_arbitrate (s : State) (c n : Nat) : OnlyAt n s (arbitrate s c n) := by
  unfold arbitrate
  split
  · split
    · exact onlyAt_grantChannel s c n _
    · exact onlyAt_setStatus s c n _
  · split
    · exact onlyAt_preempt s c n
    · exact onlyAt_queueCall s c n

theorem onlyAt_handOn (s : State) (n ch : Nat) : OnlyAt n s (handOn s n ch) := onlyAt_handOnTo s n ch _

theorem onlyAt_dropQueued (c : Nat) (s : State) (p : Nat × CallStatus) : OnlyAt p.1 s (dropQueued c s p) := by
  unfold dropQueued
  split
  · exact (onlyAt_modSite s p.1 _).trans (onlyAt_clearStatus _ c p.1)
  · exact .refl _ s

theorem onlyAt_dropGranted (c : Nat) (s : State) (p : Nat × CallStatus) : OnlyAt p.1 s (dropGranted c s p) := by
  unfold dropGranted
  split
  · simp only []
    split
    · exact .trans (.of_same (t := pushOut s _) p.1 rfl rfl) ((onlyAt_clearStatus _ c p.1).trans (onlyAt_handOn _ _ _))
    · exact (onlyAt_clearStatus _ c p.1).trans (onlyAt_handOn _ _ _)
  · exact .refl _ s

/-! ### Everything but calls, pools and the record tables' content -/

/-- The values of a site that its configuration requests alone give it (R88, R104). -/
def siteValues (x : Site) : Site :=
  { x with state := .down, condition := none, count := 0, acceptIn := false, overFlag := false, syncLost := false, queue := [] }

/-- The values of a group that its configuration requests alone give it (R109, R111). -/
def groupValues (x : Group) : Priority × List Nat := (x.priority, x.fixed)

/-- What the work inside an event leaves: the fields outside the blocks, the bound of the notice queue, the canonical form of every
table, and the configured values of sites and groups. -/
structure Steady (s t : State) : Prop where
  outer : outer t = outer s
  notices : s.notices.length ≤ 64 → t.notices.length ≤ 64
  radios : Ascending s.radios → Ascending t.radios
  sites : Ascending s.sites → Ascending t.sites
  groups : Ascending s.groups → Ascending t.groups
  calls : Ascending s.calls → Ascending t.calls
  maps : mapsAscend s → mapsAscend t
  counts : countsAscend s → countsAscend t
  siteValues : ∀ n, (tget t.sites n).map siteValues = (tget s.sites n).map siteValues
  groupValues : ∀ g, (tget t.groups g).map groupValues = (tget s.groups g).map groupValues

theorem Steady.refl (s : State) : Steady s s := ⟨rfl, id, id, id, id, id, id, id, fun _ => rfl, fun _ => rfl⟩

theorem Steady.trans {a b c : State} (h1 : Steady a b) (h2 : Steady b c) : Steady a c :=
  ⟨h2.outer.trans h1.outer, h2.notices ∘ h1.notices, h2.radios ∘ h1.radios, h2.sites ∘ h1.sites, h2.groups ∘ h1.groups,
    h2.calls ∘ h1.calls, h2.maps ∘ h1.maps, h2.counts ∘ h1.counts, fun n => (h2.siteValues n).trans (h1.siteValues n),
    fun g => (h2.groupValues g).trans (h1.groupValues g)⟩

theorem raise_notices_le {s : State} (b : NoticeBody) (h : s.notices.length ≤ 64) : (raise s b).notices.length ≤ 64 := by
  rcases Nat.lt_or_ge s.notices.length 64 with hroom | hfull
  · rw [raise_of_room hroom]; simp only [List.length_append, List.length_singleton]; omega
  · rw [raise_of_full hfull]; exact h

theorem steady_raise (s : State) (b : NoticeBody) : Steady s (raise s b) :=
  ⟨by simp, raise_notices_le b, by simp, by simp, by simp, by simp, by simp [mapsAscend], by simp [countsAscend], by simp, by simp⟩

/-- A change of the fields that nothing here speaks of: the outbound queue, the Bulk Engine, the tag counter. -/
theorem Steady.of_eq {s t : State} (ho : Machine.outer t = Machine.outer s) (hn : t.notices = s.notices) (hr : t.radios = s.radios)
    (hs : t.sites = s.sites) (hg : t.groups = s.groups) (hc : t.calls = s.calls) : Steady s t :=
  ⟨ho, by simp [hn], by simp [hr], by simp [hs], by simp [hg], by simp [hc], mapsAscend_congr hc, by simp [countsAscend, hg],
    by simp [hs], by simp [hg]⟩

theorem Steady.of_radios {s t : State} (h : Ascending s.radios → Ascending t.radios) (ho : Machine.outer t = Machine.outer s)
    (hn : t.notices = s.notices) (hs : t.sites = s.sites) (hg : t.groups = s.groups) (hc : t.calls = s.calls) : Steady s t :=
  ⟨ho, by simp [hn], h, by simp [hs], by simp [hg], by simp [hc], mapsAscend_congr hc, by simp [countsAscend, hg],
    by simp [hs], by simp [hg]⟩

theorem steady_putRadio (s : State) (u : Nat) (r : Radio) : Steady s (putRadio s u r) :=
  .of_radios (ascending_tput _ _ _) rfl rfl rfl rfl rfl
theorem steady_delRadio (s : State) (u : Nat) : Steady s (delRadio s u) := .of_radios (ascending_tdel _ _) rfl rfl rfl rfl rfl
theorem steady_modRadio (s : State) (u : Nat) (f : Radio → Radio) : Steady s (modRadio s u f) :=
  .of_radios (ascending_tmod _ _ _) rfl rfl rfl rfl rfl

theorem steady_modSite (s : State) (n : Nat) (f : Site → Site) (hf : ∀ x, siteValues (f x) = siteValues x) :
    Steady s (modSite s n f) := by
  refine ⟨rfl, id, id, ascending_tmod _ _ _, id, id, id, id, fun m => ?_, fun _ => rfl⟩
  simp only [modSite_sites, tget_tmod]
  split
  · cases tget s.sites m <;> simp [hf]
  · rfl

theorem steady_modGroup (s : State) (g : Nat) (f : Group → Group) (hf : ∀ x, groupValues (f x) = groupValues x)
    (hc : ∀ x, Ascending x.counts → Ascending (f x).counts) : Steady s (modGroup s g f) := by
  refine ⟨rfl, id, id, id, ascending_tmod _ _ _, id, id, fun h p hp => ?_, fun _ => rfl, fun k => ?_⟩
  · rcases mem_tmod hp with hp | ⟨x, hx, rfl⟩
    · exact h p hp
    · exact hc x (h _ (mem_of_tget hx))
  · simp only [modGroup_groups, tget_tmod]
    split
    · cases tget s.groups k <;> simp [hf]
    · rfl

theorem steady_modCall (s : State) (c : Nat) (f : Call → Call) (hf : ∀ x, Ascending x.map → Ascending (f x).map) :
    Steady s (modCall s c f) :=
  ⟨rfl, id, id, id, id, ascending_tmod _ _ _, mapsAscend_modCall hf, id, fun _ => rfl, fun _ => rfl⟩

theorem steady_pushOut (s : State) (f : SiteOut) : Steady s (pushOut s f) := .of_eq rfl rfl rfl rfl rfl rfl

theorem steady_foldl {β : Type} (f : State → β → State) (h : ∀ s x, Steady s (f s x)) (l : List β) (s : State) :
    Steady s (l.foldl f s) := foldl_rel Steady .refl .trans f h l s

/-! ### The Channel Arbiter's steps -/

theorem steady_setStatus (s : State) (c n : Nat) (st : CallStatus) : Steady s (setStatus s c n st) :=
  steady_modCall s c _ fun _ h => ascending_tput _ _ _ h
theorem steady_clearStatus (s : State) (c n : Nat) : Steady s (clearStatus s c n) :=
  steady_modCall s c _ fun _ h => ascending_tdel _ _ h
theorem steady_leaveQueue (s : State) (n c : Nat) : Steady s (leaveQueue s n c) := steady_modSite s n _ fun _ => rfl
theorem steady_joinQueue (s : State) (n c : Nat) : Steady s (joinQueue s n c) := steady_modSite s n _ fun _ => rfl
theorem steady_grantChannel (s : State) (c n ch : Nat) : Steady s (grantChannel s c n ch) :=
  (steady_setStatus s c n _).trans (steady_pushOut _ _)

theorem steady_queueCall (s : State) (c n : Nat) : Steady s (queueCall s c n) := by
  unfold queueCall
  simp only []
  split
  · exact (steady_joinQueue s n c).trans (steady_setStatus _ _ _ _)
  · split
    · split
      · exact (steady_leaveQueue s n _).trans ((steady_setStatus _ _ _ _).trans
          ((steady_joinQueue _ n c).trans (steady_setStatus _ _ _ _)))
      · exact steady_setStatus _ _ _ _
    · exact steady_setStatus _ _ _ _

theorem steady_preempt (s : State) (c n : Nat) : Steady s (preempt s c n) := by
  unfold preempt
  split
  · split
    · exact (steady_setStatus s _ _ _).trans ((steady_pushOut _ _).trans ((steady_grantChannel _ _ _ _).trans (steady_raise _ _)))
    · exact steady_setStatus _ _ _ _
  · exact steady_queueCall s c n

theorem steady_arbitrate (s : State) (c n : Nat) : Steady s (arbitrate s c n) := by
  unfold arbitrate
  split
  · split
    · exact steady_grantChannel _ _ _ _
    · exact steady_setStatus _ _ _ _
  · split
    · exact steady_preempt s c n
    · exact steady_queueCall s c n

theorem steady_lateEntry (s : State) (c n : Nat) : Steady s (lateEntry s c n) := by
  unfold lateEntry
  split
  · exact steady_arbitrate s c n
  · exact .refl s

theorem steady_passToCalls (s : State) (p : Nat × Nat) : Steady s (passToCalls s p) := by
  unfold passToCalls
  split
  · split
    · exact steady_lateEntry _ _ _
    · exact .refl s
  · exact .refl s

theorem steady_handOnTo (s : State) (n ch : Nat) (l : List Nat) : Steady s (handOnTo s n ch l) := by
  induction l generalizing s with
  | nil => exact .refl s
  | cons c rest ih =>
    simp only [handOnTo]
    split
    · exact (steady_leaveQueue s n c).trans (steady_grantChannel _ _ _ _)
    · exact (steady_leaveQueue s n c).trans ((steady_setStatus _ _ _ _).trans (ih _))

theorem steady_dropQueued (c : Nat) (s : State) (p : Nat × CallStatus) : Steady s (dropQueued c s p) := by
  unfold dropQueued
  split
  · exact (steady_leaveQueue s _ _).trans (steady_clearStatus _ _ _)
  · exact .refl s

theorem steady_dropGranted (c : Nat) (s : State) (p : Nat × CallStatus) : Steady s (dropGranted c s p) := by
  unfold dropGranted
  split
  · simp only []
    split
    · exact (steady_pushOut s _).trans ((steady_clearStatus _ _ _).trans (steady_handOnTo _ _ _ _))
    · exact (steady_clearStatus _ _ _).trans (steady_handOnTo _ _ _ _)
  · exact .refl s

theorem steady_delCall (s : State) (c : Nat) : Steady s { s with calls := tdel s.calls c } :=
  ⟨rfl, id, id, id, id, ascending_tdel _ _, fun h p hp => h p (mem_tdel hp), id, fun _ => rfl, fun _ => rfl⟩

theorem steady_putCall (s : State) (c : Nat) (y : Call) (hy : Ascending y.map) : Steady s { s with calls := tput s.calls c y } :=
  ⟨rfl, id, id, id, id, ascending_tput _ _ _, fun h p hp => by
    rcases mem_tput hp with rfl | hp
    · exact hy
    · exact h p hp, id, fun _ => rfl, fun _ => rfl⟩

theorem steady_setActive (s : State) (g : Nat) (c : Option Nat) : Steady s (modGroup s g fun x => { x with activeCall := c }) :=
  steady_modGroup s g _ (fun _ => rfl) fun _ h => h

theorem steady_endCall (s : State) (c : Nat) : Steady s (endCall s c) := by
  unfold endCall
  split
  · exact (steady_foldl _ (steady_dropQueued c) _ s).trans ((steady_foldl _ (steady_dropGranted c) _ _).trans
      ((steady_setActive _ _ none).trans (steady_delCall _ c)))
  · exact .refl s

theorem steady_createCall (s : State) (origin g u : Nat) : Steady s (createCall s origin g u).1 :=
  (steady_putCall s _ _ ascending_nil).trans ((steady_setActive _ g _).trans
    (steady_foldl _ (fun s n => steady_arbitrate s _ n) _ _))

/-! ### The end of a call (R144) -/

theorem statuses_handOnTo_of_not_mem {s : State} {n ch c : Nat} {l : List Nat} (h : c ∉ l) :
    statuses (handOnTo s n ch l) n c = statuses s n c := by
  have keep : ∀ (s : State) (d : Nat) (st : CallStatus), c ≠ d → statuses (setStatus s d n st) n c = statuses s n c := by
    intro s d st hne
    have hsame : tget (setStatus s d n st).calls c = tget s.calls c := tget_tmod_ne _ _ hne
    simp only [statuses, callStatus, hsame]
  induction l generalizing s with
  | nil => rfl
  | cons d rest ih =>
    obtain ⟨hne, hrest⟩ := not_or.1 (mt List.mem_cons.2 h)
    simp only [handOnTo]
    split
    · exact keep (leaveQueue s n d) d _ hne
    · rw [ih hrest]; exact keep (leaveQueue s n d) d _ hne

section
variable {s : State} {c : Nat}

theorem Pools.queue_iff (hp : Pools s) {n v : Nat} {q : List Nat} (h : poolOf s n = some (v, q)) (d : Nat) :
    d ∈ joinedQueue s n ↔ ∃ y z, statuses s n d = some (.queued y z) := by
  rw [joinedQueue_eq, h]; exact (hp.pools n v q h).queued d

theorem pools_dropQueued (hp : Pools s) {p : Nat × CallStatus} (h : statuses s p.1 c = some p.2) : Pools (dropQueued c s p) := by
  unfold dropQueued
  split
  · rename_i y z hq
    refine hp.of_onlyAt ((onlyAt_modSite s p.1 _).trans (onlyAt_clearStatus _ c p.1))
      (mapsAscend_clearStatus (mapsAscend_congr (s := s) rfl hp.maps) c p.1) fun v q he => ?_
    change poolOf (leaveQueue s p.1 c) p.1 = _ at he
    rw [poolOf_leaveQueue_self] at he
    obtain ⟨⟨v', q'⟩, hpool, e⟩ := Option.map_eq_some_iff.1 he
    simp only [Prod.mk.injEq] at e
    obtain ⟨rfl, rfl⟩ := e
    rw [statuses_clearStatus_self (s := leaveQueue s p.1 c) (mapsAscend_congr (s := s) rfl hp.maps),
      statuses_congr (s := s) (t := leaveQueue s p.1 c) rfl]
    have hpn := hp.pools p.1 v' q' hpool
    exact hpn.leave ((hpn.queued c).2 ⟨y, z, by rw [h, hq]⟩) (.inl rfl)
  · exact hp

theorem statuses_dropQueued (hm : mapsAscend s) (p : Nat × CallStatus) (h : ∃ y z, p.2 = .queued y z) :
    statuses (dropQueued c s p) p.1 c = none := by
  obtain ⟨y, z, hq⟩ := h
  simp only [dropQueued, hq]
  rw [statuses_clearStatus_self (s := leaveQueue s p.1 c) (mapsAscend_congr (s := s) rfl hm), Function.update_self]

theorem dropQueued_of_other {p : Nat × CallStatus} (h : ∀ y z, p.2 ≠ .queued y z) : dropQueued c s p = s := by
  unfold dropQueued
  split
  · rename_i y z hq; exact absurd hq (h y z)
  · rfl

theorem dropGranted_of_other {p : Nat × CallStatus} (h : ∀ ch y, p.2 ≠ .granted ch y) : dropGranted c s p = s := by
  unfold dropGranted
  split
  · rename_i ch y hq; exact absurd hq (h ch y)
  · rfl

theorem dropGranted_eq {n ch y : Nat} : ∃ u, u.calls = s.calls ∧ u.sites = s.sites ∧
    dropGranted c s (n, .granted ch y) = handOn (clearStatus u c n) n ch := by
  refine ⟨if hasRoom s 1 && siteWorks s n then pushOut s (.callDrop n c ch) else s, ?_, ?_, rfl⟩ <;> split <;> rfl

theorem pools_dropGranted (hp : Pools s) {p : Nat × CallStatus} (h : ∀ ch y, p.2 = .granted ch y → statuses s p.1 c = some p.2) :
    Pools (dropGranted c s p) := by
  obtain ⟨n, st⟩ := p
  cases st with
  | granted ch y =>
    obtain ⟨u, hc, hs, e⟩ := dropGranted_eq (s := s) (c := c) (n := n) (ch := ch) (y := y)
    rw [e]
    exact pools_handOn_clear hp (h ch y rfl) hc hs
  | queued _ _ => exact hp
  | busyOut => exact hp

/-- A call that holds a channel at a site waits in no queue there, so the channel is not handed back to it. -/
theorem statuses_dropGranted (hp : Pools s) {n ch y : Nat} (h : statuses s n c = some (.granted ch y)) :
    statuses (dropGranted c s (n, .granted ch y)) n c = none := by
  obtain ⟨u, hc, hs, e⟩ := dropGranted_eq (s := s) (c := c) (n := n) (ch := ch) (y := y)
  have hm : mapsAscend u := mapsAscend_congr hc hp.maps
  have hst : statuses (clearStatus u c n) n c = none := by
    rw [statuses_clearStatus_self hm, Function.update_self]
  have hjoined : joinedQueue (clearStatus u c n) n = joinedQueue s n := by
    simp only [joinedQueue, show (clearStatus u c n).sites = s.sites from hs]
  have hnot : c ∉ channelQueue (clearStatus u c n) n := by
    rw [mem_channelQueue, hjoined]
    cases hpo : poolOf s n with
    | none => simp [joinedQueue_eq, hpo]
    | some p =>
      obtain ⟨v, q⟩ := p
      rw [hp.queue_iff hpo c, h]
      simp
  rw [e, handOn, statuses_handOnTo_of_not_mem hnot, hst]

/-- Dropping the queue entries of a call, site by site, leaves it queued nowhere and granted where it was. -/
theorem foldl_dropQueued (l : Table CallStatus) (hl : Ascending l) (hp : Pools s)
    (hmap : ∀ p ∈ l, statuses s p.1 c = some p.2) (hall : ∀ n y z, statuses s n c = some (.queued y z) → n ∈ tkeys l) :
    let t := l.foldl (dropQueued c) s
    Pools t ∧ (∀ n y z, statuses t n c ≠ some (.queued y z)) ∧
      ∀ n ch y, statuses t n c = some (.granted ch y) ↔ statuses s n c = some (.granted ch y) := by
  induction l generalizing s with
  | nil => exact ⟨hp, fun n y z e => by simpa [tkeys] using hall n y z e, fun _ _ _ => Iff.rfl⟩
  | cons p rest ih =>
    obtain ⟨hlt, hrest⟩ := (ascending_cons p rest).1 hl
    have hpst := hmap p List.mem_cons_self
    have honly := onlyAt_dropQueued c s p
    have hother : ∀ m, m ≠ p.1 → statuses (dropQueued c s p) m c = statuses s m c := fun m hm => congrFun (honly.statuses m hm) c
    have hself : (∃ y z, p.2 = .queued y z) ∧ statuses (dropQueued c s p) p.1 c = none ∨
        (∀ y z, p.2 ≠ .queued y z) ∧ dropQueued c s p = s := by
      by_cases hq : ∃ y z, p.2 = .queued y z
      · exact .inl ⟨hq, statuses_dropQueued hp.maps p hq⟩
      · have hq : ∀ y z, p.2 ≠ .queued y z := fun y z e => hq ⟨y, z, e⟩
        exact .inr ⟨hq, dropQueued_of_other hq⟩
    have key : ∀ q ∈ rest, q.1 ≠ p.1 := fun q hq => Nat.ne_of_gt (hlt _ (List.mem_map_of_mem hq))
    obtain ⟨h1, h2, h3⟩ := ih (s := dropQueued c s p) hrest (pools_dropQueued hp hpst)
      (fun q hq => by rw [hother _ (key q hq)]; exact hmap q (List.mem_cons_of_mem _ hq)) fun n y z e => by
        rcases hself with ⟨-, hnone⟩ | ⟨hq, hsame⟩
        · have hne : n ≠ p.1 := by rintro rfl; rw [hnone] at e; cases e
          rw [hother n hne] at e
          rcases List.mem_cons.1 (hall n y z e) with h | h
          · exact absurd h hne
          · exact h
        · rw [hsame] at e
          rcases List.mem_cons.1 (hall n y z e) with h | h
          · rw [h, hpst] at e; exact absurd (Option.some.inj e) (hq y z)
          · exact h
    refine ⟨h1, h2, fun n ch y => ?_⟩
    rw [List.foldl_cons, h3]
    by_cases hn : n = p.1
    · subst hn
      rcases hself with ⟨⟨y', z', hq⟩, hnone⟩ | ⟨-, hsame⟩
      · rw [hnone, hpst, hq]; simp
      · rw [hsame]
    · rw [hother n hn]

/-- Dropping the channels of a call, site by site, leaves it granted nowhere. -/
theorem foldl_dropGranted (l : Table CallStatus) (hl : Ascending l) (hp : Pools s)
    (hq : ∀ n y z, statuses s n c ≠ some (.queued y z))
    (hmap : ∀ p ∈ l, ∀ ch y, p.2 = .granted ch y → statuses s p.1 c = some p.2)
    (hall : ∀ n ch y, statuses s n c = some (.granted ch y) → n ∈ tkeys l ∧ ∃ ch' y', tget l n = some (.granted ch' y')) :
    let t := l.foldl (dropGranted c) s
    Pools t ∧ ∀ n, idle (statuses t n c) := by
  induction l generalizing s with
  | nil =>
    refine ⟨hp, fun n => ?_⟩
    rcases h : statuses s n c with _ | (⟨ch, y⟩ | ⟨y, z⟩ | _)
    · exact .inl h
    · have := (hall n ch y h).1; simp [tkeys] at this
    · exact absurd h (hq n y z)
    · exact .inr h
  | cons p rest ih =>
    obtain ⟨hlt, hrest⟩ := (ascending_cons p rest).1 hl
    have hother : ∀ m, m ≠ p.1 → statuses (dropGranted c s p) m c = statuses s m c :=
      fun m hm => congrFun ((onlyAt_dropGranted c s p).statuses m hm) c
    have key : ∀ q ∈ rest, q.1 ≠ p.1 := fun q hq => Nat.ne_of_gt (hlt _ (List.mem_map_of_mem hq))
    have hself : (∃ ch y, p.2 = .granted ch y) ∧ statuses (dropGranted c s p) p.1 c = none ∨
        (∀ ch y, p.2 ≠ .granted ch y) ∧ dropGranted c s p = s := by
      by_cases hg : ∃ ch y, p.2 = .granted ch y
      · obtain ⟨ch, y, hg⟩ := hg
        have hst := hmap p List.mem_cons_self ch y hg
        obtain ⟨n, st⟩ := p
        subst hg
        exact .inl ⟨⟨ch, y, rfl⟩, statuses_dropGranted hp hst⟩
      · have hg : ∀ ch y, p.2 ≠ .granted ch y := fun ch y e => hg ⟨ch, y, e⟩
        exact .inr ⟨hg, dropGranted_of_other hg⟩
    refine ih (s := dropGranted c s p) hrest (pools_dropGranted hp (hmap p List.mem_cons_self)) (fun n y z e => ?_)
      (fun q hqm ch y e => ?_) fun n ch y e => ?_
    · rcases hself with ⟨-, hnone⟩ | ⟨-, hsame⟩
      · have hne : n ≠ p.1 := by rintro rfl; rw [hnone] at e; cases e
        rw [hother n hne] at e
        exact hq n y z e
      · rw [hsame] at e; exact hq n y z e
    · rw [hother _ (key q hqm)]
      exact hmap q (List.mem_cons_of_mem _ hqm) ch y e
    · have hne : n ≠ p.1 := by
        rintro rfl
        rcases hself with ⟨-, hnone⟩ | ⟨hg, hsame⟩
        · rw [hnone] at e; cases e
        · rw [hsame] at e
          obtain ⟨-, ch', y', hl'⟩ := hall _ _ _ e
          simp only [tget, if_true, Option.some.injEq] at hl'
          exact hg _ _ hl'
      rw [hother n hne] at e
      obtain ⟨hm, ch', y', hl'⟩ := hall n ch y e
      refine ⟨?_, ch', y', ?_⟩
      · rcases List.mem_cons.1 hm with h | h
        · exact absurd h hne
        · exact h
      · obtain ⟨k, v⟩ := p
        simpa [tget, hne] using hl'

theorem statuses_of_call {x : Call} (hx : tget s.calls c = some x) (n : Nat) : statuses s n c = tget x.map n := by
  simp [statuses, callStatus, hx]

/-- The state in which call c has dropped its queue entries and its channels, for the entries m of its map (R144). -/
def placesDropped (s : State) (c : Nat) (m : Table CallStatus) : State := m.foldl (dropGranted c) (m.foldl (dropQueued c) s)

theorem steady_placesDropped (s : State) (c : Nat) (m : Table CallStatus) : Steady s (placesDropped s c m) :=
  (steady_foldl _ (steady_dropQueued c) _ s).trans (steady_foldl _ (steady_dropGranted c) _ _)

theorem callFrame_placesDropped (s : State) (c : Nat) (m : Table CallStatus) : CallFrame s (placesDropped s c m) :=
  (callFrame_foldl _ (callFrame_dropQueued c) _ s).trans (callFrame_foldl _ (callFrame_dropGranted c) _ _)

theorem endCall_eq {x : Call} (hx : tget s.calls c = some x) :
    endCall s c = { modGroup (placesDropped s c x.map) x.group (fun g => { g with activeCall := none }) with
      calls := tdel (placesDropped s c x.map).calls c } := by
  simp only [endCall, hx]; rfl

theorem endCall_of_none (hx : tget s.calls c = none) : endCall s c = s := by simp only [endCall, hx]

/-- The statuses once a call has left the Call Table. -/
theorem statuses_delCall {t u : State} (ha : Ascending t.calls) (hu : u.calls = tdel t.calls c) (n : Nat) :
    statuses u n = Function.update (statuses t n) c none := by
  funext d
  simp only [statuses, callStatus, hu]
  by_cases hd : d = c
  · subst hd
    rw [Function.update_self, tget_tdel_self _ _ ha]
  · rw [Function.update_of_ne hd, tget_tdel_ne _ hd]
    rfl

theorem pools_endCall (hp : Pools s) (ha : Ascending s.calls) : Pools (endCall s c) := by
  cases hx : tget s.calls c with
  | none => rw [endCall_of_none hx]; exact hp
  | some x =>
    have hmap : Ascending x.map := hp.maps.of_tget hx
    have hst := statuses_of_call hx
    obtain ⟨hp1, hq1, hg1⟩ := foldl_dropQueued (s := s) (c := c) x.map hmap hp
      (fun p hp => by rw [hst, tget_of_mem hmap hp])
      (fun n y z e => (mem_tkeys_iff hmap n).2 ⟨_, by rw [← hst]; exact e⟩)
    obtain ⟨hp2, hidle⟩ := foldl_dropGranted (c := c) x.map hmap hp1 hq1
      (fun p hpm ch y e => by rw [e, hg1, hst, tget_of_mem hmap hpm, e])
      (fun n ch y e => by
        rw [hg1, hst] at e
        exact ⟨(mem_tkeys_iff hmap n).2 ⟨_, e⟩, ch, y, e⟩)
    have ha2 : Ascending (placesDropped s c x.map).calls := (steady_placesDropped s c x.map).calls ha
    change Pools (placesDropped s c x.map) at hp2
    change ∀ n, idle (statuses (placesDropped s c x.map) n c) at hidle
    rw [endCall_eq hx]
    refine ⟨fun p hpm => hp2.maps p (mem_tdel hpm), fun n v q he => ?_⟩
    rw [statuses_delCall ha2 rfl]
    exact (hp2.pools n v q he).stay_idle (hidle n) (.inl rfl)

theorem table_endCall (h : CallTable s) : CallTable (endCall s c) := by
  cases hx : tget s.calls c with
  | none => rw [endCall_of_none hx]; exact h
  | some x =>
    have hframe := callFrame_placesDropped s c x.map
    have ha := (steady_placesDropped s c x.map).calls h.calls
    have ht : CallTable (placesDropped s c x.map) := hframe.table ha h
    obtain ⟨gx, hgx, hga⟩ := h.active hx
    rw [endCall_eq hx]
    generalize placesDropped s c x.map = t at hframe ha ht
    have hgroup : ∀ g, tget (tmod t.groups x.group fun g => { g with activeCall := none }) g =
        if g = x.group then (tget t.groups g).map fun g => { g with activeCall := none } else tget t.groups g :=
      fun g => tget_tmod _ _ _ _
    have hgt : tget t.groups x.group = some gx := by rw [hframe.groups]; exact hgx
    have stays : ∀ {d y}, tget (tdel t.calls c) d = some y → d ≠ c ∧ tget t.calls d = some y := by
      intro d y hy
      have hd : d ≠ c := by rintro rfl; rw [tget_tdel_self _ _ ha] at hy; cases hy
      exact ⟨hd, by rwa [tget_tdel_ne _ hd] at hy⟩
    refine ⟨ascending_tdel _ _ ha, ascending_tmod _ _ _ ht.groups, fun hy => ht.ident (stays hy).2, fun {d y} hy => ?_,
      fun {g w d} hw e => ?_⟩
    · obtain ⟨hd, hy⟩ := stays hy
      obtain ⟨w, hw, hwa⟩ := ht.active hy
      have hne : y.group ≠ x.group := by
        intro he
        rw [he, hgt] at hw
        cases hw
        rw [hga] at hwa
        exact hd (Option.some.inj hwa).symm
      exact ⟨w, (tget_tmod_ne _ _ hne).trans hw, hwa⟩
    · change tget (tmod t.groups x.group _) g = some w at hw
      rw [hgroup] at hw
      split at hw
      · rename_i hg; subst hg
        rw [hgt] at hw
        cases hw
        cases e
      · rename_i hg
        obtain ⟨y, hy, hyg⟩ := ht.call hw e
        have hd : d ≠ c := by
          rintro rfl
          obtain ⟨z, hz, hzg⟩ := hframe.has_call hx
          rw [hy] at hz
          cases hz
          exact hg (hyg.symm.trans hzg)
        exact ⟨y, (tget_tdel_ne _ hd).trans hy, hyg⟩

end

/-! ### The creation of a call (R128, R131) -/

/-- While an identifier is free, the lowest one is found. -/
theorem lowestFreeCall_spec {s : State} (h : ∃ c, 1 ≤ c ∧ c ≤ 32 ∧ tget s.calls c = none) :
    1 ≤ lowestFreeCall s ∧ lowestFreeCall s ≤ 32 ∧ tget s.calls (lowestFreeCall s) = none ∧
      ∀ k, 1 ≤ k → k < lowestFreeCall s → tget s.calls k ≠ none := by
  obtain ⟨c, h1, h32, hc⟩ := h
  unfold lowestFreeCall Config.maxCalls
  match hf : ((List.range 32).map (· + 1)).find? fun c => (tget s.calls c).isNone with
  | none =>
    have := List.find?_eq_none.1 hf c (List.mem_map.2 ⟨c - 1, List.mem_range.2 (by omega), by omega⟩)
    simp [hc] at this
  | some k =>
    obtain ⟨hk, l1, l2, hsplit, hbefore⟩ := List.find?_eq_some_iff_append.1 hf
    have hmem := List.mem_of_find?_eq_some hf
    simp only [List.mem_map, List.mem_range] at hmem
    obtain ⟨j, hj, rfl⟩ := hmem
    refine ⟨by simp, hj, by simpa using hk, fun i hi1 hik => ?_⟩
    rw [Option.getD_some] at hik
    have hlen : l1.length = j := by
      have h1 : ((List.range 32).map (· + 1))[l1.length]? = some (j + 1) := by
        rw [hsplit, List.getElem?_append_right (Nat.le_refl _)]; simp
      simp only [List.getElem?_map, Option.map_eq_some_iff, List.getElem?_eq_some_iff] at h1
      obtain ⟨a, ⟨_, ha⟩, he⟩ := h1
      simp only [List.getElem_range] at ha
      omega
    have hin : i ∈ l1 := by
      have h2 : ((List.range 32).map (· + 1))[i - 1]? = some i := by
        simp only [List.getElem?_map, Option.map_eq_some_iff]
        exact ⟨i - 1, by rw [List.getElem?_range (by omega)], by omega⟩
      rw [hsplit, List.getElem?_append_left (by omega)] at h2
      exact List.mem_of_getElem? h2
    have := hbefore i hin
    simpa [Option.isSome_iff_ne_none] using this

/-- Fewer than 32 calls leave an identifier free. -/
theorem exists_free_call {s : State} (h : s.calls.length < 32) :
    ∃ c, 1 ≤ c ∧ c ≤ 32 ∧ tget s.calls c = none := by
  by_contra hno
  have hall : (List.range 32).map (· + 1) ⊆ tkeys s.calls := by
    intro c hc
    obtain ⟨j, hj, rfl⟩ := List.mem_map.1 hc
    rw [List.mem_range] at hj
    cases hx : tget s.calls (j + 1) with
    | none => exact absurd ⟨j + 1, by omega, by omega, hx⟩ hno
    | some x => exact List.mem_map_of_mem (mem_of_tget hx)
  have hnd : ((List.range 32).map (· + 1)).Nodup := by decide
  have := (List.subperm_of_subset hnd hall).length_le
  simp only [List.length_map, List.length_range, tkeys] at this
  omega

/-- The state in which a call has entered the Call Table and its group holds it, before it is arbitrated (R131). -/
def callEntered (s : State) (c g : Nat) (y : Call) : State :=
  modGroup { s with calls := tput s.calls c y } g fun x => { x with activeCall := some c }

section
variable {s : State} {c g : Nat} {y : Call}

theorem table_callEntered (h : CallTable s) (h1 : 1 ≤ c) (h32 : c ≤ 32) (hc : tget s.calls c = none) (hy : y.group = g)
    {x : Group} (hg : tget s.groups g = some x) (hx : x.activeCall = none) : CallTable (callEntered s c g y) := by
  have hcalls : ∀ d, tget (callEntered s c g y).calls d = if d = c then some y else tget s.calls d := fun d => tget_tput _ _ _ _
  have hgroups : ∀ k, tget (callEntered s c g y).groups k =
      if k = g then (tget s.groups k).map fun x => { x with activeCall := some c } else tget s.groups k := fun k => tget_tmod _ _ _ _
  refine ⟨ascending_tput _ _ _ h.calls, ascending_tmod _ _ _ h.groups, fun {d w} hd => ?_, fun {d w} hd => ?_,
    fun {k w d} hk e => ?_⟩
  · rw [hcalls] at hd
    split at hd
    · rename_i he; subst he; exact ⟨h1, h32⟩
    · exact h.ident hd
  · rw [hcalls] at hd
    split at hd
    · rename_i he; subst he
      cases hd
      exact ⟨{ x with activeCall := some d }, by rw [hy, hgroups, if_pos rfl, hg]; rfl, rfl⟩
    · obtain ⟨z, hz, hza⟩ := h.active hd
      have hne : w.group ≠ g := by
        intro he
        rw [he, hg] at hz
        cases hz
        rw [hx] at hza
        cases hza
      exact ⟨z, by rw [hgroups, if_neg hne]; exact hz, hza⟩
  · rw [hgroups] at hk
    split at hk
    · rename_i he; subst he
      rw [hg] at hk
      cases hk
      cases e
      exact ⟨y, by rw [hcalls, if_pos rfl], hy⟩
    · obtain ⟨z, hz, hzg⟩ := h.call hk e
      have hd : d ≠ c := by rintro rfl; rw [hc] at hz; cases hz
      exact ⟨z, by rw [hcalls, if_neg hd]; exact hz, hzg⟩

theorem statuses_callEntered (hc : tget s.calls c = none) (hy : y.map = []) (n : Nat) :
    statuses (callEntered s c g y) n = statuses s n := by
  funext d
  have hcalls : tget (callEntered s c g y).calls d = if d = c then some y else tget s.calls d := tget_tput _ _ _ _
  simp only [statuses, callStatus, hcalls]
  by_cases hd : d = c
  · subst hd; simp [hy, hc]
  · simp [hd]

theorem pools_callEntered (h : Pools s) (hc : tget s.calls c = none) (hy : y.map = []) : Pools (callEntered s c g y) := by
  refine ⟨?_, fun n v q he => ?_⟩
  · exact (steady_putCall s c y (by rw [hy]; exact ascending_nil)).maps h.maps
  · rw [statuses_callEntered hc hy]
    exact h.pools n v q he

/-- A call without a place at the sites of a list is arbitrated at each. -/
theorem pools_foldl_arbitrate (l : List Nat) (hl : l.Nodup) (h : Pools s) (ha : Ascending s.calls)
    (hc : ∃ y, tget s.calls c = some y) (hi : ∀ n ∈ l, statuses s n c = none) :
    Pools (l.foldl (fun s n => arbitrate s c n) s) := by
  induction l generalizing s with
  | nil => exact h
  | cons n rest ih =>
    obtain ⟨hn, hrest⟩ := List.nodup_cons.1 hl
    obtain ⟨y, hy⟩ := hc
    obtain ⟨y', hy', -⟩ := (callFrame_arbitrate s c n).has_call hy
    refine ih hrest (pools_arbitrate h ha hy (.inl (hi n List.mem_cons_self))) ((steady_arbitrate s c n).calls ha) ⟨y', hy'⟩
      fun m hm => ?_
    rw [(onlyAt_arbitrate s c n).statuses m (by rintro rfl; exact hn hm)]
    exact hi m (List.mem_cons_of_mem _ hm)

end

theorem callFrame_foldl_arbitrate (s : State) (c : Nat) (l : List Nat) : CallFrame s (l.foldl (fun s n => arbitrate s c n) s) :=
  callFrame_foldl _ (fun s n => callFrame_arbitrate s c n) l s

theorem carryWithOrigin_nodup {s : State} (h : Ascending s.sites) (g origin : Nat) : (carryWithOrigin s g origin).Nodup :=
  (h.imp fun hlt => Nat.ne_of_lt hlt).filter _

section
variable {s : State} {origin g u : Nat} {x : Group}

/-- The record of a call that unit u requests from a site for group g (R129, R131). -/
def newCall (s : State) (origin g u : Nat) : Call :=
  { group := g, priority := requestPriority s g u, state := .active, origin := origin, talker := u, map := [], created := s.partTime }

theorem createCall_fst (s : State) (origin g u : Nat) : (createCall s origin g u).1 =
    (carryWithOrigin s g origin).foldl (fun s' n => arbitrate s' (lowestFreeCall s) n)
      (callEntered s (lowestFreeCall s) g (newCall s origin g u)) := rfl

theorem table_createCall (h : CallTable s) (hfree : ∃ c, 1 ≤ c ∧ c ≤ 32 ∧ tget s.calls c = none)
    (hg : tget s.groups g = some x) (hx : x.activeCall = none) : CallTable (createCall s origin g u).1 := by
  obtain ⟨h1, h32, hc, -⟩ := lowestFreeCall_spec hfree
  have hin := table_callEntered (y := newCall s origin g u) h h1 h32 hc rfl hg hx
  rw [createCall_fst]
  exact (callFrame_foldl_arbitrate _ _ _).table ((steady_foldl _ (fun s n => steady_arbitrate s _ n) _ _).calls hin.calls) hin

theorem pools_createCall (h : Pools s) (ha : Ascending s.calls) (hs : Ascending s.sites)
    (hfree : ∃ c, 1 ≤ c ∧ c ≤ 32 ∧ tget s.calls c = none) : Pools (createCall s origin g u).1 := by
  obtain ⟨-, -, hc, -⟩ := lowestFreeCall_spec hfree
  rw [createCall_fst]
  refine pools_foldl_arbitrate _ (carryWithOrigin_nodup hs g origin) (pools_callEntered h hc rfl) (ascending_tput _ _ _ ha)
    ⟨_, tget_tput_self _ _ _⟩ fun n _ => ?_
  rw [statuses_callEntered hc rfl]
  simp [statuses, callStatus, hc]

end

end Sys2Proof.Machine

/-! What the work inside an event leaves, operation by operation: the fields outside the blocks, the bound of the notices, the form of
the tables, the Call Table and the agreement of pools and queues. -/

namespace Sys2Proof.Machine

/-- What the work inside an event keeps: what `Steady` says, the order of the Call Table (R128), and the agreement of pools and queues
with the calls' maps (R134). -/
structure Inner (s t : State) : Prop where
  steady : Steady s t
  table : CallTable s → CallTable t
  pools : CallTable s → Ascending s.sites → Pools s → Pools t

theorem Inner.refl (s : State) : Inner s s := ⟨.refl s, id, fun _ _ h => h⟩

theorem Inner.trans {a b c : State} (h1 : Inner a b) (h2 : Inner b c) : Inner a c :=
  ⟨h1.steady.trans h2.steady, h2.table ∘ h1.table,
    fun ht hs hp => h2.pools (h1.table ht) (h1.steady.sites hs) (h1.pools ht hs hp)⟩

theorem inner_foldl {β : Type} (f : State → β → State) (h : ∀ s x, Inner s (f s x)) (l : List β) (s : State) :
    Inner s (l.foldl f s) := foldl_rel Inner .refl .trans f h l s

/-- A change that touches no call, pool, queue or active call. -/
theorem Inner.of_still {s t : State} (h : Steady s t) (hc : t.calls = s.calls) (hp : ∀ n, poolOf t n = poolOf s n)
    (hg : ∀ g, (tget t.groups g).map Group.activeCall = (tget s.groups g).map Group.activeCall) : Inner s t :=
  ⟨h, fun ht => ht.of_same (h.calls ht.calls) (h.groups ht.groups) (fun k => by rw [hc]) hg,
    fun _ _ hpools => ⟨h.maps hpools.maps, fun n v q he => by
      rw [statuses_congr hc]; exact hpools.pools n v q (by rw [← hp]; exact he)⟩⟩

/-- A change of radio records, the outbound queue, the notices, the Bulk Engine or the tag counter alone. -/
theorem Inner.of_tables {s t : State} (h : Steady s t) (hc : t.calls = s.calls) (hs : t.sites = s.sites) (hg : t.groups = s.groups) :
    Inner s t := .of_still h hc (fun n => poolOf_congr (by rw [hs])) fun g => by rw [hg]

theorem Inner.of_bulk {s t : State} (ho : outer t = outer s) (hn : t.notices = s.notices) (hr : t.radios = s.radios)
    (hs : t.sites = s.sites) (hg : t.groups = s.groups) (hc : t.calls = s.calls) : Inner s t :=
  .of_tables (.of_eq ho hn hr hs hg hc) hc hs hg

theorem inner_ite {s a b : State} {p : Prop} [Decidable p] (ha : Inner s a) (hb : Inner s b) : Inner s (if p then a else b) := by
  split
  · exact ha
  · exact hb

/-! ### Single changes -/

theorem inner_raise (s : State) (b : NoticeBody) : Inner s (raise s b) := .of_tables (steady_raise s b) (by simp) (by simp) (by simp)
theorem inner_putRadio (s : State) (u : Nat) (r : Radio) : Inner s (putRadio s u r) := .of_tables (steady_putRadio s u r) rfl rfl rfl
theorem inner_delRadio (s : State) (u : Nat) : Inner s (delRadio s u) := .of_tables (steady_delRadio s u) rfl rfl rfl
theorem inner_modRadio (s : State) (u : Nat) (f : Radio → Radio) : Inner s (modRadio s u f) :=
  .of_tables (steady_modRadio s u f) rfl rfl rfl
theorem inner_setRecordState (s : State) (u : Nat) (st : RecordState) : Inner s (setRecordState s u st) := inner_modRadio s u _
theorem inner_pushOut (s : State) (f : SiteOut) : Inner s (pushOut s f) := .of_tables (steady_pushOut s f) rfl rfl rfl
theorem inner_setOut (s : State) (k : Nat) (f : SiteOut) : Inner s (setOut s k f) := .of_bulk rfl rfl rfl rfl rfl rfl
theorem inner_setGap (s : State) : Inner s (setGap s) := .of_bulk rfl rfl rfl rfl rfl rfl
theorem inner_modBulk (s : State) (f : BulkRun → BulkRun) : Inner s (modBulk s f) := .of_bulk rfl rfl rfl rfl rfl rfl
theorem inner_setBulk (s : State) (b : Option BulkRun) : Inner s { s with bulk := b } := .of_bulk rfl rfl rfl rfl rfl rfl

theorem inner_modSite (s : State) (n : Nat) (f : Site → Site) (hf : ∀ x, siteValues (f x) = siteValues x ∧ (f x).queue = x.queue) :
    Inner s (modSite s n f) := by
  refine .of_still (steady_modSite s n f fun x => (hf x).1) rfl (fun m => ?_) fun _ => rfl
  simp only [poolOf, modSite_sites, tget_tmod]
  split
  · cases tget s.sites m with
    | none => rfl
    | some x =>
      have hv : (siteValues (f x)).voice = (siteValues x).voice := by rw [(hf x).1]
      change (f x).voice = x.voice at hv
      simp only [Option.map_some, hv, (hf x).2]
  · rfl

theorem inner_modGroup (s : State) (g : Nat) (f : Group → Group) (hf : ∀ x, groupValues (f x) = groupValues x)
    (ha : ∀ x, (f x).activeCall = x.activeCall) (hc : ∀ x, Ascending x.counts → Ascending (f x).counts) :
    Inner s (modGroup s g f) := by
  refine .of_still (steady_modGroup s g f hf hc) rfl (fun _ => rfl) fun k => ?_
  simp only [modGroup_groups, tget_tmod]
  split
  · cases tget s.groups k <;> simp [ha]
  · rfl

/-- A change of a call that leaves its group and its map. -/
theorem inner_modCall (s : State) (c : Nat) (f : Call → Call) (hg : ∀ x, (f x).group = x.group) (hm : ∀ x, (f x).map = x.map) :
    Inner s (modCall s c f) := by
  have hs : Steady s (modCall s c f) := steady_modCall s c f fun x h => by rw [hm]; exact h
  have hcalls : ∀ k, tget (modCall s c f).calls k = if k = c then (tget s.calls k).map f else tget s.calls k :=
    fun k => tget_tmod _ _ _ _
  refine ⟨hs, fun ht => ht.of_same (hs.calls ht.calls) ht.groups (fun k => ?_) fun _ => rfl, fun _ _ hp =>
    ⟨hs.maps hp.maps, fun n v q he => ?_⟩⟩
  · rw [hcalls]
    split
    · cases tget s.calls k <;> simp [hg]
    · rfl
  · have hsame : statuses (modCall s c f) n = statuses s n := by
      funext d
      simp only [statuses, callStatus, hcalls]
      by_cases hd : d = c
      · rw [if_pos hd]
        cases tget s.calls d with
        | none => rfl
        | some x => simp only [Option.map_some, hm]
      · rw [if_neg hd]
    rw [hsame]
    exact hp.pools n v q he

/-! ### The shared operations -/

theorem inner_setSyncLost (s : State) (n : Nat) : Inner s (setSyncLost s n) := by
  rcases setSyncLost_cases s n with h | h <;> rw [h]
  · exact .refl s
  · exact (inner_modSite s n (fun y => { y with syncLost := true }) fun _ => ⟨rfl, rfl⟩).trans (inner_raise _ _)

theorem inner_sendOrdinary (s : State) (n : Nat) (f : SiteOut) : Inner s (sendOrdinary s n f) := by
  rcases sendOrdinary_cases s n f with ⟨-, h⟩ | ⟨-, -, h⟩ | ⟨-, -, ⟨h, -⟩ | ⟨h, -⟩⟩ <;> rw [h]
  · exact .refl s
  · exact inner_pushOut s f
  · exact inner_setSyncLost s n
  · exact (inner_setGap s).trans (inner_setSyncLost _ n)

theorem inner_sendHandover (s : State) (n : Nat) (f : SiteOut) : Inner s (sendHandover s n f) :=
  inner_ite (inner_pushOut s f) (.refl s)

theorem siteValues_clearOver (x : Site) : siteValues (clearOver x) = siteValues x ∧ (clearOver x).queue = x.queue := by
  unfold clearOver; split <;> exact ⟨rfl, rfl⟩

theorem inner_addReg (s : State) (n : Nat) : Inner s (addReg s n) := inner_modSite s n _ fun _ => ⟨rfl, rfl⟩
theorem inner_subReg (s : State) (n : Nat) : Inner s (subReg s n) := inner_modSite s n _ fun _ => siteValues_clearOver _

theorem inner_setOver (s : State) (n : Nat) : Inner s (setOver s n) := by
  rcases setOver_cases s n with h | ⟨b, h⟩ <;> rw [h]
  · exact .refl s
  · exact (inner_modSite s n (fun y => { y with overFlag := true }) fun _ => ⟨rfl, rfl⟩).trans (inner_raise _ _)

theorem ascending_setCount {counts : Table Nat} (n v : Nat) (h : Ascending counts) : Ascending (setCount counts n v) := by
  unfold setCount; split
  · exact ascending_tdel _ _ h
  · exact ascending_tput _ _ _ h

theorem inner_addMember (s : State) (g n : Nat) : Inner s (addMember s g n) :=
  inner_modGroup s g _ (fun _ => rfl) (fun _ => rfl) fun x h => ascending_setCount n ((tget x.counts n).getD 0 + 1) h
theorem inner_subMember (s : State) (g n : Nat) : Inner s (subMember s g n) :=
  inner_modGroup s g _ (fun _ => rfl) (fun _ => rfl) fun x h => ascending_setCount n ((tget x.counts n).getD 0 - 1) h
theorem inner_addTotal (s : State) (g : Nat) : Inner s (addTotal s g) :=
  inner_modGroup s g _ (fun _ => rfl) (fun _ => rfl) fun _ h => h
theorem inner_subTotal (s : State) (g : Nat) : Inner s (subTotal s g) :=
  inner_modGroup s g _ (fun _ => rfl) (fun _ => rfl) fun _ h => h
theorem inner_raiseUnreached (s : State) (g : Nat) : Inner s (raiseUnreached s g) :=
  inner_modGroup s g _ (fun _ => rfl) (fun _ => rfl) fun _ h => h

theorem inner_lowerUnreached (s : State) (g : Nat) : Inner s (lowerUnreached s g) := by
  have hmod : Inner s (modGroup s g fun y => { y with unreached := y.unreached - 1 }) :=
    inner_modGroup s g _ (fun _ => rfl) (fun _ => rfl) fun _ h => h
  unfold lowerUnreached
  split
  · exact inner_ite (hmod.trans (inner_raise _ _)) hmod
  · exact .refl s

theorem inner_addMembers (s : State) (gs : List Nat) (n : Nat) : Inner s (addMembers s gs n) :=
  inner_foldl _ (fun s g => inner_addMember s g n) gs s
theorem inner_subMembers (s : State) (gs : List Nat) (n : Nat) : Inner s (subMembers s gs n) :=
  inner_foldl _ (fun s g => inner_subMember s g n) gs s
theorem inner_addTotals (s : State) (gs : List Nat) : Inner s (addTotals s gs) := inner_foldl _ inner_addTotal gs s
theorem inner_subTotals (s : State) (gs : List Nat) : Inner s (subTotals s gs) := inner_foldl _ inner_subTotal gs s

theorem inner_clearFlags (s : State) (u : Nat) : Inner s (clearFlags s u) := by
  unfold clearFlags
  split
  · exact (inner_modRadio s u _).trans (inner_foldl _ inner_lowerUnreached _ _)
  · exact .refl s

theorem inner_freeRecord (s : State) (u : Nat) : Inner s (freeRecord s u) := (inner_clearFlags s u).trans (inner_delRadio _ u)

/-! ### Calls -/

/-- Late entry of a call that the Call Table holds. -/
theorem inner_lateEntry (s : State) (c n : Nat) (hc : CallTable s → ∃ y, tget s.calls c = some y) : Inner s (lateEntry s c n) := by
  refine ⟨steady_lateEntry s c n, fun ht => (callFrame_lateEntry s c n).table ((steady_lateEntry s c n).calls ht.calls) ht,
    fun ht _ hp => ?_⟩
  unfold lateEntry
  split
  · rename_i h
    obtain ⟨y, hy⟩ := hc ht
    have hnone : callStatus s c n = none := by simpa using (Bool.and_eq_true_iff.1 h).2
    exact pools_arbitrate hp ht.calls hy (.inl hnone)
  · exact hp

theorem inner_passToCalls (s : State) (p : Nat × Nat) : Inner s (passToCalls s p) := by
  unfold passToCalls
  split
  · rename_i x hx
    split
    · rename_i c hc
      exact inner_lateEntry s c p.2 fun ht => let ⟨y, hy, _⟩ := ht.call hx hc; ⟨y, hy⟩
    · exact .refl s
  · exact .refl s

theorem inner_passAll (s : State) (ps : List (Nat × Nat)) : Inner s (passAll s ps) := inner_foldl _ inner_passToCalls ps s

theorem inner_endCall (s : State) (c : Nat) : Inner s (endCall s c) :=
  ⟨steady_endCall s c, table_endCall, fun ht _ hp => pools_endCall hp ht.calls⟩

theorem inner_joinCall (s : State) (c origin u : Nat) (hc : CallTable s → ∃ y, tget s.calls c = some y) :
    Inner s (joinCall s c origin u) := by
  unfold joinCall
  have h1 := inner_modCall s c (fun x => { x with
      talker := u, origin := origin, state := .active,
      priority := (if unitInEmergency s u then .emergency else x.priority) }) (fun _ => rfl) fun _ => rfl
  refine ⟨h1.steady.trans (steady_lateEntry _ _ _), fun ht => (callFrame_lateEntry _ c origin).table
    ((steady_lateEntry _ c origin).calls (h1.table ht).calls) (h1.table ht), fun ht hs hp => ?_⟩
  obtain ⟨y, hy⟩ := hc ht
  exact (inner_lateEntry _ c origin fun _ => ⟨_, by simp only [modCall_calls, tget_tmod_self, hy]; rfl⟩).pools
    (h1.table ht) (h1.steady.sites hs) (h1.pools ht hs hp)

theorem inner_createCall (s : State) (origin g u : Nat) (hg : CallTable s → ∃ x, tget s.groups g = some x ∧ x.activeCall = none)
    (hfree : CallTable s → ∃ c, 1 ≤ c ∧ c ≤ 32 ∧ tget s.calls c = none) : Inner s (createCall s origin g u).1 :=
  ⟨steady_createCall s origin g u, fun ht => let ⟨_, hx, ha⟩ := hg ht; table_createCall ht (hfree ht) hx ha,
    fun ht hs hp => pools_createCall hp ht.calls hs (hfree ht)⟩

theorem mem_endables {s : State} {e : Endable} (ha : Ascending s.calls) (h : e ∈ endables s) :
    ∃ y, tget s.calls e.call = some y ∧ y.priority ≠ .emergency ∧ e.priority = y.priority ∧ e.created = y.created := by
  simp only [endables, List.mem_filterMap] at h
  obtain ⟨⟨k, y⟩, hy, he⟩ := h
  split at he
  · cases he
  · rename_i hpr
    cases he
    exact ⟨y, tget_of_mem ha hy, hpr, rfl, rfl⟩

/-- The end of a call gives no group an active call. -/
theorem endCall_activeCall_none {s : State} {c g : Nat} {x : Group} (hg : tget s.groups g = some x) (hx : x.activeCall = none) :
    ∃ x', tget (endCall s c).groups g = some x' ∧ x'.activeCall = none := by
  cases hc : tget s.calls c with
  | none => rw [endCall_of_none hc]; exact ⟨x, hg, hx⟩
  | some y =>
    obtain ⟨t, hframe, -, e⟩ := endCall_of_some hc
    have : tget (endCall s c).groups g = tget (tmod t.groups y.group fun g => { g with activeCall := none }) g := by rw [e]
    rw [this, tget_tmod, hframe.groups, hg]
    split
    · exact ⟨_, rfl, rfl⟩
    · exact ⟨x, rfl, hx⟩

/-- Table exhaustion (R133): a call is ended, and the request's call is created with the identifier so freed, or a lower one. -/
theorem inner_createCall_ended (s : State) (e : Endable) (he : e ∈ endables s) (b : NoticeBody) (origin g u : Nat) {x : Group}
    (hg : tget s.groups g = some x) (hx : x.activeCall = none) :
    Inner s (createCall (raise (endCall s e.call) b) origin g u).1 := by
  have hend : Inner s (raise (endCall s e.call) b) := (inner_endCall s e.call).trans (inner_raise _ _)
  have hgroup : ∃ x', tget (raise (endCall s e.call) b).groups g = some x' ∧ x'.activeCall = none := by
    rw [raise_groups]; exact endCall_activeCall_none hg hx
  have hcreate : CallTable s → Inner (raise (endCall s e.call) b) (createCall (raise (endCall s e.call) b) origin g u).1 := by
    intro ht
    obtain ⟨y, hy, -⟩ := mem_endables ht.calls he
    refine inner_createCall _ origin g u (fun _ => hgroup) fun _ => ⟨e.call, (ht.ident hy).1, (ht.ident hy).2, ?_⟩
    rw [raise_calls]
    exact endCall_removes hy ht.calls
  exact ⟨hend.steady.trans (steady_createCall _ origin g u), fun ht => (hcreate ht).table (hend.table ht),
    fun ht hs hp => (hcreate ht).pools (hend.table ht) (hend.steady.sites hs) (hend.pools ht hs hp)⟩

theorem inner_dealCallRequest (s : State) (origin g u : Nat) {x : Group} (hg : tget s.groups g = some x) :
    Inner s (dealCallRequest s origin g u).1 := by
  unfold dealCallRequest
  split
  · rename_i c hc
    rw [hg, Option.bind_some] at hc
    exact inner_joinCall s c origin u fun ht => let ⟨y, hy, _⟩ := ht.call hg hc; ⟨y, hy⟩
  · rename_i hc
    rw [hg, Option.bind_some] at hc
    split
    · rename_i hlt
      exact inner_createCall s origin g u (fun _ => ⟨x, hg, hc⟩) fun _ => exists_free_call hlt
    · split
      · split
        · rename_i e he
          exact inner_createCall_ended s e (bestOf_mem he) _ origin g u hg hc
        · exact .refl s
      · exact .refl s

/-- A darkened site's calls (R94): no status is left there, and the queue is empty. -/
theorem inner_loseSiteCalls (s : State) (n : Nat) : Inner s (loseSiteCalls s n) := by
  let kept : State := { s with calls := s.calls.map fun (p : Nat × Call) => (p.1, { p.2 with map := tdel p.2.map n }) }
  have hcalls : ∀ k, tget kept.calls k = (tget s.calls k).map fun x => { x with map := tdel x.map n } :=
    fun k => tget_map s.calls (fun x => { x with map := tdel x.map n }) k
  have hasc : Ascending s.calls → Ascending kept.calls := ascending_map s.calls fun x => { x with map := tdel x.map n }
  have hkept : Steady s kept := by
    refine ⟨rfl, id, id, id, id, hasc, fun h p hp => ?_, id, fun _ => rfl, fun _ => rfl⟩
    obtain ⟨q, hq, rfl⟩ := List.mem_map.1 hp
    exact ascending_tdel _ _ (h q hq)
  have hsite : Steady kept (loseSiteCalls s n) := steady_modSite kept n (fun x => { x with queue := [] }) fun _ => rfl
  have hst : ∀ m c, statuses (loseSiteCalls s n) m c = (tget s.calls c).bind fun x => tget (tdel x.map n) m := by
    intro m c
    have : tget (loseSiteCalls s n).calls c = (tget s.calls c).map fun x => { x with map := tdel x.map n } := hcalls c
    simp only [statuses, callStatus, this]
    cases tget s.calls c <;> rfl
  refine ⟨hkept.trans hsite, fun ht => ht.of_same (hasc ht.calls) ht.groups (fun k => ?_) fun _ => rfl,
    fun _ _ hp => ⟨(hkept.trans hsite).maps hp.maps, fun m v q he => ?_⟩⟩
  · have : tget (loseSiteCalls s n).calls k = (tget s.calls k).map fun x => { x with map := tdel x.map n } := hcalls k
    rw [this]
    cases tget s.calls k <;> rfl
  · by_cases hm : m = n
    · subst hm
      have hnone : ∀ c, statuses (loseSiteCalls s m) m c = none := by
        intro c
        rw [hst]
        cases hx : tget s.calls c with
        | none => rfl
        | some x => exact tget_tdel_self _ _ (hp.maps.of_tget hx)
      have hq : q = [] := by
        change poolOf (modSite kept m fun x => { x with queue := [] }) m = _ at he
        rw [poolOf_modQueue_self kept m fun _ => []] at he
        obtain ⟨p, -, e⟩ := Option.map_eq_some_iff.1 he
        exact (Prod.mk.inj e).2.symm
      subst hq
      refine ⟨fun h => ?_, fun h => ?_, List.nodup_nil, by simp, fun c => ?_, fun h => absurd rfl h⟩
      · rw [hnone] at h; cases h
      · rw [hnone] at h; cases h
      · rw [hnone]; simp
    · have hsame : statuses (loseSiteCalls s n) m = statuses s m := by
        funext c
        rw [hst]
        cases hx : tget s.calls c with
        | none => simp [statuses, callStatus, hx]
        | some x => simp [statuses, callStatus, hx, tget_tdel_ne _ hm]
      rw [hsame]
      have hpool : poolOf (loseSiteCalls s n) m = poolOf s m := poolOf_congr (tget_tmod_ne _ _ hm)
      exact hp.pools m v q (by rw [← hpool]; exact he)

/-- A queue-hold expiry (R138): the call is BUSY-OUT at the site and leaves its queue. -/
theorem inner_queueHold (s : State) (n c : Nat) {y z : Nat} (h : callStatus s c n = some (.queued y z)) :
    Inner s (setStatus (leaveQueue s n c) c n .busyOut) := by
  have hsteady : Steady s (setStatus (leaveQueue s n c) c n .busyOut) := (steady_leaveQueue s n c).trans (steady_setStatus _ _ _ _)
  have hframe : CallFrame s (setStatus (leaveQueue s n c) c n .busyOut) :=
    (callFrame_leaveQueue s n c).trans (callFrame_setStatus _ _ _ _)
  refine ⟨hsteady, fun ht => hframe.table (hsteady.calls ht.calls) ht, fun _ _ hp => ?_⟩
  obtain ⟨x, hx⟩ := call_of_queued (s := s) (n := n) (c := c) h
  refine hp.of_onlyAt ((onlyAt_modSite s n _).trans (onlyAt_setStatus _ c n _)) (hsteady.maps hp.maps) fun v q he => ?_
  change poolOf (leaveQueue s n c) n = _ at he
  rw [poolOf_leaveQueue_self] at he
  obtain ⟨⟨v', q'⟩, hpool, e⟩ := Option.map_eq_some_iff.1 he
  simp only [Prod.mk.injEq] at e
  obtain ⟨rfl, rfl⟩ := e
  rw [statuses_setStatus_self (s := leaveQueue s n c) hx, statuses_congr (s := s) (t := leaveQueue s n c) rfl]
  have hpn := hp.pools n v' q' hpool
  exact hpn.leave ((hpn.queued c).2 ⟨y, z, h⟩) (.inr rfl)

/-! ### Group lists and handovers -/

theorem inner_loseMembership (at_ : List Nat) (s : State) (m : Membership) : Inner s (loseMembership at_ s m) := by
  unfold loseMembership
  have h1 : Inner s (if m.pending then lowerUnreached s m.group else s) := inner_ite (inner_lowerUnreached s m.group) (.refl s)
  have h2 := h1.trans (inner_foldl (fun s n => subMember s m.group n) (fun s n => inner_subMember s m.group n) at_ _)
  exact inner_ite h2 (h2.trans (inner_subTotal _ _))

theorem inner_gainMembership (at_ : List Nat) (s : State) (g : Nat) : Inner s (gainMembership at_ s g) := by
  unfold gainMembership
  have h1 : Inner s (if recallStateOf s g = .active then raiseUnreached s g else s) :=
    inner_ite (inner_raiseUnreached s g) (.refl s)
  have h2 := h1.trans (inner_foldl (fun s n => addMember s g n) (fun s n => inner_addMember s g n) at_ _)
  exact inner_ite h2 (h2.trans (inner_addTotal _ _))

theorem inner_changeGroupList (s : State) (u : Nat) (new : List Nat) : Inner s (changeGroupList s u new) := by
  unfold changeGroupList
  split
  · exact (inner_foldl _ (inner_loseMembership _) _ s).trans ((inner_foldl _ (inner_gainMembership _) _ _).trans
      ((inner_modRadio _ u _).trans (inner_passAll _ _)))
  · exact .refl s

theorem inner_applyReported (s : State) (u : Nat) (l : List Nat) : Inner s (applyReported s u l) := by
  unfold applyReported
  split
  · simp only []
    split
    · exact inner_ite (.refl s) (inner_changeGroupList s u _)
    · exact inner_ite (inner_modRadio s u _) (.refl s)
    · exact inner_ite (.refl s) ((inner_changeGroupList s u _).trans (inner_modRadio _ u _))
  · exact .refl s

theorem inner_startHandover (s : State) (u a lease p t : Nat) : Inner s (startHandover s u a lease p t) := by
  have htag : Inner s { s with tagCounter := nextTag s.tagCounter } := .of_bulk rfl rfl rfl rfl rfl rfl
  exact htag.trans ((inner_setRecordState _ u _).trans ((inner_addReg _ p).trans ((inner_addMembers _ _ p).trans
    ((inner_sendHandover _ p _).trans ((inner_sendHandover _ a _).trans (inner_passAll _ _))))))

theorem inner_removeCounts (s : State) (gs : List Nat) (n : Nat) : Inner s (removeCounts s gs n) :=
  (inner_subReg s n).trans (inner_subMembers _ gs n)

theorem inner_closing (s : State) (p a : Nat) (f g : SiteOut) : Inner s (sendHandover (sendHandover s p f) a g) :=
  (inner_sendHandover s p f).trans (inner_sendHandover _ a g)

theorem inner_commitHandover (s : State) (u a p lease tag : Nat) : Inner s (commitHandover s u a p lease tag) :=
  (inner_closing s p a _ _).trans ((inner_removeCounts _ _ a).trans (inner_modRadio _ u _))

theorem inner_unwindHandover (s : State) (u a p lease tag : Nat) (how : HandoverEnd) :
    Inner s (unwindHandover s u a p lease tag how) :=
  (inner_closing s p a _ _).trans ((inner_removeCounts _ _ p).trans (inner_modRadio _ u _))

theorem inner_abortByLease (s : State) (u a p tag : Nat) : Inner s (abortByLease s u a p tag) :=
  (inner_closing s p a _ _).trans ((inner_removeCounts _ _ p).trans (inner_modRadio _ u _))

theorem inner_leaveCounted (s : State) (u : Nat) (at_ : List Nat) : Inner s (leaveCounted s u at_) := by
  have h := inner_foldl (fun s' n => removeCounts s' (groupsOf s u) n) (fun s' n => inner_removeCounts s' _ n) at_ s
  exact Inner.trans (inner_ite h (h.trans (inner_subTotals _ _))) (inner_clearFlags _ u)

theorem inner_seeFlags (s : State) (u a p lease : Nat) (c : Handover) : Inner s (seeFlags s u a p lease c) :=
  inner_ite (inner_commitHandover _ _ _ _ _ _) (inner_setRecordState _ _ _)

/-! ### Transitions of records and the close of a burst -/

theorem inner_addCounts (s : State) (gs : List Nat) (b : Nat) : Inner s (addCounts s gs b) :=
  (inner_addReg s b).trans ((inner_addMembers _ gs b).trans (inner_passAll _ _))

/-- Whether the count of site b has reached its capacity (R61). -/
def atCapacity (s : State) (b : Nat) : Bool :=
  match tget s.sites b with
  | some x => decide (x.capacity ≤ x.count)
  | none => false

/-- Adoption at the serving site itself only renews the registration (R61). -/
theorem adoptAt_same (s : State) (u b t : Nat) (wasLost : Bool) : adoptAt s u b t (some b) wasLost =
    sendOrdinary (setRecordState s u (.registered b (leaseFrom s t))) b (.adopt b u (groupsOf s u)) := by
  simp only [adoptAt, if_true]

/-- The counts of an adoption of a record that was counted nowhere (R61). -/
def adoptedNew (s : State) (u b t : Nat) : State :=
  addCounts (addTotals (setRecordState s u (.registered b (leaseFrom s t))) (groupsOf s u)) (groupsOf s u) b

/-- The counts of an adoption that leaves the site a (R61). -/
def adoptedFrom (s : State) (u a b t : Nat) : State :=
  addCounts (removeCounts (setRecordState s u (.registered b (leaseFrom s t))) (groupsOf s u) a) (groupsOf s u) b

/-- The over flag of an adoption that finds its site at capacity, judged by the counts before it (R61, R98). -/
def markOver (s s' : State) (b : Nat) : State := if atCapacity s b then setOver s' b else s'

theorem adoptAt_new (s : State) (u b t : Nat) (wasLost : Bool) : adoptAt s u b t none wasLost =
    if wasLost then raise (sendOrdinary (markOver s (adoptedNew s u b t) b) b (.adopt b u (groupsOf s u))) (.found u b)
    else sendOrdinary (markOver s (adoptedNew s u b t) b) b (.adopt b u (groupsOf s u)) := by
  simp only [adoptAt, reduceCtorEq, if_false]
  rfl

theorem adoptAt_from (s : State) (u b t : Nat) {a : Nat} (h : a ≠ b) (wasLost : Bool) : adoptAt s u b t (some a) wasLost =
    if wasLost then raise (sendOrdinary (sendOrdinary (markOver s (adoptedFrom s u a b t) b) a (.drop a u)) b
      (.adopt b u (groupsOf s u))) (.found u b)
    else sendOrdinary (sendOrdinary (markOver s (adoptedFrom s u a b t) b) a (.drop a u)) b (.adopt b u (groupsOf s u)) := by
  simp only [adoptAt, Option.some.injEq, if_neg h]
  rfl

theorem inner_markOver (s s' : State) (b : Nat) : Inner s' (markOver s s' b) := inner_ite (inner_setOver s' b) (.refl s')

theorem inner_adoptedNew (s : State) (u b t : Nat) : Inner s (adoptedNew s u b t) :=
  (inner_setRecordState s u _).trans ((inner_addTotals _ _).trans (inner_addCounts _ _ b))

theorem inner_adoptedFrom (s : State) (u a b t : Nat) : Inner s (adoptedFrom s u a b t) :=
  (inner_setRecordState s u _).trans ((inner_removeCounts _ _ a).trans (inner_addCounts _ _ b))

theorem inner_adoptAt (s : State) (u b t : Nat) (from_ : Option Nat) (wasLost : Bool) : Inner s (adoptAt s u b t from_ wasLost) := by
  cases from_ with
  | none =>
    rw [adoptAt_new]
    have h := (inner_adoptedNew s u b t).trans ((inner_markOver s _ b).trans (inner_sendOrdinary _ b (.adopt b u (groupsOf s u))))
    exact inner_ite (h.trans (inner_raise _ _)) h
  | some a =>
    by_cases ha : a = b
    · subst ha
      rw [adoptAt_same]
      exact (inner_setRecordState s u _).trans (inner_sendOrdinary _ a _)
    · rw [adoptAt_from s u b t ha]
      have h := (inner_adoptedFrom s u a b t).trans ((inner_markOver s _ b).trans ((inner_sendOrdinary _ a (.drop a u)).trans
        (inner_sendOrdinary _ b (.adopt b u (groupsOf s u)))))
      exact inner_ite (h.trans (inner_raise _ _)) h

theorem inner_activateEmergency (s : State) (u t site : Nat) : Inner s (activateEmergency s u t site) := by
  unfold activateEmergency
  split
  · exact inner_ite (.refl s) ((inner_modRadio s u _).trans (inner_raise _ _))
  · exact .refl s

theorem inner_renewLease (s : State) (u t : Nat) : Inner s (renewLease s u t) := inner_modRadio s u _

theorem inner_selectSite (s : State) (u t : Nat) (inSet : List Nat) : Inner s (selectSite s u t inSet) := by
  unfold selectSite
  split
  · split
    · split
      · exact inner_startHandover _ _ _ _ _ _
      · exact .refl s
    · exact .refl s
    · split
      · exact inner_adoptAt _ _ _ _ _ _
      · exact inner_ite (.refl s) (inner_freeRecord s u)
    · split
      · exact inner_adoptAt _ _ _ _ _ _
      · exact .refl s
    · split
      · exact inner_adoptAt _ _ _ _ _ _
      · exact .refl s
    · exact .refl s
  · exact .refl s

theorem inner_repeatAdopt (s : State) (u : Nat) : Inner s (repeatAdopt s u) := by
  unfold repeatAdopt
  split
  · split
    · exact inner_sendOrdinary _ _ _
    · exact .refl s
  · exact .refl s

theorem inner_closeWork (s : State) (u t : Nat) (b : Burst) : Inner s (closeWork s u t b) := by
  unfold closeWork
  have reported : ∀ s1 : State, Inner s1 (match b.reported with
      | some l => applyReported s1 u l
      | none => s1) := by
    intro s1
    cases b.reported with
    | some l => exact inner_applyReported _ _ _
    | none => exact .refl _
  have emergency : ∀ s2 : State, Inner s2 (match b.emergency with
      | some site => activateEmergency s2 u t site
      | none => s2) := by
    intro s2
    cases b.emergency with
    | some site => exact inner_activateEmergency _ _ _ _
    | none => exact .refl _
  have h4 := (inner_renewLease s u t).trans ((reported _).trans ((emergency _).trans (inner_selectSite _ u t b.sites)))
  exact (h4.trans (inner_ite (inner_repeatAdopt _ u) (.refl _))).trans (inner_modRadio _ u _)

theorem inner_closeBurst (s : State) (u t : Nat) : Inner s (closeBurst s u t) := by
  unfold closeBurst
  split
  · exact inner_closeWork _ _ _ _
  · exact .refl s

theorem inner_toLost (s : State) (u a : Nat) : Inner s (toLost s u a) :=
  (inner_sendOrdinary s a _).trans ((inner_removeCounts _ _ a).trans ((inner_subTotals _ _).trans
    ((inner_setRecordState _ u _).trans (inner_raise _ _))))

theorem inner_deregister (s : State) (u : Nat) : Inner s (deregister s u) := by
  unfold deregister
  split
  · split
    · exact (inner_setRecordState _ u _).trans (inner_leaveCounted _ _ _)
    · exact (inner_setRecordState _ u _).trans (inner_leaveCounted _ _ _)
    · exact (inner_closing s _ _ _ _).trans ((inner_modRadio _ u _).trans (inner_leaveCounted _ _ _))
    · exact (inner_setRecordState _ u _).trans (inner_leaveCounted _ _ _)
    · exact .refl s
    · exact .refl s
  · exact .refl s

theorem inner_forceRelease (s : State) (u : Nat) : Inner s (forceRelease s u) := by
  unfold forceRelease
  have h0 : Inner s (modRadio s u fun r => { r with emergency := none, burst := none }) := inner_modRadio s u _
  split
  · split
    · exact h0.trans (inner_freeRecord _ u)
    · exact h0.trans ((inner_setRecordState _ u _).trans ((inner_sendOrdinary _ _ _).trans (inner_leaveCounted _ _ _)))
    · exact h0.trans ((inner_setRecordState _ u _).trans ((inner_sendOrdinary _ _ _).trans (inner_leaveCounted _ _ _)))
    · exact h0.trans ((inner_sendHandover _ _ _).trans ((inner_modRadio _ u _).trans
        ((inner_sendOrdinary _ _ _).trans (inner_leaveCounted _ _ _))))
    · exact h0.trans ((inner_setRecordState _ u _).trans (inner_leaveCounted _ _ _))
    · exact h0
  · exact .refl s

/-! ### Copies and receipts -/

theorem inner_createRecord (s : State) (c : Copy) : Inner s (createRecord s c).1 := by
  unfold createRecord
  split
  · exact inner_putRadio _ _ _
  · split
    · exact (inner_freeRecord s _).trans (inner_putRadio _ _ _)
    · exact .refl s

theorem inner_copyAbsent (s : State) (c : Copy) : Inner s (copyAbsent s c).1 := by
  unfold copyAbsent
  split
  · exact inner_createRecord s c
  · exact .refl s

theorem inner_copyRetired (s : State) (c : Copy) (rec : Radio) : Inner s (copyRetired s c rec).1 := by
  unfold copyRetired
  split
  · split
    · exact inner_putRadio _ _ _
    · split <;> exact .refl s
  · exact .refl s

theorem inner_copyOpen (s : State) (c : Copy) (b : Burst) : Inner s (copyOpen s c b).1 := by
  unfold copyOpen
  split
  · exact .refl s
  · exact inner_modRadio _ _ _

theorem inner_copyClosed (s : State) (c : Copy) (rec : Radio) : Inner s (copyClosed s c rec).1 := by
  unfold copyClosed
  split
  · split
    · exact inner_ite ((inner_modRadio s _ _).trans (inner_activateEmergency _ _ _ _)) (inner_modRadio s _ _)
    · exact .refl s
  · exact .refl s

theorem inner_copyNewer (s : State) (c : Copy) : Inner s (copyNewer s c).1 := by
  unfold copyNewer
  simp only []
  split
  · exact (inner_closeBurst s _ _).trans (inner_modRadio _ _ _)
  · exact (inner_closeBurst s _ _).trans (inner_copyAbsent _ c)

theorem inner_takeCopy (s : State) (c : Copy) : Inner s (takeCopy s c).1 := by
  unfold takeCopy
  split
  · exact .refl s
  · split
    · exact inner_copyAbsent s c
    · split
      · exact inner_copyRetired s c _
      · split
        · exact inner_copyNewer s c
        · exact .refl s
        · split
          · exact inner_copyOpen s c _
          · exact inner_copyClosed s c _

theorem inner_deregNewer (s : State) (u seq : Nat) : Inner s (deregNewer s u seq).1 := by
  unfold deregNewer
  simp only []
  split
  · have h := (inner_closeBurst s u s.partTime).trans (inner_modRadio _ u fun r => { r with lastSeq := seq })
    split
    · exact h
    · exact h.trans (inner_deregister _ u)
  · exact inner_closeBurst s u _

theorem inner_takeDereg (s : State) (u seq : Nat) : Inner s (takeDereg s u seq).1 := by
  unfold takeDereg
  split
  · exact .refl s
  · split
    · exact .refl s
    · split
      · exact inner_deregNewer s u seq
      · exact .refl s
      · exact .refl s

theorem inner_withAnswer (s : State) (f : SiteOut) (act : State → State × SiteOut) (h : ∀ s0, Inner s0 (act s0).1) :
    Inner s (withAnswer s f act) := (inner_pushOut s f).trans ((h _).trans (inner_setOut _ _ _))

theorem inner_formReceipt (s : State) (site unit seq : Nat) (code : ReceiptCode) (carries : Bool) (reported : Option (List Nat)) :
    Inner s (formReceipt s site unit seq code carries reported).1 := by
  unfold formReceipt
  split
  · exact inner_clearFlags s unit
  · exact .refl s

theorem inner_takeReport (s : State) (c : Copy) : Inner s (takeReport s c) := by
  refine inner_withAnswer s _ _ fun s0 => ?_
  split
  · exact .refl s0
  · exact (inner_takeCopy s0 c).trans (inner_formReceipt _ _ _ _ _ _ _)

theorem inner_takeDeregReport (s : State) (site u seq : Nat) : Inner s (takeDeregReport s site u seq) := by
  refine inner_withAnswer s _ _ fun s0 => ?_
  split
  · exact .refl s0
  · exact (inner_takeDereg s0 u seq).trans (inner_formReceipt _ _ _ _ _ _ _)

/-! ### Site events -/

theorem inner_darkenRecord (n : Nat) (s : State) (u : Nat) : Inner s (darkenRecord n s u) := by
  unfold darkenRecord
  split
  · split
    · exact inner_ite (inner_setRecordState _ _ _) (.refl s)
    · exact inner_ite (inner_seeFlags _ _ _ _ _ _) (inner_ite (inner_unwindHandover _ _ _ _ _ _ _) (.refl s))
    · exact .refl s
  · exact .refl s

theorem inner_goDark (s : State) (n : Nat) (failing : Bool) : Inner s (goDark s n failing) :=
  (inner_modSite s n (fun x => { x with state := .dark }) fun _ => ⟨rfl, rfl⟩).trans
    ((inner_foldl _ (inner_darkenRecord n) _ _).trans ((inner_loseSiteCalls _ n).trans (inner_raise _ _)))

theorem inner_restoreRecord (n : Nat) (s : State) (u : Nat) : Inner s (restoreRecord n s u) := by
  unfold restoreRecord
  split
  · exact inner_ite ((inner_setRecordState _ _ _).trans (inner_sendOrdinary _ _ _)) (.refl s)
  · exact .refl s

theorem inner_comeUp (s : State) (n : Nat) (degraded wasDark : Bool) : Inner s (comeUp s n degraded wasDark) := by
  have h1 : Inner s (modSite s n fun x => { x with state := workingState degraded (heartbeatFrom s) }) :=
    inner_modSite s n _ fun _ => ⟨rfl, rfl⟩
  exact h1.trans ((inner_ite (inner_foldl _ (inner_restoreRecord n) _ _) (.refl _)).trans (inner_raise _ _))

theorem inner_statusActs (s : State) (n : Nat) (st : SiteState) (c : Condition) : Inner s (statusActs s n st c) := by
  unfold statusActs
  split
  case h_1 | h_2 => exact .refl s
  case h_3 | h_4 => exact inner_goDark s n true
  case h_5 | h_6 | h_9 | h_10 => exact inner_comeUp s n _ _
  case h_7 | h_8 | h_11 | h_12 => exact inner_modSite s n _ fun _ => ⟨rfl, rfl⟩

theorem inner_takeStatus (s : State) (n condition : Nat) : Inner s (takeStatus s n condition) := by
  unfold takeStatus
  refine inner_ite (.refl s) ?_
  split
  · rename_i c _ _
    exact (inner_modSite s n (fun y => { y with condition := some c }) fun _ => ⟨rfl, rfl⟩).trans (inner_statusActs _ n _ _)
  · exact .refl s

theorem inner_takeReady (s : State) (n u tag : Nat) : Inner s (takeReady s n u tag) := by
  unfold takeReady
  refine inner_ite ?_ (.refl s)
  split
  · exact inner_ite (inner_seeFlags _ _ _ _ _ _) (inner_pushOut _ _)
  · exact inner_pushOut _ _

theorem inner_takeQuiesced (s : State) (n u tag : Nat) : Inner s (takeQuiesced s n u tag) := by
  unfold takeQuiesced
  refine inner_ite ?_ (.refl s)
  split
  · exact inner_ite (inner_seeFlags _ _ _ _ _ _) (.refl s)
  · exact .refl s

theorem inner_takeDecline (s : State) (n u tag : Nat) : Inner s (takeDecline s n u tag) := by
  unfold takeDecline
  refine inner_ite ?_ (.refl s)
  split
  · exact inner_ite ((inner_modRadio s u _).trans (inner_unwindHandover _ _ _ _ _ _ _)) (.refl s)
  · exact .refl s

theorem inner_takeCallRequest (s : State) (n g u : Nat) : Inner s (takeCallRequest s n g u) := by
  refine inner_withAnswer s _ _ fun s0 => ?_
  split
  · exact .refl s0
  · split
    · exact .refl s0
    · split
      · exact .refl s0
      · split
        · exact .refl s0
        · rename_i hg
          have hconf : groupConfigured s0 g = true := by simpa using hg
          obtain ⟨-, hne⟩ := (groupConfigured_iff s0 g).1 hconf
          obtain ⟨x, hx⟩ := Option.ne_none_iff_exists'.1 hne
          exact inner_dealCallRequest s0 n g u hx

theorem inner_takeCallEnd (s : State) (n c : Nat) : Inner s (takeCallEnd s n c) := by
  unfold takeCallEnd
  refine inner_ite ?_ (.refl s)
  split
  · exact inner_ite (inner_ite (inner_endCall s c) (inner_modCall s c _ (fun _ => rfl) fun _ => rfl)) (.refl s)
  · exact .refl s

/-! ### The Bulk Engine -/

theorem inner_startEffects (s : State) (op : BulkOp) : Inner s (startEffects s op) := by
  cases op with
  | roster f start limit => exact .refl s
  | recallGroup g => exact inner_modGroup s g _ (fun _ => rfl) (fun _ => rfl) fun _ h => h
  | cancelRecall g => exact inner_modGroup s g _ (fun _ => rfl) (fun _ => rfl) fun _ h => h
  | evacuate n => exact inner_modSite s n _ fun _ => ⟨rfl, rfl⟩
  | resync n => exact .refl s
  | purge => exact .refl s

theorem inner_startBulk (s : State) (op : BulkOp) : Inner s (startBulk s op) :=
  (inner_setBulk s _).trans (inner_startEffects _ op)

theorem inner_completionWork (s : State) (b : BulkRun) : Inner s (completionWork s b) := by
  unfold completionWork
  split
  · split
    · exact inner_ite (inner_raise _ _) (.refl s)
    · exact .refl s
  · exact inner_modGroup s _ _ (fun _ => rfl) (fun _ => rfl) fun _ h => h
  · exact inner_ite (.refl s) (inner_modSite s _ _ fun _ => ⟨rfl, rfl⟩)
  · exact .refl s
  · exact .refl s
  · exact .refl s

theorem inner_startWaiting (s : State) : Inner s (startWaiting s) := by
  unfold startWaiting
  split
  · exact Inner.trans (b := { s with bulkWaiting := none }) (.of_bulk rfl rfl rfl rfl rfl rfl) (inner_startBulk _ _)
  · exact .refl s

theorem inner_endBulk (s : State) (b : BulkRun) (completed : Bool) : Inner s (endBulk s b completed) := by
  have h1 : Inner s (if completed then completionWork s b else s) := inner_ite (inner_completionWork s b) (.refl s)
  have h2 := h1.trans (inner_raise _ (.bulkDone (accountOf b completed) (rosterResult b completed)))
  exact h2.trans (.trans (b := { raise (if completed then completionWork s b else s)
      (.bulkDone (accountOf b completed) (rosterResult b completed)) with
    bulkLast := some (accountOf b completed, (raise (if completed then completionWork s b else s)
      (.bulkDone (accountOf b completed) (rosterResult b completed))).partTime), bulk := none })
    (.of_bulk rfl rfl rfl rfl rfl rfl) (inner_startWaiting _))

theorem inner_visit (s : State) (op : BulkOp) (u : Nat) (r : Radio) : Inner s (visit s op u r) := by
  cases op with
  | roster f start limit =>
    simp only [visit, visitRoster]
    refine inner_ite (inner_ite (inner_modBulk s _) ?_) (.refl s)
    split
    · exact inner_ite (inner_modBulk s _) ((inner_setBulk s _).trans (inner_endBulk _ _ _))
    · exact .refl s
  | recallGroup g =>
    exact inner_ite ((inner_modRadio s u _).trans ((inner_raiseUnreached _ g).trans (inner_modBulk _ _))) (.refl s)
  | cancelRecall g =>
    exact inner_ite ((inner_modRadio s u _).trans ((inner_lowerUnreached _ g).trans (inner_modBulk _ _))) (.refl s)
  | evacuate n =>
    simp only [visit, visitEvacuate]
    split
    · refine inner_ite ?_ (.refl s)
      split
      · exact inner_ite ((inner_startHandover _ _ _ _ _ _).trans (inner_modBulk _ _)) (inner_modBulk _ _)
      · exact inner_modBulk _ _
    · exact inner_ite (inner_modBulk _ _) (.refl s)
    · exact .refl s
  | resync n =>
    have adopt : Inner s (resyncAdopt s n u r) := inner_ite ((inner_pushOut s _).trans (inner_modBulk _ _)) (inner_modBulk _ _)
    simp only [visit, visitResync]
    split
    · exact inner_ite adopt (.refl s)
    · exact inner_ite adopt (.refl s)
    · exact inner_ite (inner_modBulk _ _) (.refl s)
    · exact .refl s
  | purge =>
    simp only [visit, visitPurge]
    split
    · exact (inner_freeRecord s u).trans (inner_modBulk _ _)
    · exact .refl s

theorem inner_stepBulk (s : State) : Inner s (stepBulk s) := by
  unfold stepBulk
  split
  · refine inner_ite (.refl s) (inner_ite (inner_modBulk _ _) ?_)
    unfold advance
    simp only []
    split
    · split
      · exact (inner_setBulk s _).trans (inner_visit _ _ _ _)
      · exact inner_setBulk s _
    · exact (inner_setBulk s _).trans (inner_endBulk _ _ _)
  · exact .refl s

theorem inner_admitBulk (s : State) (op : BulkOp) (wait clamped : Bool) : Inner s (admitBulk s op wait clamped).1 := by
  unfold admitBulk
  split
  · exact inner_startBulk s op
  · split
    · exact .of_bulk rfl rfl rfl rfl rfl rfl
    · exact .refl s

end Sys2Proof.Machine

/-! What each command does, said once: a command of a site frame, a deadline or the Bulk Engine does work inside an event; a request's
command takes the request at the head, or does nothing. From it follow what the commands leave (R151 to R153, R186) and the bounds of the
ports' queues (R150, R151, R160, R182). -/

namespace Sys2Proof.Machine

/-! ### Deadlines and the Bulk Engine -/

theorem exec_inside {c : Instr} (h : isExpiry c = true ∨ c = .bulkStep) (s : State) : ∃ t, exec c s = .next t ∧ Inner s t := by
  have same : ∃ t, (Host.Outcome.next s : Host.Outcome State Fault Refusal) = .next t ∧ Inner s t := ⟨s, rfl, .refl s⟩
  cases c
  case settleExpiry u =>
    simp only [exec, execSettleExpiry]
    split
    · split
      · exact ⟨_, rfl, inner_closeWork _ _ _ _⟩
      · exact same
    · exact same
  case handoverDeadlineExpiry u =>
    simp only [exec, execHandoverDeadlineExpiry]
    split
    · split
      · exact ⟨_, rfl, inner_unwindHandover _ _ _ _ _ _ _⟩
      · exact same
    · exact same
  case leaseExpiry u =>
    simp only [exec, execLeaseExpiry]
    split
    · split
      · exact ⟨_, rfl, inner_setRecordState _ _ _⟩
      · exact same
    · split
      · exact ⟨_, rfl, inner_abortByLease _ _ _ _ _⟩
      · exact same
    · exact same
  case presumeHoldExpiry u =>
    simp only [exec, execPresumeHoldExpiry]
    split
    · split
      · exact ⟨_, rfl, inner_toLost _ _ _⟩
      · exact same
    · exact same
  case retireHoldExpiry u =>
    simp only [exec, execRetireHoldExpiry]
    split
    · split
      · exact ⟨_, rfl, inner_freeRecord _ _⟩
      · exact same
    · exact same
  case heartbeatExpiry n =>
    simp only [exec, execHeartbeatExpiry]
    split
    · split
      · exact ⟨_, rfl, inner_goDark _ _ _⟩
      · exact same
    · split
      · exact ⟨_, rfl, inner_goDark _ _ _⟩
      · exact same
    · exact same
  case hangExpiry k =>
    simp only [exec, execHangExpiry]
    split
    · split
      · exact ⟨_, rfl, inner_endCall _ _⟩
      · exact same
    · exact same
  case queueHoldExpiry n k =>
    simp only [exec, execQueueHoldExpiry]
    split
    · rename_i hst
      split
      · exact ⟨_, rfl, inner_queueHold _ _ _ hst⟩
      · exact same
    · exact same
  case bulkStep => exact ⟨_, rfl, inner_stepBulk s⟩
  all_goals simp [isExpiry] at h

/-! ### Site frames -/

/-- A command that takes a site frame does its work once the frame has left the queue, or leaves the state (R186). -/
theorem exec_siteFrame {c : Instr} (h : takesSiteFrame c = true) (s : State) :
    ∃ t, exec c s = .next t ∧ (t = s ∨ ∃ m rest, s.siteIn = m :: rest ∧ Inner { s with siteIn := rest } t) := by
  have same : ∃ t, (Host.Outcome.next s : Host.Outcome State Fault Refusal) = .next t ∧
      (t = s ∨ ∃ m rest, s.siteIn = m :: rest ∧ Inner { s with siteIn := rest } t) := ⟨s, rfl, .inl rfl⟩
  cases c
  case reg =>
    simp only [exec, execReg]
    split
    · rename_i hm
      split
      · exact ⟨_, rfl, .inr ⟨_, _, hm, inner_takeReport _ _⟩⟩
      · exact same
    · exact same
  case heard =>
    simp only [exec, execHeard]
    split
    · rename_i hm
      split
      · exact ⟨_, rfl, .inr ⟨_, _, hm, inner_takeReport _ _⟩⟩
      · exact same
    · exact same
  case emerg =>
    simp only [exec, execEmerg]
    split
    · rename_i hm
      split
      · exact ⟨_, rfl, .inr ⟨_, _, hm, inner_takeReport _ _⟩⟩
      · exact same
    · exact same
  case dereg =>
    simp only [exec, execDereg]
    split
    · rename_i hm
      split
      · exact ⟨_, rfl, .inr ⟨_, _, hm, inner_takeDeregReport _ _ _ _⟩⟩
      · exact same
    · exact same
  case ready =>
    simp only [exec, execReady]
    split
    · rename_i hm
      split
      · exact ⟨_, rfl, .inr ⟨_, _, hm, inner_takeReady _ _ _ _⟩⟩
      · exact same
    · exact same
  case quiesced =>
    simp only [exec, execQuiesced]
    split
    · rename_i hm
      split
      · exact ⟨_, rfl, .inr ⟨_, _, hm, inner_takeQuiesced _ _ _ _⟩⟩
      · exact same
    · exact same
  case decline =>
    simp only [exec, execDecline]
    split
    · rename_i hm
      split
      · exact ⟨_, rfl, .inr ⟨_, _, hm, inner_takeDecline _ _ _ _⟩⟩
      · exact same
    · exact same
  case siteStatus =>
    simp only [exec, execSiteStatus]
    split
    · rename_i hm
      exact ⟨_, rfl, .inr ⟨_, _, hm, inner_takeStatus _ _ _⟩⟩
    · exact same
  case callRequest =>
    simp only [exec, execCallRequest]
    split
    · rename_i hm
      split
      · exact ⟨_, rfl, .inr ⟨_, _, hm, inner_takeCallRequest _ _ _ _⟩⟩
      · exact same
    · exact same
  case callEnd =>
    simp only [exec, execCallEnd]
    split
    · rename_i hm
      exact ⟨_, rfl, .inr ⟨_, _, hm, inner_takeCallEnd _ _ _⟩⟩
    · exact same
  all_goals simp [takesSiteFrame] at h

/-! ### Requests -/

/-- What each request does once it is taken in a phase that allows it; the flag is RESTART's operand (R191; log entry 8). -/
def meaning (partly : Bool) : Request → State → Served
  | .defineSite n c v b h i o => doDefineSite n c v b h i o
  | .setSite n c v b h i o => doSetSite n c v b h i o
  | .setNeighbours n l => doSetNeighbours n l
  | .undefineSite n => doUndefineSite n
  | .defineGroup g p l => doDefineGroup g p l
  | .setGroup g p l => doSetGroup g p l
  | .undefineGroup g => doUndefineGroup g
  | .setParameter n v => doSetParameter n v
  | .openService => doOpen
  | .restart => doRestart partly
  | .locate u => doLocate u
  | .siteQuery n => doSiteQuery n
  | .groupQuery g => doGroupQuery g
  | .callQuery c => doCallQuery c
  | .bulkStatus => doBulkStatus
  | .nextNotice => doNextNotice
  | .portStatus => doPortStatus
  | .forceRelease u => doForceRelease u
  | .clearEmergency u => doClearEmergency u
  | .clearLost u => doClearLost u
  | .setGroups u l => doSetGroups u l
  | .clearRegroup u => doClearRegroup u
  | .forceEnd c => doForceEnd c
  | .roster w form value start limit => doRoster w form value start limit
  | .recallGroup w g => doRecall w g
  | .cancelRecall w g => doCancelRecall w g
  | .evacuate w n => doEvacuate w n
  | .resync w n => doResync w n
  | .purge w => doPurge w
  | .bulkSuspend => doBulkSuspend
  | .bulkResume => doBulkResume
  | .bulkAbort scope kind => doBulkAbort scope kind

/-- The phases in which each request is allowed (R152). -/
def phasesOf (q : Request) : Phases := if configRequest q then .configOnly else if serviceRequest q then .serviceOnly else .both

/-- The command that takes a request, with RESTART's operand. -/
def takes (partly : Bool) : Request → Instr
  | .restart => .restart partly
  | q => takenBy q

/-- The commands that take a request. -/
def takesRequest (c : Instr) : Prop := ∃ partly q, c = takes partly q

/-- What the taking of the request q, which stands in the entry e at the head with `rest` behind it, makes of s (R151 to R153). -/
def TakenAs (partly : Bool) (q : Request) (s t : State) : Prop :=
  ∃ e rest, s.requests = e :: rest ∧ entryRequest e = some q ∧ canTakeRequest s = true ∧
    ((allowed (phasesOf q) s.phase = false ∧ t = answered s e rest .wrongPhase .none) ∨
      (allowed (phasesOf q) s.phase = true ∧ t = finished e (meaning partly q { s with requests := rest })))

theorem serve_inv {partly : Bool} {ph : Phases} {act : Request → Option (State → Served)} (c : Instr) (s : State)
    (hc : exec c s = .next (serve s ph act))
    (hact : ∀ q f, act q = some f → c = takes partly q ∧ ph = phasesOf q ∧ f = meaning partly q) :
    ∃ t, exec c s = .next t ∧ (t = s ∨ ∃ partly q, c = takes partly q ∧ TakenAs partly q s t) := by
  refine ⟨_, hc, ?_⟩
  unfold serve
  split
  · rename_i e rest hreq
    split
    · rename_i f hf
      obtain ⟨q, hq, hqf⟩ := Option.bind_eq_some_iff.1 hf
      obtain ⟨rfl, rfl, rfl⟩ := hact q f hqf
      split
      · rename_i hcan
        simp only []
        refine .inr ⟨partly, q, rfl, e, rest, hreq, hq, hcan, ?_⟩
        split
        · rename_i hall; exact .inr ⟨hall, rfl⟩
        · rename_i hall; exact .inl ⟨by simpa using hall, rfl⟩
      · exact .inl rfl
    · exact .inl rfl
  · exact .inl rfl

theorem exec_request {c : Instr} (h : takesRequest c) (s : State) :
    ∃ t, exec c s = .next t ∧ (t = s ∨ ∃ partly q, c = takes partly q ∧ TakenAs partly q s t) := by
  obtain ⟨partly, q, rfl⟩ := h
  cases q <;> refine serve_inv (partly := partly) _ s rfl ?_ <;> intro q f hf <;> split at hf <;> cases hf <;>
    exact ⟨rfl, rfl, rfl⟩

end Sys2Proof.Machine

/-! What requests leave, by their kinds: a request of SERVICE phase does work inside an event; of the others RESTART alone touches
records, calls and the Bulk Engine. The statements on what each command leaves (R151 to R153, R186), and the bounds of the ports' queues
(R150, R151, R160, R182), follow. -/

namespace Sys2Proof.Machine

/-! ### The kinds of requests -/

/-- What the requests of SERVICE phase do is work inside an event. -/
theorem inner_meaning {q : Request} (h : serviceRequest q = true) (partly : Bool) (s : State) : Inner s (meaning partly q s).1 := by
  cases q
  case forceRelease u =>
    simp only [meaning, doForceRelease]
    split
    · exact inner_forceRelease s u
    · exact .refl s
  case clearEmergency u =>
    simp only [meaning, doClearEmergency]
    split
    · split
      · exact .refl s
      · exact inner_ite ((inner_modRadio s u _).trans (inner_freeRecord _ u)) (inner_modRadio s u _)
    · exact .refl s
  case clearLost u =>
    simp only [meaning, doClearLost]
    split
    · split
      · exact inner_freeRecord s u
      · exact .refl s
    · exact .refl s
  case setGroups u l =>
    simp only [meaning, doSetGroups]
    split
    · split
      · have h := (inner_changeGroupList s u (trimGroups s l)).trans (inner_modRadio _ u fun r => { r with regroup := .ordered })
        split
        · exact h.trans ((inner_sendOrdinary _ _ _).trans (inner_sendOrdinary _ _ _))
        · exact h.trans (inner_sendOrdinary _ _ _)
      · exact .refl s
    · exact .refl s
  case clearRegroup u =>
    simp only [meaning, doClearRegroup]
    split
    · exact inner_modRadio s u _
    · exact .refl s
  case forceEnd c =>
    simp only [meaning, doForceEnd]
    split
    · exact inner_endCall s c
    · exact .refl s
  case roster w form value start limit =>
    simp only [meaning, doRoster]
    split
    · exact inner_admitBulk _ _ _ _
    · exact .refl s
  case recallGroup w g =>
    simp only [meaning, doRecall]
    split
    · exact inner_admitBulk _ _ _ _
    · exact .refl s
  case cancelRecall w g =>
    simp only [meaning, doCancelRecall]
    split
    · exact inner_admitBulk _ _ _ _
    · exact .refl s
  case evacuate w n =>
    simp only [meaning, doEvacuate]
    split
    · exact inner_admitBulk _ _ _ _
    · exact .refl s
  case resync w n =>
    simp only [meaning, doResync]
    split
    · exact inner_admitBulk _ _ _ _
    · exact .refl s
  case purge w => exact inner_admitBulk _ _ _ _
  case bulkSuspend =>
    simp only [meaning, doBulkSuspend]
    split
    · split
      · exact .refl s
      · exact inner_modBulk s _
    · exact .refl s
  case bulkResume =>
    simp only [meaning, doBulkResume]
    split
    · split
      · exact inner_modBulk s _
      · exact .refl s
    · exact .refl s
  case bulkAbort scope kind =>
    simp only [meaning, doBulkAbort]
    split
    · simp only [abortCurrent]
      split
      · split
        · exact inner_endBulk _ _ _
        · exact .refl s
      · exact .refl s
    · simp only [abortWaiting]
      split
      · split
        · exact .of_bulk rfl rfl rfl rfl rfl rfl
        · exact .refl s
      · exact .refl s
    · exact .refl s
  all_goals simp [serviceRequest] at h

theorem settleOver_cases (s : State) (n : Nat) :
    settleOver s n = setOver s n ∨ settleOver s n = modSite s n clearOver ∨ settleOver s n = s := by
  unfold settleOver
  split
  · split
    · exact .inl rfl
    · exact .inr (.inl rfl)
  · exact .inr (.inr rfl)

theorem inner_settleOver (s : State) (n : Nat) : Inner s (settleOver s n) := by
  rcases settleOver_cases s n with h | h | h <;> rw [h]
  · exact inner_setOver s n
  · exact inner_modSite s n _ siteValues_clearOver
  · exact .refl s

/-- What a request that is neither RESTART nor of SERVICE phase alone leaves: records, calls, the Bulk Engine, the outbound queue and the
tag counter. -/
structure RecordsStay (s t : State) : Prop where
  radios : t.radios = s.radios
  calls : t.calls = s.calls
  bulk : t.bulk = s.bulk
  bulkWaiting : t.bulkWaiting = s.bulkWaiting
  bulkLast : t.bulkLast = s.bulkLast
  outbound : t.outbound = s.outbound
  tag : t.tagCounter = s.tagCounter

theorem RecordsStay.refl (s : State) : RecordsStay s s := ⟨rfl, rfl, rfl, rfl, rfl, rfl, rfl⟩

theorem recordsStay_setOver (s : State) (n : Nat) : RecordsStay s (setOver s n) := by
  rcases setOver_cases s n with h | ⟨b, h⟩ <;> rw [h]
  · exact .refl s
  · exact ⟨by simp, by simp, by simp, by simp, by simp, by simp, by simp⟩

theorem meaning_recordsStay {q : Request} (h : serviceRequest q = false) (hr : q ≠ .restart) (partly : Bool) (s : State) :
    RecordsStay s (meaning partly q s).1 := by
  cases q
  case defineSite n c v b hy i o =>
    simp only [meaning, doDefineSite]
    split
    · exact ⟨rfl, rfl, rfl, rfl, rfl, rfl, rfl⟩
    · exact .refl s
  case setSite n c v b hy i o =>
    simp only [meaning, doSetSite]
    split
    · split
      · exact .refl s
      · rcases settleOver_cases (modSite s n fun x => { x with
          capacity := (c.map clampCapacity).getD x.capacity, voice := (v.map clampVoice).getD x.voice,
          bias := (b.map clampBias).getD x.bias, hysteresis := (hy.map clampHysteresis).getD x.hysteresis,
          acceptIn := i.getD x.acceptIn, releaseOut := o.getD x.releaseOut }) n with e | e | e <;> rw [e]
        · have := recordsStay_setOver (modSite s n fun x => { x with
            capacity := (c.map clampCapacity).getD x.capacity, voice := (v.map clampVoice).getD x.voice,
            bias := (b.map clampBias).getD x.bias, hysteresis := (hy.map clampHysteresis).getD x.hysteresis,
            acceptIn := i.getD x.acceptIn, releaseOut := o.getD x.releaseOut }) n
          exact ⟨this.radios, this.calls, this.bulk, this.bulkWaiting, this.bulkLast, this.outbound, this.tag⟩
        · exact ⟨rfl, rfl, rfl, rfl, rfl, rfl, rfl⟩
        · exact ⟨rfl, rfl, rfl, rfl, rfl, rfl, rfl⟩
    · exact .refl s
  case setNeighbours n l =>
    simp only [meaning, doSetNeighbours]
    split
    · exact ⟨rfl, rfl, rfl, rfl, rfl, rfl, rfl⟩
    · exact .refl s
  case undefineSite n =>
    simp only [meaning, doUndefineSite]
    split
    · exact ⟨rfl, rfl, rfl, rfl, rfl, rfl, rfl⟩
    · exact .refl s
  case defineGroup g p l =>
    simp only [meaning, doDefineGroup]
    split
    · exact ⟨rfl, rfl, rfl, rfl, rfl, rfl, rfl⟩
    · exact .refl s
  case setGroup g p l =>
    simp only [meaning, doSetGroup]
    split
    · exact ⟨rfl, rfl, rfl, rfl, rfl, rfl, rfl⟩
    · exact .refl s
  case undefineGroup g =>
    simp only [meaning, doUndefineGroup]
    split
    · exact ⟨rfl, rfl, rfl, rfl, rfl, rfl, rfl⟩
    · exact .refl s
  case setParameter n v =>
    simp only [meaning, doSetParameter]
    split
    · exact ⟨rfl, rfl, rfl, rfl, rfl, rfl, rfl⟩
    · exact .refl s
  case openService =>
    simp only [meaning, doOpen]
    split
    · exact .refl s
    · exact ⟨rfl, rfl, rfl, rfl, rfl, rfl, rfl⟩
  case restart => exact absurd rfl hr
  case locate u => simp only [meaning, doLocate]; split <;> exact .refl s
  case siteQuery n => simp only [meaning, doSiteQuery]; split <;> exact .refl s
  case groupQuery g => simp only [meaning, doGroupQuery]; split <;> exact .refl s
  case callQuery c => simp only [meaning, doCallQuery]; split <;> exact .refl s
  case bulkStatus => exact .refl s
  case nextNotice =>
    simp only [meaning, doNextNotice]
    split
    · exact ⟨rfl, rfl, rfl, rfl, rfl, rfl, rfl⟩
    · exact .refl s
  case portStatus => exact ⟨rfl, rfl, rfl, rfl, rfl, rfl, rfl⟩
  all_goals simp [serviceRequest] at h

/-! ### What requests leave of the fields outside the blocks -/

/-- What the effect of a request q leaves of the fields outside the blocks (R151, R161, R188, R189). -/
structure OuterStay (q : Request) (s t : State) : Prop where
  outer : outer t = outer { s with phase := t.phase, params := t.params, answerLost := t.answerLost }
  phase : q ≠ .openService → t.phase = s.phase
  params : (∀ n v, q ≠ .setParameter n v) → t.params = s.params
  answerLost : q ≠ .portStatus → t.answerLost = s.answerLost

theorem OuterStay.of_outer {q : Request} {s t : State} (h : Machine.outer t = Machine.outer s) : OuterStay q s t := by
  have hp : t.phase = s.phase := congrArg Outer.phase h
  have hq : t.params = s.params := congrArg Outer.params h
  have ha : t.answerLost = s.answerLost := congrArg Outer.answerLost h
  exact ⟨by rw [h, hp, hq, ha], fun _ => hp, fun _ => hq, fun _ => ha⟩

theorem meaning_outerStay {q : Request} (hr : q ≠ .restart) (partly : Bool) (s : State) : OuterStay q s (meaning partly q s).1 := by
  by_cases h : serviceRequest q = true
  · exact .of_outer (inner_meaning h partly s).steady.outer
  cases q
  case defineSite n c v b hy i o => simp only [meaning, doDefineSite]; split <;> exact .of_outer rfl
  case setSite n c v b hy i o =>
    simp only [meaning, doSetSite]
    split
    · split
      · exact .of_outer rfl
      · exact .of_outer (inner_settleOver _ n).steady.outer
    · exact .of_outer rfl
  case setNeighbours n l => simp only [meaning, doSetNeighbours]; split <;> exact .of_outer rfl
  case undefineSite n => simp only [meaning, doUndefineSite]; split <;> exact .of_outer rfl
  case defineGroup g p l => simp only [meaning, doDefineGroup]; split <;> exact .of_outer rfl
  case setGroup g p l => simp only [meaning, doSetGroup]; split <;> exact .of_outer rfl
  case undefineGroup g => simp only [meaning, doUndefineGroup]; split <;> exact .of_outer rfl
  case setParameter n v =>
    simp only [meaning, doSetParameter]
    split
    · exact ⟨rfl, fun _ => rfl, fun hne => absurd rfl (hne n v), fun _ => rfl⟩
    · exact .of_outer rfl
  case openService =>
    simp only [meaning, doOpen]
    split
    · exact .of_outer rfl
    · exact ⟨rfl, fun hne => absurd rfl hne, fun _ => rfl, fun _ => rfl⟩
  case restart => exact absurd rfl hr
  case locate u => simp only [meaning, doLocate]; split <;> exact .of_outer rfl
  case siteQuery n => simp only [meaning, doSiteQuery]; split <;> exact .of_outer rfl
  case groupQuery g => simp only [meaning, doGroupQuery]; split <;> exact .of_outer rfl
  case callQuery c => simp only [meaning, doCallQuery]; split <;> exact .of_outer rfl
  case bulkStatus => exact .of_outer rfl
  case nextNotice => simp only [meaning, doNextNotice]; split <;> exact .of_outer rfl
  case portStatus => exact ⟨rfl, fun _ => rfl, fun _ => rfl, fun hne => absurd rfl hne⟩
  all_goals simp [serviceRequest] at h

theorem meaning_notices_le (q : Request) (partly : Bool) {s : State} (hs : s.notices.length ≤ 64) :
    (meaning partly q s).1.notices.length ≤ 64 := by
  by_cases h : serviceRequest q = true
  · exact (inner_meaning h partly s).steady.notices hs
  cases q
  case defineSite n c v b hy i o => simp only [meaning, doDefineSite]; split <;> exact hs
  case setSite n c v b hy i o =>
    simp only [meaning, doSetSite]
    split
    · split
      · exact hs
      · exact (inner_settleOver _ n).steady.notices hs
    · exact hs
  case setNeighbours n l => simp only [meaning, doSetNeighbours]; split <;> exact hs
  case undefineSite n => simp only [meaning, doUndefineSite]; split <;> exact hs
  case defineGroup g p l => simp only [meaning, doDefineGroup]; split <;> exact hs
  case setGroup g p l => simp only [meaning, doSetGroup]; split <;> exact hs
  case undefineGroup g => simp only [meaning, doUndefineGroup]; split <;> exact hs
  case setParameter n v => simp only [meaning, doSetParameter]; split <;> exact hs
  case openService => simp only [meaning, doOpen]; split <;> exact hs
  case restart => exact Nat.zero_le _
  case locate u => simp only [meaning, doLocate]; split <;> exact hs
  case siteQuery n => simp only [meaning, doSiteQuery]; split <;> exact hs
  case groupQuery g => simp only [meaning, doGroupQuery]; split <;> exact hs
  case callQuery c => simp only [meaning, doCallQuery]; split <;> exact hs
  case bulkStatus => exact hs
  case nextNotice =>
    simp only [meaning, doNextNotice]
    split
    · rename_i n rest hn
      rw [hn, List.length_cons] at hs
      exact Nat.le_of_succ_le hs
    · exact hs
  case portStatus => exact hs
  all_goals simp [serviceRequest] at h

/-! ### Every command -/

/-- The commands of the ports themselves (sections 10.1 and 10.9). -/
def ofPorts : Instr → Bool
  | .siteFrameReceived _ | .dispatchFrameReceived _ | .outboundEntrySent | .answerSent | .powerOnReset => true
  | _ => false

/-- Every command is of one of these kinds. -/
theorem command_cases (c : Instr) : ofPorts c = true ∨ takesSiteFrame c = true ∨ (isExpiry c = true ∨ c = .bulkStep) ∨
    c = .rejectedRequest ∨ takesRequest c := by
  cases c
  case siteFrameReceived | dispatchFrameReceived | outboundEntrySent | answerSent | powerOnReset => exact .inl rfl
  case reg | heard | emerg | dereg | ready | quiesced | decline | siteStatus | callRequest | callEnd => exact .inr (.inl rfl)
  case settleExpiry | handoverDeadlineExpiry | leaseExpiry | presumeHoldExpiry | retireHoldExpiry | heartbeatExpiry | hangExpiry |
      queueHoldExpiry => exact .inr (.inr (.inl (.inl rfl)))
  case bulkStep => exact .inr (.inr (.inl (.inr rfl)))
  case rejectedRequest => exact .inr (.inr (.inr (.inl rfl)))
  all_goals refine .inr (.inr (.inr (.inr ?_)))
  case defineSite => exact ⟨false, .defineSite 0 none none none none false false, rfl⟩
  case setSite => exact ⟨false, .setSite 0 none none none none none none, rfl⟩
  case setNeighbours => exact ⟨false, .setNeighbours 0 [], rfl⟩
  case undefineSite => exact ⟨false, .undefineSite 0, rfl⟩
  case defineGroup => exact ⟨false, .defineGroup 0 0 [], rfl⟩
  case setGroup => exact ⟨false, .setGroup 0 none none, rfl⟩
  case undefineGroup => exact ⟨false, .undefineGroup 0, rfl⟩
  case setParameter => exact ⟨false, .setParameter 0 0, rfl⟩
  case openService => exact ⟨false, .openService, rfl⟩
  case restart partly => exact ⟨partly, .restart, rfl⟩
  case locate => exact ⟨false, .locate 0, rfl⟩
  case siteQuery => exact ⟨false, .siteQuery 0, rfl⟩
  case groupQuery => exact ⟨false, .groupQuery 0, rfl⟩
  case callQuery => exact ⟨false, .callQuery 0, rfl⟩
  case bulkStatus => exact ⟨false, .bulkStatus, rfl⟩
  case nextNotice => exact ⟨false, .nextNotice, rfl⟩
  case portStatus => exact ⟨false, .portStatus, rfl⟩
  case forceRelease => exact ⟨false, .forceRelease 0, rfl⟩
  case clearEmergency => exact ⟨false, .clearEmergency 0, rfl⟩
  case clearLost => exact ⟨false, .clearLost 0, rfl⟩
  case setGroups => exact ⟨false, .setGroups 0 [], rfl⟩
  case clearRegroup => exact ⟨false, .clearRegroup 0, rfl⟩
  case forceEnd => exact ⟨false, .forceEnd 0, rfl⟩
  case roster => exact ⟨false, .roster false 0 0 0 0, rfl⟩
  case recallGroup => exact ⟨false, .recallGroup false 0, rfl⟩
  case cancelRecall => exact ⟨false, .cancelRecall false 0, rfl⟩
  case evacuate => exact ⟨false, .evacuate false 0, rfl⟩
  case resync => exact ⟨false, .resync false 0, rfl⟩
  case purge => exact ⟨false, .purge false, rfl⟩
  case bulkSuspend => exact ⟨false, .bulkSuspend, rfl⟩
  case bulkResume => exact ⟨false, .bulkResume, rfl⟩
  case bulkAbort => exact ⟨false, .bulkAbort 0 0, rfl⟩

/-- What the Site Port's receiver and inbound queue may become when bytes are received; nothing else changes (R181, R182). -/
theorem foldl_acceptSite (l : List Received) (s : State) : ∃ more, l.foldl acceptSite s = { s with siteIn := s.siteIn ++ more } ∧
    (s.siteIn.length ≤ 128 → (s.siteIn ++ more).length ≤ 128) ∧
    ∀ m ∈ more, ∃ kind body, siteMessage kind body = some m := by
  induction l generalizing s with
  | nil => exact ⟨[], by simp, by simp, by simp⟩
  | cons x l ih =>
    have one : ∃ more, acceptSite s x = { s with siteIn := s.siteIn ++ more } ∧
        (s.siteIn.length ≤ 128 → (s.siteIn ++ more).length ≤ 128) ∧ ∀ m ∈ more, ∃ kind body, siteMessage kind body = some m := by
      unfold acceptSite
      split
      · split
        · rename_i kind body _ m hm
          split
          · rename_i hlt
            exact ⟨[m], rfl, fun _ => by simp only [List.length_append, List.length_singleton]; exact hlt,
              fun m' hm' => ⟨kind, body, by rw [hm, List.mem_singleton.1 hm']⟩⟩
          · exact ⟨[], by simp, by simp, by simp⟩
        · exact ⟨[], by simp, by simp, by simp⟩
      · exact ⟨[], by simp, by simp, by simp⟩
    obtain ⟨m1, e1, b1, f1⟩ := one
    obtain ⟨m2, e2, b2, f2⟩ := ih (acceptSite s x)
    rw [e1] at e2 b2
    refine ⟨m1 ++ m2, by rw [List.foldl_cons, e1, e2]; simp, fun h => ?_, fun m hm => ?_⟩
    · rw [← List.append_assoc]; exact b2 (b1 h)
    · rcases List.mem_append.1 hm with hm | hm
      · exact f1 m hm
      · exact f2 m hm

/-- What the Dispatch Port may do with frames received: requests and answers enter their queues within bounds, or an answer is lost
(R150). -/
theorem foldl_acceptRequest (l : List Received) (s : State) : ∃ reqs ans lost, l.foldl acceptRequest s =
      { s with requests := s.requests ++ reqs, answers := s.answers ++ ans, answerLost := lost } ∧
    (s.requests.length ≤ 16 → (s.requests ++ reqs).length ≤ 16) ∧ (s.answers.length ≤ 32 → (s.answers ++ ans).length ≤ 32) := by
  induction l generalizing s with
  | nil => exact ⟨[], [], s.answerLost, by simp, by simp, by simp⟩
  | cons x l ih =>
    have one : ∃ reqs ans lost, acceptRequest s x =
        { s with requests := s.requests ++ reqs, answers := s.answers ++ ans, answerLost := lost } ∧
        (s.requests.length ≤ 16 → (s.requests ++ reqs).length ≤ 16) ∧ (s.answers.length ≤ 32 → (s.answers ++ ans).length ≤ 32) := by
      unfold acceptRequest
      split
      · rename_i hlt
        exact ⟨[entryOf x], [], s.answerLost, by simp, fun _ => by simp only [List.length_append, List.length_singleton]; exact hlt,
          by simp⟩
      · split
        · rename_i hlt
          exact ⟨[], [{ number := entryNumber (entryOf x), kind := (entryOf x).kind, code := .full, content := .none }],
            s.answerLost, by simp [pushAnswer], by simp, fun _ => by simp only [List.length_append, List.length_singleton]; exact hlt⟩
        · exact ⟨[], [], true, by simp, by simp, by simp⟩
    obtain ⟨r1, a1, l1, e1, b1, d1⟩ := one
    obtain ⟨r2, a2, l2, e2, b2, d2⟩ := ih (acceptRequest s x)
    rw [e1] at e2 b2 d2
    refine ⟨r1 ++ r2, a1 ++ a2, l2, by rw [List.foldl_cons, e1, e2]; simp, fun h => ?_, fun h => ?_⟩
    · rw [← List.append_assoc]; exact b2 (b1 h)
    · rw [← List.append_assoc]; exact d2 (d1 h)

/-- The commands of the ports leave everything but the ports; power-on reset leaves the reset state. -/
theorem exec_ofPorts {c : Instr} (h : ofPorts c = true) (s : State) : ∃ t, exec c s = .next t ∧
    ((c = .powerOnReset ∧ t = { State.reset with pending := s.pending, choices := s.choices }) ∨
      ∃ rx more out residue sent drx reqs ans dsent lost,
        t = { s with siteRx := rx, siteIn := s.siteIn ++ more, outbound := out, siteResidue := residue, siteSent := sent,
                     dispatchRx := drx, requests := s.requests ++ reqs, answers := ans, dispatchSent := dsent, answerLost := lost } ∧
        out.length ≤ s.outbound.length ∧ (s.siteIn.length ≤ 128 → (s.siteIn ++ more).length ≤ 128) ∧
        (∀ m ∈ more, ∃ kind body, siteMessage kind body = some m) ∧
        (s.requests.length ≤ 16 → (s.requests ++ reqs).length ≤ 16) ∧ (s.answers.length ≤ 32 → ans.length ≤ 32)) := by
  cases c
  case siteFrameReceived bytes =>
    obtain ⟨more, e, hb, hm⟩ := foldl_acceptSite (receiveBytes s.siteRx bytes).2 { s with siteRx := (receiveBytes s.siteRx bytes).1 }
    exact ⟨_, rfl, .inr ⟨_, more, s.outbound, s.siteResidue, s.siteSent, s.dispatchRx, [], s.answers, s.dispatchSent, s.answerLost,
      by rw [List.append_nil]; exact e, Nat.le_refl _, hb, hm, by simp, id⟩⟩
  case dispatchFrameReceived bytes =>
    obtain ⟨reqs, ans, lost, e, hb, hd⟩ :=
      foldl_acceptRequest (receiveBytes s.dispatchRx bytes).2 { s with dispatchRx := (receiveBytes s.dispatchRx bytes).1 }
    exact ⟨_, rfl, .inr ⟨s.siteRx, [], s.outbound, s.siteResidue, s.siteSent, _, reqs, _, s.dispatchSent, lost,
      by rw [List.append_nil]; exact e, Nat.le_refl _, by simp, by simp, hb, hd⟩⟩
  case outboundEntrySent =>
    have stays : ∀ out residue sent, out.length ≤ s.outbound.length → ∃ rx more out' residue' sent' drx reqs ans dsent lost,
        ({ s with outbound := out, siteResidue := residue, siteSent := sent } : State) =
          { s with siteRx := rx, siteIn := s.siteIn ++ more, outbound := out', siteResidue := residue', siteSent := sent',
                   dispatchRx := drx, requests := s.requests ++ reqs, answers := ans, dispatchSent := dsent, answerLost := lost } ∧
        out'.length ≤ s.outbound.length ∧ (s.siteIn.length ≤ 128 → (s.siteIn ++ more).length ≤ 128) ∧
        (∀ m ∈ more, ∃ kind body, siteMessage kind body = some m) ∧
        (s.requests.length ≤ 16 → (s.requests ++ reqs).length ≤ 16) ∧ (s.answers.length ≤ 32 → ans.length ≤ 32) :=
      fun out residue sent hout => ⟨s.siteRx, [], out, residue, sent, s.dispatchRx, [], s.answers, s.dispatchSent, s.answerLost,
        by simp, hout, by simp, by simp, by simp, id⟩
    simp only [exec, execOutboundEntrySent]
    split
    · exact ⟨_, rfl, .inr (stays s.outbound none _ (Nat.le_refl _))⟩
    · rename_i f rest _ ho
      exact ⟨_, rfl, .inr (stays rest s.siteResidue _ (by rw [ho]; simp))⟩
    · exact ⟨_, rfl, .inr (stays s.outbound s.siteResidue _ (Nat.le_refl _))⟩
  case answerSent =>
    have stays : ∀ ans dsent, ans.length ≤ s.answers.length → ∃ rx more out residue sent drx reqs ans' dsent' lost,
        ({ s with answers := ans, dispatchSent := dsent } : State) =
          { s with siteRx := rx, siteIn := s.siteIn ++ more, outbound := out, siteResidue := residue, siteSent := sent,
                   dispatchRx := drx, requests := s.requests ++ reqs, answers := ans', dispatchSent := dsent', answerLost := lost } ∧
        out.length ≤ s.outbound.length ∧ (s.siteIn.length ≤ 128 → (s.siteIn ++ more).length ≤ 128) ∧
        (∀ m ∈ more, ∃ kind body, siteMessage kind body = some m) ∧
        (s.requests.length ≤ 16 → (s.requests ++ reqs).length ≤ 16) ∧ (s.answers.length ≤ 32 → ans'.length ≤ 32) :=
      fun ans dsent hans => ⟨s.siteRx, [], s.outbound, s.siteResidue, s.siteSent, s.dispatchRx, [], ans, dsent, s.answerLost,
        by simp, Nat.le_refl _, by simp, by simp, by simp, fun h => Nat.le_trans hans h⟩
    simp only [exec, execAnswerSent]
    split
    · rename_i a rest ha
      exact ⟨_, rfl, .inr (stays rest _ (by rw [ha]; simp))⟩
    · exact ⟨_, rfl, .inr (stays s.answers _ (Nat.le_refl _))⟩
  case powerOnReset => exact ⟨_, rfl, .inl ⟨rfl, rfl⟩⟩
  all_goals simp [ofPorts] at h

/-- A rejected request is answered, and nothing else changes (R152). -/
theorem exec_rejected (s : State) : ∃ t, exec .rejectedRequest s = .next t ∧
    (t = s ∨ ∃ e rest, s.requests = e :: rest ∧ canTakeRequest s = true ∧ t = answered s e rest .frameReject .none) := by
  simp only [exec, execRejectedRequest]
  split
  · rename_i e rest hreq
    split
    · rename_i h
      exact ⟨_, rfl, .inr ⟨e, rest, hreq, (Bool.and_eq_true_iff.1 h).1, rfl⟩⟩
    · exact ⟨s, rfl, .inl rfl⟩
  · exact ⟨s, rfl, .inl rfl⟩

/-- Settles O3: each kind of command answers with a next state, and says which fields outside the blocks it leaves. -/
theorem everyCommandAnswersNext : Obligations.EveryCommandAnswersNext := by
  intro c s
  have ofOuter : ∀ {t : State}, outer t = outer s → t.pending = s.pending ∧ t.choices = s.choices ∧
      (c = .powerOnReset ∨ t.partTime = s.partTime) := fun h =>
    ⟨congrArg Outer.pending h, congrArg Outer.choices h, .inr (congrArg Outer.partTime h)⟩
  rcases command_cases c with h | h | h | rfl | h
  · obtain ⟨t, ht, ⟨rfl, rfl⟩ | ⟨rx, more, out, residue, sent, drx, reqs, ans, dsent, lost, rfl, -⟩⟩ := exec_ofPorts h s
    · exact ⟨_, ht, rfl, rfl, .inl rfl⟩
    · exact ⟨_, ht, rfl, rfl, .inr rfl⟩
  · obtain ⟨t, ht, rfl | ⟨m, rest, -, hi⟩⟩ := exec_siteFrame h s
    · exact ⟨_, ht, ofOuter rfl⟩
    · have ho := hi.steady.outer
      exact ⟨t, ht, congrArg Outer.pending ho, congrArg Outer.choices ho, .inr (congrArg Outer.partTime ho)⟩
  · obtain ⟨t, ht, hi⟩ := exec_inside h s
    exact ⟨t, ht, ofOuter hi.steady.outer⟩
  · obtain ⟨t, ht, rfl | ⟨e, rest, -, -, rfl⟩⟩ := exec_rejected s
    · exact ⟨_, ht, ofOuter rfl⟩
    · exact ⟨_, ht, rfl, rfl, .inr rfl⟩
  · obtain ⟨t, ht, rfl | ⟨partly, q, rfl, e, rest, -, -, -, ⟨-, rfl⟩ | ⟨-, rfl⟩⟩⟩ := exec_request h s
    · exact ⟨_, ht, ofOuter rfl⟩
    · exact ⟨_, ht, rfl, rfl, .inr rfl⟩
    · by_cases hr : q = .restart
      · subst hr; exact ⟨_, ht, rfl, rfl, .inr rfl⟩
      · have ho := (meaning_outerStay hr partly { s with requests := rest }).outer
        exact ⟨_, ht, congrArg Outer.pending ho, congrArg Outer.choices ho, .inr (congrArg Outer.partTime ho)⟩

/-- Settles O4: the work inside an event leaves the fields outside the blocks, and a site frame that is taken leaves its queue. -/
theorem siteSideCommandsKeepTheRest : Obligations.SiteSideCommandsKeepTheRest := by
  intro c s t hc ht
  have inside : isExpiry c = true ∨ c = .bulkStep → outer t = outer s := by
    intro h
    obtain ⟨t', ht', hi⟩ := exec_inside h s
    rw [ht] at ht'
    cases ht'
    exact hi.steady.outer
  have frame : takesSiteFrame c = true → t = s ∨ ∃ m rest, s.siteIn = m :: rest ∧ outer t = outer { s with siteIn := rest } := by
    intro h
    obtain ⟨t', ht', hi⟩ := exec_siteFrame h s
    rw [ht] at ht'
    cases ht'
    exact hi.imp_right fun ⟨m, rest, hm, hi⟩ => ⟨m, rest, hm, hi.steady.outer⟩
  by_cases h : takesSiteFrame c = true
  · refine ⟨?_, fun hf => absurd hf (by simp [h]), fun _ => ?_⟩
    · rcases frame h with rfl | ⟨m, rest, -, ho⟩
      · rfl
      · rw [show t.siteIn = rest from congrArg Outer.siteIn ho]; exact ho
    · exact (frame h).imp_right fun ⟨m, rest, hm, ho⟩ => ⟨m, by rw [show t.siteIn = rest from congrArg Outer.siteIn ho]; exact hm⟩
  · have ho := inside (hc.resolve_left h)
    have hin : t.siteIn = s.siteIn := congrArg Outer.siteIn ho
    exact ⟨by rw [hin]; exact ho, fun _ => hin, fun hf => absurd hf h⟩

/-- Settles O5: what each request's effect leaves, and the one answer that follows it. -/
theorem requestsKeepTheRest : Obligations.RequestsKeepTheRest := by
  intro q s t hr ht
  have htakes : takenBy q = takes false q := by cases q <;> rfl
  obtain ⟨t', ht', h⟩ := exec_request ⟨false, q, htakes⟩ s
  rw [ht] at ht'
  cases ht'
  rcases h with rfl | ⟨partly, q', hq', e, rest, hreq, -, -, ⟨-, rfl⟩ | ⟨-, rfl⟩⟩
  · exact ⟨rfl, fun _ => rfl, fun _ => rfl, fun _ => rfl, .inl rfl⟩
  · exact ⟨rfl, fun _ => rfl, fun _ => rfl, fun _ => rfl, .inr ⟨e, _, hreq, rfl, rfl, rfl⟩⟩
  · have sameKind : (q' = .restart → q = .restart) ∧ (q' = .openService → q = .openService) ∧
        (q' = .portStatus → q = .portStatus) ∧ ((∃ n v, q' = .setParameter n v) → ∃ n v, q = .setParameter n v) := by
      refine ⟨?_, ?_, ?_, ?_⟩
      · rintro rfl; cases q <;> simp_all [takenBy, takes]
      · rintro rfl; cases q <;> simp_all [takenBy, takes]
      · rintro rfl; cases q <;> simp_all [takenBy, takes]
      · rintro ⟨n, v, rfl⟩; cases q <;> simp_all [takenBy, takes]
    obtain ⟨hrestart, hopen, hport, hset⟩ := sameKind
    have h := meaning_outerStay (fun e => hr (hrestart e)) partly { s with requests := rest }
    have ho := h.outer
    have hans : (meaning partly q' { s with requests := rest }).1.answers = s.answers := congrArg Outer.answers ho
    refine ⟨?_, fun hne => h.phase fun e => hne (hopen e), fun hne => h.params fun n v e => ?_,
      fun hne => h.answerLost fun e => hne (hport e), .inr ⟨e, {
        number := entryNumber e, kind := e.kind, code := (meaning partly q' { s with requests := rest }).2.1,
        content := (meaning partly q' { s with requests := rest }).2.2 }, ?_, ?_, rfl, rfl⟩⟩
    · have houter : outer (finished e (meaning partly q' { s with requests := rest })) =
          { outer (meaning partly q' { s with requests := rest }).1 with
            answers := (finished e (meaning partly q' { s with requests := rest })).answers } := rfl
      rw [houter, ho]
      have hreq' : (finished e (meaning partly q' { s with requests := rest })).requests = rest :=
        (congrArg Outer.requests ho : (meaning partly q' { s with requests := rest }).1.requests = rest)
      rw [hreq']
      rfl
    · obtain ⟨n', v', e'⟩ := hset ⟨n, v, e⟩
      exact hne n' v' e'
    · rw [hreq]
      exact congrArg (e :: ·) (congrArg Outer.requests ho : (meaning partly q' { s with requests := rest }).1.requests = rest).symm
    · exact congrArg (· ++ [_]) hans

theorem exec_takenBy_wrongPhase {s : State} {e : RequestEntry} {rest : List RequestEntry} {q : Request}
    (h : requestReady s e rest q) (hp : allowed (phasesOf q) s.phase = false) :
    exec (takenBy q) s = .next (answered s e rest .wrongPhase .none) := by
  cases q <;> exact congrArg Host.Outcome.next (serve_wrongPhase h rfl hp)

/-- Settles O47: a request that is rejected meets its own command, and one in a wrong phase the phase test. -/
theorem refusedRequestsOnlyGetTheirAnswer : Obligations.RefusedRequestsOnlyGetTheirAnswer := by
  intro s e rest
  refine ⟨fun hreq hnone hroom hans => ?rejected, fun q h hp => exec_takenBy_wrongPhase h ?phase⟩
  case rejected =>
    have hcan : canTakeRequest s = true := by
      simp only [canTakeRequest, restartAnswerWaits, Bool.and_eq_true, decide_eq_true_eq, Bool.not_eq_true', List.any_eq_false]
      exact ⟨hroom, fun a ha => by simpa using hans a ha⟩
    simp only [exec, execRejectedRequest, hreq, hcan, hnone, Option.isNone_none, Bool.and_self, if_true]
    rfl
  case phase =>
    rcases hp with ⟨hp, hq⟩ | ⟨hp, hq⟩
    · simp [phasesOf, hq, hp, allowed]
    · have hc : configRequest q = false := by cases q <;> simp_all [serviceRequest, configRequest]
      simp [phasesOf, hq, hc, hp, allowed]

/-! ### The bounds of the ports' queues (R150, R151, R160, R182) -/

theorem PortsBounded.of_steady {s t : State} (h : PortsBounded s) (hs : Steady s t) : PortsBounded t := by
  obtain ⟨hin, hreq, hans, hnot⟩ := h
  have ho := hs.outer
  exact ⟨by rw [show t.siteIn = s.siteIn from congrArg Outer.siteIn ho]; exact hin,
    by rw [show t.requests = s.requests from congrArg Outer.requests ho]; exact hreq,
    by rw [show t.answers = s.answers from congrArg Outer.answers ho]; exact hans, hs.notices hnot⟩

theorem answers_lt_of_canTake {s : State} (h : canTakeRequest s = true) : s.answers.length < 32 := by
  simp only [canTakeRequest, Bool.and_eq_true, decide_eq_true_eq] at h
  exact h.1

theorem exec_keeps_ports {c : Instr} {s t : State} (h : PortsBounded s) (ht : exec c s = .next t) : PortsBounded t := by
  rcases command_cases c with hc | hc | hc | rfl | hc
  · obtain ⟨t', ht', ⟨-, rfl⟩ | ⟨rx, more, out, residue, sent, drx, reqs, ans, dsent, lost, rfl, -, hin, -, hreq, hans⟩⟩ :=
      exec_ofPorts hc s <;> rw [ht] at ht' <;> cases ht'
    · exact ⟨Nat.zero_le _, Nat.zero_le _, Nat.zero_le _, Nat.zero_le _⟩
    · obtain ⟨h1, h2, h3, h4⟩ := h
      exact ⟨hin h1, hreq h2, hans h3, h4⟩
  · obtain ⟨t', ht', rfl | ⟨m, rest, hm, hi⟩⟩ := exec_siteFrame hc s <;> rw [ht] at ht' <;> cases ht'
    · exact h
    · obtain ⟨h1, h2, h3, h4⟩ := h
      rw [hm, List.length_cons] at h1
      exact PortsBounded.of_steady (s := { s with siteIn := rest }) ⟨Nat.le_of_succ_le h1, h2, h3, h4⟩ hi.steady
  · obtain ⟨t', ht', hi⟩ := exec_inside hc s
    rw [ht] at ht'
    cases ht'
    exact h.of_steady hi.steady
  · obtain ⟨t', ht', rfl | ⟨e, rest, hreq, hcan, rfl⟩⟩ := exec_rejected s <;> rw [ht] at ht' <;> cases ht'
    · exact h
    · obtain ⟨h1, h2, -, h4⟩ := h
      rw [hreq, List.length_cons] at h2
      exact ⟨h1, Nat.le_of_succ_le h2, by simpa [answered] using answers_lt_of_canTake hcan, h4⟩
  · obtain ⟨t', ht', rfl | ⟨partly, q, rfl, e, rest, hreq, -, hcan, ⟨-, rfl⟩ | ⟨-, rfl⟩⟩⟩ := exec_request hc s <;>
      rw [ht] at ht' <;> cases ht'
    · exact h
    · obtain ⟨h1, h2, -, h4⟩ := h
      rw [hreq, List.length_cons] at h2
      exact ⟨h1, Nat.le_of_succ_le h2, by simpa [answered] using answers_lt_of_canTake hcan, h4⟩
    · obtain ⟨h1, h2, -, h4⟩ := h
      rw [hreq, List.length_cons] at h2
      have hlt := answers_lt_of_canTake hcan
      have hn := meaning_notices_le q partly (s := { s with requests := rest }) h4
      have stays : (meaning partly q { s with requests := rest }).1.siteIn = s.siteIn ∧
          (meaning partly q { s with requests := rest }).1.requests = rest ∧
          (meaning partly q { s with requests := rest }).1.answers = s.answers := by
        by_cases hr : q = .restart
        · subst hr; exact ⟨rfl, rfl, rfl⟩
        · have ho := (meaning_outerStay hr partly { s with requests := rest }).outer
          exact ⟨congrArg Outer.siteIn ho, congrArg Outer.requests ho, congrArg Outer.answers ho⟩
      obtain ⟨e1, e2, e3⟩ := stays
      refine ⟨?_, ?_, ?_, hn⟩
      · change (meaning partly q { s with requests := rest }).1.siteIn.length ≤ 128
        rw [e1]; exact h1
      · change (meaning partly q { s with requests := rest }).1.requests.length ≤ 16
        rw [e2]; exact Nat.le_of_succ_le h2
      · change ((meaning partly q { s with requests := rest }).1.answers ++ [_]).length ≤ 32
        rw [e3, List.length_append]; exact hlt

/-- A step is a command on a state that differs in the model's own fields alone, or a tick. -/
theorem step_keeps {P : State → Prop} (hown : ∀ s p k, P s → P { s with pending := p, choices := k })
    (htime : ∀ s p k, P s → P { s with partTime := p, choices := k })
    (hexec : ∀ c s t, P s → exec c s = .next t → P t) {s t : State} (h : P s) (ht : step s = .next t) : P t := by
  unfold step at ht
  split at ht
  · exact hexec _ _ _ (hown s _ s.choices h) ht
  · split at ht
    · exact hexec _ _ _ (hown s s.pending _ h) ht
    · cases ht
      unfold tick
      split
      · exact htime s _ s.choices h
      · exact htime s _ _ h

/-- Settles O6: every command keeps the bounds, and the model's own fields and part time are no part of them. -/
theorem stepKeepsQueueBounds : Obligations.StepKeepsQueueBounds := fun _ _ h ht =>
  step_keeps (P := PortsBounded) (fun _ _ _ h => h) (fun _ _ _ h => h) (fun _ _ _ => exec_keeps_ports) h ht

end Sys2Proof.Machine

/-! CONFIG phase without records, calls and operations (R25, R189) through every command, and from it the order of the Call Table (R128)
and the agreement of pools and queues with the calls' maps (R134). -/

namespace Sys2Proof.Machine

/-! ### CONFIG phase is quiet -/

/-- Two states hold the same records, calls and operations. -/
structure SameWork (s t : State) : Prop where
  radios : t.radios = s.radios
  calls : t.calls = s.calls
  bulk : t.bulk = s.bulk
  waiting : t.bulkWaiting = s.bulkWaiting

theorem SameWork.refl (s : State) : SameWork s s := ⟨rfl, rfl, rfl, rfl⟩

theorem RecordsStay.sameWork {s t : State} (h : RecordsStay s t) : SameWork s t := ⟨h.radios, h.calls, h.bulk, h.bulkWaiting⟩

theorem ConfigQuiet.of_sameWork {s t : State} (h : ConfigQuiet s) (hp : t.phase = .config → s.phase = .config) (hw : SameWork s t) :
    ConfigQuiet t := by
  intro ht
  rw [hw.radios, hw.calls, hw.bulk, hw.waiting]
  exact h (hp ht)

/-- Without records and calls the darkening of a site changes the site alone. -/
theorem goDark_sameWork {s : State} (hr : s.radios = []) (hc : s.calls = []) (n : Nat) (failing : Bool) :
    SameWork s (goDark s n failing) := by
  constructor <;> simp [goDark, loseSiteCalls, hr, hc, tkeys]

theorem exec_inside_quiet {c : Instr} (h : isExpiry c = true ∨ c = .bulkStep) {s t : State} (hr : s.radios = []) (hc : s.calls = [])
    (hb : s.bulk = none) (ht : exec c s = .next t) : SameWork s t := by
  cases c
  case heartbeatExpiry n =>
    simp only [exec, execHeartbeatExpiry] at ht
    split at ht
    · split at ht <;> cases ht
      · exact goDark_sameWork hr hc n false
      · exact .refl s
    · split at ht <;> cases ht
      · exact goDark_sameWork hr hc n false
      · exact .refl s
    · cases ht; exact .refl s
  case settleExpiry u => simp only [exec, execSettleExpiry, hr, tget_nil, Option.bind_none] at ht; cases ht; exact .refl s
  case handoverDeadlineExpiry u => simp only [exec, execHandoverDeadlineExpiry, hr, tget_nil, Option.map_none] at ht; cases ht; exact .refl s
  case leaseExpiry u => simp only [exec, execLeaseExpiry, hr, tget_nil, Option.map_none] at ht; cases ht; exact .refl s
  case presumeHoldExpiry u => simp only [exec, execPresumeHoldExpiry, hr, tget_nil, Option.map_none] at ht; cases ht; exact .refl s
  case retireHoldExpiry u => simp only [exec, execRetireHoldExpiry, hr, tget_nil, Option.map_none] at ht; cases ht; exact .refl s
  case hangExpiry k => simp only [exec, execHangExpiry, hc, tget_nil, Option.map_none] at ht; cases ht; exact .refl s
  case queueHoldExpiry n k => simp only [exec, execQueueHoldExpiry, callStatus, hc, tget_nil] at ht; cases ht; exact .refl s
  case bulkStep => simp only [exec, execBulkStep, stepBulk, hb] at ht; cases ht; exact .refl s
  all_goals simp [isExpiry] at h

/-- In CONFIG phase a site frame has an answer at most (R27, R68, R90, R130). -/
theorem exec_siteFrame_config {c : Instr} (h : takesSiteFrame c = true) {s t : State} (hp : s.phase = .config)
    (ht : exec c s = .next t) : SameWork s t := by
  have report : ∀ (rest : List SiteMsg) (x : Copy), SameWork s (takeReport { s with siteIn := rest } x) := fun rest x => by
    constructor <;> simp [takeReport, withAnswer, setOut, refusal, hp]
  cases c
  case reg =>
    simp only [exec, execReg] at ht
    split at ht
    · split at ht <;> cases ht
      · exact report _ _
      · exact .refl s
    · cases ht; exact .refl s
  case heard =>
    simp only [exec, execHeard] at ht
    split at ht
    · split at ht <;> cases ht
      · exact report _ _
      · exact .refl s
    · cases ht; exact .refl s
  case emerg =>
    simp only [exec, execEmerg] at ht
    split at ht
    · split at ht <;> cases ht
      · exact report _ _
      · exact .refl s
    · cases ht; exact .refl s
  case dereg =>
    simp only [exec, execDereg] at ht
    split at ht
    · split at ht <;> cases ht
      · constructor <;> simp [takeDeregReport, withAnswer, setOut, refusal, hp]
      · exact .refl s
    · cases ht; exact .refl s
  case ready =>
    simp only [exec, execReady] at ht
    split at ht
    · split at ht <;> cases ht
      · constructor <;> simp [takeReady, admits, refusal, hp]
      · exact .refl s
    · cases ht; exact .refl s
  case quiesced =>
    simp only [exec, execQuiesced] at ht
    split at ht
    · split at ht <;> cases ht
      · constructor <;> simp [takeQuiesced, admits, refusal, hp]
      · exact .refl s
    · cases ht; exact .refl s
  case decline =>
    simp only [exec, execDecline] at ht
    split at ht
    · split at ht <;> cases ht
      · constructor <;> simp [takeDecline, admits, refusal, hp]
      · exact .refl s
    · cases ht; exact .refl s
  case siteStatus =>
    simp only [exec, execSiteStatus] at ht
    split at ht <;> cases ht
    · constructor <;> simp [takeStatus, hp]
    · exact .refl s
  case callRequest =>
    simp only [exec, execCallRequest] at ht
    split at ht
    · split at ht <;> cases ht
      · constructor <;> simp [takeCallRequest, withAnswer, setOut, hp]
      · exact .refl s
    · cases ht; exact .refl s
  case callEnd =>
    simp only [exec, execCallEnd] at ht
    split at ht <;> cases ht
    · constructor <;> simp [takeCallEnd, admits, refusal, hp]
    · exact .refl s
  all_goals simp [takesSiteFrame] at h

theorem allowed_phasesOf_config {q : Request} (hq : serviceRequest q = true) : allowed (phasesOf q) .config = false := by
  have hc : configRequest q = false := by cases q <;> simp_all [serviceRequest, configRequest]
  simp [phasesOf, hq, hc, allowed]

theorem meaning_quiet {q : Request} {partly : Bool} {s : State} (h : ConfigQuiet s) (ha : allowed (phasesOf q) s.phase = true) :
    ConfigQuiet (meaning partly q s).1 := by
  by_cases hr : q = .restart
  · subst hr; exact fun _ => ⟨rfl, rfl, rfl, rfl⟩
  · by_cases hq : serviceRequest q = true
    · intro ht
      rw [show (meaning partly q s).1.phase = s.phase from congrArg Outer.phase (inner_meaning hq partly s).steady.outer] at ht
      rw [ht, allowed_phasesOf_config hq] at ha
      cases ha
    · refine h.of_sameWork (fun ht => ?_) (meaning_recordsStay (by simpa using hq) hr partly s).sameWork
      by_cases ho : q = .openService
      · subst ho
        simp only [meaning, doOpen] at ht
        split at ht
        · exact ht
        · cases ht
      · rw [← (meaning_outerStay hr partly s).phase ho]; exact ht

theorem exec_keeps_quiet {c : Instr} {s t : State} (h : ConfigQuiet s) (ht : exec c s = .next t) : ConfigQuiet t := by
  rcases command_cases c with hc | hc | hc | rfl | hc
  · obtain ⟨t', ht', ⟨-, rfl⟩ | ⟨rx, more, out, residue, sent, drx, reqs, ans, dsent, lost, rfl, -⟩⟩ :=
      exec_ofPorts hc s <;> rw [ht] at ht' <;> cases ht'
    · exact fun _ => ⟨rfl, rfl, rfl, rfl⟩
    · exact h
  · have hp : t.phase = s.phase := by
      obtain ⟨t', ht', rfl | ⟨m, rest, -, hi⟩⟩ := exec_siteFrame hc s <;> rw [ht] at ht' <;> cases ht'
      · rfl
      · exact congrArg Outer.phase hi.steady.outer
    intro htp
    exact h.of_sameWork (fun _ => hp ▸ htp) (exec_siteFrame_config hc (hp ▸ htp) ht) htp
  · have hp : t.phase = s.phase := by
      obtain ⟨t', ht', hi⟩ := exec_inside hc s
      rw [ht] at ht'
      cases ht'
      exact congrArg Outer.phase hi.steady.outer
    intro htp
    obtain ⟨hr, hcalls, hb, -⟩ := h (hp ▸ htp)
    exact h.of_sameWork (fun _ => hp ▸ htp) (exec_inside_quiet hc hr hcalls hb ht) htp
  · obtain ⟨t', ht', rfl | ⟨e, rest, -, -, rfl⟩⟩ := exec_rejected s <;> rw [ht] at ht' <;> cases ht'
    · exact h
    · exact h
  · obtain ⟨t', ht', rfl | ⟨partly, q, -, e, rest, -, -, -, ⟨-, rfl⟩ | ⟨hall, rfl⟩⟩⟩ := exec_request hc s <;>
      rw [ht] at ht' <;> cases ht'
    · exact h
    · exact h
    · exact meaning_quiet (s := { s with requests := rest }) h hall

/-! ### The Call Table (R128) -/

theorem CallTable.of_eq {s t : State} (h : CallTable s) (hc : t.calls = s.calls) (hg : t.groups = s.groups) : CallTable t :=
  h.of_same (by rw [hc]; exact h.calls) (by rw [hg]; exact h.groups) (by simp [hc]) (by simp [hg])

/-- Without calls the Call Table is in order where no group has an active call. -/
theorem callTable_of_none {t : State} (hc : t.calls = []) (hg : Ascending t.groups)
    (ha : ∀ {g x}, tget t.groups g = some x → x.activeCall = none) : CallTable t :=
  ⟨by simp [hc], hg, by simp [hc], by simp [hc], fun hx he => by rw [ha hx] at he; cases he⟩

theorem CallTable.no_active {s : State} (h : CallTable s) (hc : s.calls = []) {g : Nat} {x : Group} (hx : tget s.groups g = some x) :
    x.activeCall = none := by
  by_contra hne
  obtain ⟨c, he⟩ := Option.ne_none_iff_exists'.1 hne
  obtain ⟨y, hy, -⟩ := h.call hx he
  rw [hc] at hy
  cases hy

/-- A group that was not configured enters without a call. -/
theorem CallTable.enterGroup {s t : State} (h : CallTable s) {g : Nat} {x : Group} (hg : tget s.groups g = none)
    (hx : x.activeCall = none) (hc : t.calls = s.calls) (ht : t.groups = tput s.groups g x) : CallTable t := by
  refine ⟨by rw [hc]; exact h.calls, by rw [ht]; exact ascending_tput _ _ _ h.groups, by rw [hc]; exact h.ident, fun hy => ?_,
    fun hk he => ?_⟩
  · rw [hc] at hy
    obtain ⟨z, hz, e⟩ := h.active hy
    refine ⟨z, ?_, e⟩
    rw [ht, tget_tput, if_neg (fun e => by rw [e, hg] at hz; cases hz)]
    exact hz
  · rw [ht, tget_tput] at hk
    rw [hc]
    split at hk
    · cases hk; rw [hx] at he; cases he
    · exact h.call hk he

theorem meaning_table {q : Request} {partly : Bool} {s : State} (hq : ConfigQuiet s) (ha : allowed (phasesOf q) s.phase = true)
    (h : CallTable s) : CallTable (meaning partly q s).1 := by
  by_cases hs : serviceRequest q = true
  · exact (inner_meaning hs partly s).table h
  cases q
  case defineSite n c v b hy i o => simp only [meaning, doDefineSite]; split <;> exact h.of_eq rfl rfl
  case setSite n c v b hy i o =>
    simp only [meaning, doSetSite]
    split
    · split
      · exact h
      · exact (inner_settleOver _ n).table (h.of_eq rfl rfl)
    · exact h
  case setNeighbours n l => simp only [meaning, doSetNeighbours]; split <;> exact h.of_eq rfl rfl
  case undefineSite n =>
    simp only [meaning, doUndefineSite]
    split
    · refine h.of_same h.calls (ascending_map s.groups (fun x => { x with fixed := x.fixed.filter (· != n) }) h.groups)
        (fun _ => rfl) fun g => ?_
      simp only [tget_map s.groups (fun x => { x with fixed := x.fixed.filter (· != n) }) g, Option.map_map]
      rfl
    · exact h
  case defineGroup g p l =>
    simp only [meaning, doDefineGroup]
    split
    · cases hg : tget s.groups g with
      | some x =>
        refine h.of_same h.calls (ascending_tput _ _ _ h.groups) (fun _ => rfl) fun k => ?_
        simp only [tget_tput]
        split
        · subst_vars; simp [hg]
        · rfl
      | none =>
        exact h.enterGroup hg rfl rfl rfl
    · exact h
  case setGroup g p l =>
    simp only [meaning, doSetGroup]
    split
    · refine h.of_same h.calls (ascending_tmod _ _ _ h.groups) (fun _ => rfl) fun k => ?_
      simp only [modGroup_groups, tget_tmod]
      split
      · cases tget s.groups k <;> rfl
      · rfl
    · exact h
  case undefineGroup g =>
    have hc : s.calls = [] := by
      have hp : s.phase = .config := by cases e : s.phase <;> simp [phasesOf, configRequest, allowed, e] at ha ⊢
      exact (hq hp).2.1
    simp only [meaning, doUndefineGroup]
    split
    · refine callTable_of_none hc (ascending_tdel _ _ h.groups) fun {k x} hx => ?_
      have hm := mem_tdel (mem_of_tget hx)
      exact h.no_active hc (tget_of_mem h.groups hm)
    · exact h
  case setParameter n v => simp only [meaning, doSetParameter]; split <;> exact h.of_eq rfl rfl
  case openService => simp only [meaning, doOpen]; split <;> exact h.of_eq rfl rfl
  case restart =>
    refine callTable_of_none rfl (ascending_map s.groups restartGroup h.groups) fun {k x} hx => ?_
    simp only [meaning, doRestart, tget_map s.groups restartGroup k, Option.map_eq_some_iff] at hx
    obtain ⟨y, -, rfl⟩ := hx
    rfl
  case locate u => simp only [meaning, doLocate]; split <;> exact h
  case siteQuery n => simp only [meaning, doSiteQuery]; split <;> exact h
  case groupQuery g => simp only [meaning, doGroupQuery]; split <;> exact h
  case callQuery c => simp only [meaning, doCallQuery]; split <;> exact h
  case bulkStatus => exact h
  case nextNotice => simp only [meaning, doNextNotice]; split <;> exact h.of_eq rfl rfl
  case portStatus => exact h.of_eq rfl rfl
  all_goals simp [serviceRequest] at hs

theorem exec_keeps_table {c : Instr} {s t : State} (hq : ConfigQuiet s) (h : CallTable s) (ht : exec c s = .next t) : CallTable t := by
  rcases command_cases c with hc | hc | hc | rfl | hc
  · obtain ⟨t', ht', ⟨-, rfl⟩ | ⟨rx, more, out, residue, sent, drx, reqs, ans, dsent, lost, rfl, -⟩⟩ :=
      exec_ofPorts hc s <;> rw [ht] at ht' <;> cases ht'
    · exact callTable_of_none rfl ascending_nil fun hx => nomatch hx
    · exact h.of_eq rfl rfl
  · obtain ⟨t', ht', rfl | ⟨m, rest, -, hi⟩⟩ := exec_siteFrame hc s <;> rw [ht] at ht' <;> cases ht'
    · exact h
    · exact hi.table (h.of_eq rfl rfl)
  · obtain ⟨t', ht', hi⟩ := exec_inside hc s
    rw [ht] at ht'
    cases ht'
    exact hi.table h
  · obtain ⟨t', ht', rfl | ⟨e, rest, -, -, rfl⟩⟩ := exec_rejected s <;> rw [ht] at ht' <;> cases ht'
    · exact h
    · exact h.of_eq rfl rfl
  · obtain ⟨t', ht', rfl | ⟨partly, q, -, e, rest, -, -, -, ⟨-, rfl⟩ | ⟨hall, rfl⟩⟩⟩ := exec_request hc s <;>
      rw [ht] at ht' <;> cases ht'
    · exact h
    · exact h.of_eq rfl rfl
    · exact (meaning_table (s := { s with requests := rest }) hq hall (h.of_eq rfl rfl)).of_eq rfl rfl

/-- Settles O14: the work inside events keeps the Call Table in order, and configuration finds no call (R128, R189). -/
theorem stepKeepsCallTable : Obligations.StepKeepsCallTable := fun s t h ht => by
  refine step_keeps (P := CallTableOk) (fun _ _ _ h => h) (fun _ _ _ h => h) (fun c s t h ht => ?_) h ht
  obtain ⟨htab, hq⟩ := (callTableOk_iff s).1 h
  exact (callTableOk_iff t).2 ⟨exec_keeps_table hq htab ht, exec_keeps_quiet hq ht⟩

/-! ### Pools and queues (R134) -/

theorem statuses_of_no_calls {s : State} (hc : s.calls = []) (n c : Nat) : statuses s n c = none := by
  simp [statuses, callStatus, hc]

/-- Without calls a site's pool and queue agree with the maps where the queue is empty. -/
theorem pools_of_none {t : State} (hc : t.calls = []) (hq : ∀ {n v queue}, poolOf t n = some (v, queue) → queue = []) : Pools t := by
  refine ⟨fun p hp => absurd (hc ▸ hp) List.not_mem_nil, fun n v queue he => ?_⟩
  rw [hq he]
  refine ⟨?_, ?_, List.nodup_nil, Nat.zero_le _, ?_, fun hne => absurd rfl hne⟩ <;> intros <;>
    simp_all [statuses_of_no_calls hc]

theorem Pools.queue_nil {s : State} (h : Pools s) (hc : s.calls = []) {n v : Nat} {queue : List Nat}
    (he : poolOf s n = some (v, queue)) : queue = [] := by
  refine List.eq_nil_iff_forall_not_mem.2 fun c hm => ?_
  obtain ⟨y, z, e⟩ := ((h.pools n v queue he).queued c).1 hm
  rw [statuses_of_no_calls hc] at e
  cases e

theorem Pools.of_pools {s t : State} (h : Pools s) (hc : t.calls = s.calls) (hp : ∀ n, poolOf t n = poolOf s n) : Pools t := by
  refine ⟨mapsAscend_congr hc h.maps, fun n v queue he => ?_⟩
  rw [hp] at he
  rw [statuses_congr hc]
  exact h.pools n v queue he

theorem Pools.of_eq {s t : State} (h : Pools s) (hc : t.calls = s.calls) (hs : t.sites = s.sites) : Pools t :=
  h.of_pools hc fun n => poolOf_congr (by rw [hs])

theorem poolOf_some_iff {s : State} {n v : Nat} {queue : List Nat} :
    poolOf s n = some (v, queue) ↔ ∃ x, tget s.sites n = some x ∧ x.voice = v ∧ x.queue = queue := by
  simp [poolOf, Option.map_eq_some_iff]

theorem meaning_pools {q : Request} {partly : Bool} {s : State} (hq : ConfigQuiet s) (ha : allowed (phasesOf q) s.phase = true)
    (htab : CallTable s) (hs : Ascending s.sites) (h : Pools s) :
    Ascending (meaning partly q s).1.sites ∧ Pools (meaning partly q s).1 := by
  by_cases hser : serviceRequest q = true
  · exact ⟨(inner_meaning hser partly s).steady.sites hs, (inner_meaning hser partly s).pools htab hs h⟩
  have config : phasesOf q = .configOnly → s.calls = [] := fun hc => by
    have hp : s.phase = .config := by cases e : s.phase <;> simp [hc, allowed, e] at ha ⊢
    exact (hq hp).2.1
  cases q
  case defineSite n c v b hy i o =>
    simp only [meaning, doDefineSite]
    split
    · refine ⟨ascending_tput _ _ _ hs, pools_of_none (config rfl) fun {m v queue} he => ?_⟩
      obtain ⟨x, hx, -, rfl⟩ := poolOf_some_iff.1 he
      rw [tget_tput] at hx
      split at hx
      · cases hx
        cases hn : tget s.sites n with
        | none => rfl
        | some y => exact h.queue_nil (config rfl) (poolOf_some_iff.2 ⟨y, hn, rfl, rfl⟩)
      · exact h.queue_nil (config rfl) (poolOf_some_iff.2 ⟨x, hx, rfl, rfl⟩)
    · exact ⟨hs, h⟩
  case setSite n c v b hy i o =>
    simp only [meaning, doSetSite]
    split
    · rename_i x hx
      split
      · exact ⟨hs, h⟩
      · rename_i hv
        have hx' : tget s.sites n = some x := by
          unfold findSite at hx
          split at hx
          · exact hx
          · cases hx
        have mid : Pools (modSite s n fun x => { x with
            capacity := (c.map clampCapacity).getD x.capacity, voice := (v.map clampVoice).getD x.voice,
            bias := (b.map clampBias).getD x.bias, hysteresis := (hy.map clampHysteresis).getD x.hysteresis,
            acceptIn := i.getD x.acceptIn, releaseOut := o.getD x.releaseOut }) := by
          cases hp : s.phase with
          | config =>
            refine pools_of_none (hq hp).2.1 fun {m v queue} he => ?_
            obtain ⟨y, hy, -, rfl⟩ := poolOf_some_iff.1 he
            simp only [modSite_sites, tget_tmod] at hy
            split at hy
            · obtain ⟨z, hz, rfl⟩ := Option.map_eq_some_iff.1 hy
              exact h.queue_nil (hq hp).2.1 (poolOf_some_iff.2 ⟨z, hz, rfl, rfl⟩)
            · exact h.queue_nil (hq hp).2.1 (poolOf_some_iff.2 ⟨y, hy, rfl, rfl⟩)
          | service =>
            have hvoice : (v.map clampVoice).getD x.voice = x.voice := by
              cases v with
              | none => rfl
              | some v' => simpa [voiceRefused, hp] using hv
            refine h.of_pools rfl fun m => ?_
            simp only [poolOf, modSite_sites, tget_tmod]
            split
            · subst_vars; simp [hx', hvoice]
            · rfl
        exact ⟨(inner_settleOver _ n).steady.sites (ascending_tmod _ _ _ hs),
          (inner_settleOver _ n).pools (htab.of_eq rfl rfl) (ascending_tmod _ _ _ hs) mid⟩
    · exact ⟨hs, h⟩
  case setNeighbours n l =>
    simp only [meaning, doSetNeighbours]
    split
    · refine ⟨ascending_tmod _ _ _ hs, h.of_pools rfl fun m => ?_⟩
      simp only [poolOf, modSite_sites, tget_tmod]
      split
      · cases tget s.sites m <;> rfl
      · rfl
    · exact ⟨hs, h⟩
  case undefineSite n =>
    simp only [meaning, doUndefineSite]
    split
    · refine ⟨ascending_map (tdel s.sites n) (fun x => { x with neighbours := x.neighbours.filter (· != n) }) (ascending_tdel _ _ hs),
        pools_of_none (config rfl) fun {m v queue} he => ?_⟩
      obtain ⟨x, hx, -, rfl⟩ := poolOf_some_iff.1 he
      simp only [tget_map (tdel s.sites n) (fun x => { x with neighbours := x.neighbours.filter (· != n) }) m,
        Option.map_eq_some_iff] at hx
      obtain ⟨y, hy, rfl⟩ := hx
      exact h.queue_nil (config rfl) (poolOf_some_iff.2 ⟨y, tget_of_mem hs (mem_tdel (mem_of_tget hy)), rfl, rfl⟩)
    · exact ⟨hs, h⟩
  case defineGroup g p l => simp only [meaning, doDefineGroup]; split <;> exact ⟨hs, h.of_eq rfl rfl⟩
  case setGroup g p l => simp only [meaning, doSetGroup]; split <;> exact ⟨hs, h.of_eq rfl rfl⟩
  case undefineGroup g => simp only [meaning, doUndefineGroup]; split <;> exact ⟨hs, h.of_eq rfl rfl⟩
  case setParameter n v => simp only [meaning, doSetParameter]; split <;> exact ⟨hs, h.of_eq rfl rfl⟩
  case openService => simp only [meaning, doOpen]; split <;> exact ⟨hs, h.of_eq rfl rfl⟩
  case restart =>
    refine ⟨ascending_map s.sites restartSite hs, pools_of_none rfl fun {m v queue} he => ?_⟩
    obtain ⟨x, hx, -, rfl⟩ := poolOf_some_iff.1 he
    simp only [meaning, doRestart, tget_map s.sites restartSite m, Option.map_eq_some_iff] at hx
    obtain ⟨y, -, rfl⟩ := hx
    rfl
  case locate u => simp only [meaning, doLocate]; split <;> exact ⟨hs, h⟩
  case siteQuery n => simp only [meaning, doSiteQuery]; split <;> exact ⟨hs, h⟩
  case groupQuery g => simp only [meaning, doGroupQuery]; split <;> exact ⟨hs, h⟩
  case callQuery c => simp only [meaning, doCallQuery]; split <;> exact ⟨hs, h⟩
  case bulkStatus => exact ⟨hs, h⟩
  case nextNotice => simp only [meaning, doNextNotice]; split <;> exact ⟨hs, h.of_eq rfl rfl⟩
  case portStatus => exact ⟨hs, h.of_eq rfl rfl⟩
  all_goals simp [serviceRequest] at hser

theorem exec_keeps_pools {c : Instr} {s t : State} (hq : ConfigQuiet s) (htab : CallTable s) (hs : Ascending s.sites) (h : Pools s)
    (ht : exec c s = .next t) : Ascending t.sites ∧ Pools t := by
  rcases command_cases c with hc | hc | hc | rfl | hc
  · obtain ⟨t', ht', ⟨-, rfl⟩ | ⟨rx, more, out, residue, sent, drx, reqs, ans, dsent, lost, rfl, -⟩⟩ :=
      exec_ofPorts hc s <;> rw [ht] at ht' <;> cases ht'
    · exact ⟨ascending_nil, pools_of_none rfl fun he => nomatch he⟩
    · exact ⟨hs, h.of_eq rfl rfl⟩
  · obtain ⟨t', ht', rfl | ⟨m, rest, -, hi⟩⟩ := exec_siteFrame hc s <;> rw [ht] at ht' <;> cases ht'
    · exact ⟨hs, h⟩
    · exact ⟨hi.steady.sites hs, hi.pools (htab.of_eq rfl rfl) hs (h.of_eq rfl rfl)⟩
  · obtain ⟨t', ht', hi⟩ := exec_inside hc s
    rw [ht] at ht'
    cases ht'
    exact ⟨hi.steady.sites hs, hi.pools htab hs h⟩
  · obtain ⟨t', ht', rfl | ⟨e, rest, -, -, rfl⟩⟩ := exec_rejected s <;> rw [ht] at ht' <;> cases ht'
    · exact ⟨hs, h⟩
    · exact ⟨hs, h.of_eq rfl rfl⟩
  · obtain ⟨t', ht', rfl | ⟨partly, q, -, e, rest, -, -, -, ⟨-, rfl⟩ | ⟨hall, rfl⟩⟩⟩ := exec_request hc s <;>
      rw [ht] at ht' <;> cases ht'
    · exact ⟨hs, h⟩
    · exact ⟨hs, h.of_eq rfl rfl⟩
    · obtain ⟨h1, h2⟩ := meaning_pools (partly := partly) (s := { s with requests := rest }) hq hall (htab.of_eq rfl rfl) hs
        (h.of_eq rfl rfl)
      exact ⟨h1, h2.of_eq rfl rfl⟩

/-- Settles O13: the work inside events keeps pools and queues in agreement with the maps, and configuration finds no call or leaves the
pools (R105, R134, R189). -/
theorem stepKeepsChannelsAndQueues : Obligations.StepKeepsChannelsAndQueues := fun s t h ht => by
  refine step_keeps (P := ChannelsAgree) (fun _ _ _ h => h) (fun _ _ _ h => h) (fun c s t h ht => ?_) h ht
  obtain ⟨htab, hq, hs, hp⟩ := (channelsAgree_iff s).1 h
  obtain ⟨hs', hp'⟩ := exec_keeps_pools hq htab hs hp ht
  exact (channelsAgree_iff t).2 ⟨exec_keeps_table hq htab ht, exec_keeps_quiet hq ht, hs', hp'⟩

end Sys2Proof.Machine

/-! The books of the part: the registration counts, member counts, totals and unreached counts, what each record charges to them, and
how the shared operations post to them (R97, R114, R122). -/

namespace Sys2Proof.Machine

/-! ### Accounts -/

/-- The counts that records add to. -/
inductive Account where
  | registered (n : Nat)
  | members (g n : Nat)
  | total (g : Nat)
  | unreached (g : Nat)
deriving DecidableEq

/-- A registration count (R97). -/
def Account.isRegistered : Account → Bool
  | .registered _ => true
  | _ => false

/-- A member count at a site (R114). -/
def Account.isMembers : Account → Bool
  | .members _ _ => true
  | _ => false

/-- The value of a count, where its site or group is configured. -/
def balance (s : State) : Account → Option Nat
  | .registered n => (tget s.sites n).map Site.count
  | .members g n => (tget s.groups g).map fun x => (tget x.counts n).getD 0
  | .total g => (tget s.groups g).map Group.total
  | .unreached g => (tget s.groups g).map Group.unreached

/-- The step from s to t takes `down` from the counts and adds `up` to them, where a count holds what is taken. Member counts are kept in
an ascending list. -/
structure Posted (s t : State) (down up : Multiset Account) : Prop where
  ascend : countsAscend s → countsAscend t
  absent : ∀ {a}, balance s a = none → balance t a = none
  moves : ∀ {a x}, (a.isMembers = true → countsAscend s) → balance s a = some x → down.count a ≤ x →
    ∃ y, balance t a = some y ∧ y + down.count a = x + up.count a

theorem Posted.of_balance {s t : State} (hc : countsAscend s → countsAscend t) (h : ∀ a, balance t a = balance s a) :
    Posted s t 0 0 :=
  ⟨hc, fun {a} hn => (h a).trans hn, fun {a x} _ hx _ => ⟨x, (h a).trans hx, by simp⟩⟩

theorem Posted.refl (s : State) : Posted s s 0 0 := .of_balance id fun _ => rfl

theorem Posted.trans {a b c : State} {d1 u1 d2 u2 : Multiset Account} (h1 : Posted a b d1 u1) (h2 : Posted b c d2 u2) :
    Posted a c (d1 + d2) (u1 + u2) := by
  refine ⟨h2.ascend ∘ h1.ascend, fun hn => h2.absent (h1.absent hn), fun {k x} hm hx hle => ?_⟩
  rw [Multiset.count_add] at hle
  obtain ⟨y, hy, e1⟩ := h1.moves hm hx (by omega)
  obtain ⟨z, hz, e2⟩ := h2.moves (fun hk => h1.ascend (hm hk)) hy (by omega)
  exact ⟨z, hz, by simp only [Multiset.count_add]; omega⟩

/-- A step that moves no count may stand after a posting. -/
theorem Posted.then {a b c : State} {d u : Multiset Account} (h1 : Posted a b d u) (h2 : Posted b c 0 0) : Posted a c d u := by
  simpa using h1.trans h2

/-- A step that moves no count may stand before a posting. -/
theorem Posted.after {a b c : State} {d u : Multiset Account} (h2 : Posted b c d u) (h1 : Posted a b 0 0) : Posted a c d u := by
  simpa using h1.trans h2

theorem Posted.foldl {β : Type} {f : State → β → State} {d u : β → Multiset Account} (h : ∀ s x, Posted s (f s x) (d x) (u x))
    (l : List β) (s : State) : Posted s (l.foldl f s) (l.map d).sum (l.map u).sum := by
  induction l generalizing s with
  | nil => exact .refl s
  | cons x l ih => exact (h s x).trans (ih _)

/-! ### Steps that move no count -/

theorem balance_congr {s t : State} (hs : ∀ n, (tget t.sites n).map Site.count = (tget s.sites n).map Site.count)
    (hg : t.groups = s.groups) (a : Account) : balance t a = balance s a := by
  cases a with
  | registered n => exact hs n
  | members | total | unreached => simp only [balance, hg]

theorem Posted.of_groups {s t : State} (hs : ∀ n, (tget t.sites n).map Site.count = (tget s.sites n).map Site.count)
    (hg : t.groups = s.groups) : Posted s t 0 0 :=
  .of_balance (by simp [countsAscend, hg]) (balance_congr hs hg)

theorem CallFrame.posted {s t : State} (h : CallFrame s t) : Posted s t 0 0 := .of_groups h.counts h.groups

theorem SendFrame.posted {s t : State} (h : SendFrame s t) : Posted s t 0 0 := .of_groups h.counts h.groups

theorem posted_modRadio (s : State) (u : Nat) (f : Radio → Radio) : Posted s (modRadio s u f) 0 0 := .of_groups (fun _ => rfl) rfl

theorem posted_raise (s : State) (b : NoticeBody) : Posted s (raise s b) 0 0 := (sendFrame_raise s b).posted

/-! ### Postings -/

/-- A change of one site's registration count. -/
theorem posted_modSite {s : State} {n : Nat} {f : Site → Site} {d u : Multiset Account}
    (hd : ∀ a, a ≠ .registered n → d.count a = 0 ∧ u.count a = 0)
    (hf : ∀ x, d.count (.registered n) ≤ x.count → (f x).count + d.count (.registered n) = x.count + u.count (.registered n)) :
    Posted s (modSite s n f) d u := by
  have other : ∀ a, a ≠ .registered n → balance (modSite s n f) a = balance s a := by
    intro a ha
    cases a with
    | registered m =>
      have hm : m ≠ n := fun e => ha (by rw [e])
      simp only [balance, modSite_sites, tget_tmod_ne _ _ hm]
    | members | total | unreached => rfl
  have self : balance (modSite s n f) (.registered n) = (tget s.sites n).map fun x => (f x).count := by
    simp only [balance, modSite_sites, tget_tmod_self, Option.map_map]; rfl
  refine ⟨id, fun {a} hn => ?_, fun {a x} _ hx hle => ?_⟩ <;> by_cases ha : a = .registered n
  · subst ha
    rw [self]
    simp only [balance, Option.map_eq_none_iff] at hn ⊢
    exact hn
  · rw [other a ha]; exact hn
  · subst ha
    obtain ⟨y, hy, rfl⟩ := Option.map_eq_some_iff.1 hx
    exact ⟨(f y).count, by rw [self, hy]; rfl, hf y hle⟩
  · obtain ⟨h1, h2⟩ := hd a ha
    exact ⟨x, by rw [other a ha]; exact hx, by omega⟩

theorem posted_addReg (s : State) (n : Nat) : Posted s (addReg s n) 0 {.registered n} :=
  posted_modSite (fun a ha => ⟨by simp, by simp [ha]⟩) fun x _ => by simp

theorem posted_subReg (s : State) (n : Nat) : Posted s (subReg s n) {.registered n} 0 :=
  posted_modSite (fun a ha => ⟨by simp [ha], by simp⟩) fun x hle => by
    have h : (clearOver { x with count := x.count - 1 }).count = x.count - 1 := fallen_count x
    rw [h]
    simp only [Multiset.count_singleton_self, Multiset.count_zero] at hle ⊢
    omega

theorem getD_setCount {counts : Table Nat} (h : Ascending counts) (n v m : Nat) :
    (tget (setCount counts n v) m).getD 0 = if m = n then v else (tget counts m).getD 0 := by
  unfold setCount
  split
  · rename_i hv
    split
    · rename_i hm; rw [hm, tget_tdel_self _ _ h, hv]; rfl
    · rename_i hm; rw [tget_tdel_ne _ hm]
  · rw [tget_tput]
    split <;> rfl

/-- What one group's record says of its own counts. -/
def groupBalance (x : Group) : Account → Nat
  | .registered _ => 0
  | .members _ n => (tget x.counts n).getD 0
  | .total _ => x.total
  | .unreached _ => x.unreached

/-- The group that a count is kept for. -/
def Account.group : Account → Option Nat
  | .registered _ => none
  | .members g _ => some g
  | .total g => some g
  | .unreached g => some g

theorem balance_of_group (s : State) {a : Account} {g : Nat} (h : a.group = some g) :
    balance s a = (tget s.groups g).map fun x => groupBalance x a := by
  cases a <;> cases h <;> rfl

/-- A change of one group's counts. -/
theorem posted_modGroup {s : State} {g : Nat} {f : Group → Group} {d u : Multiset Account}
    (hc : ∀ x, Ascending x.counts → Ascending (f x).counts)
    (hd : ∀ a, a.group ≠ some g → d.count a = 0 ∧ u.count a = 0)
    (hf : ∀ x a, a.group = some g → (a.isMembers = true → Ascending x.counts) → d.count a ≤ groupBalance x a →
      groupBalance (f x) a + d.count a = groupBalance x a + u.count a) :
    Posted s (modGroup s g f) d u := by
  have other : ∀ a, a.group ≠ some g → balance (modGroup s g f) a = balance s a := by
    intro a ha
    cases hk : a.group with
    | none => cases a <;> cases hk; rfl
    | some k =>
      rw [hk] at ha
      rw [balance_of_group _ hk, balance_of_group _ hk, modGroup_groups, tget_tmod_ne _ _ fun e => ha (by rw [e])]
  have self : ∀ a, a.group = some g → balance (modGroup s g f) a = (tget s.groups g).map fun x => groupBalance (f x) a := by
    intro a ha
    rw [balance_of_group _ ha, modGroup_groups, tget_tmod_self, Option.map_map]; rfl
  refine ⟨fun h p hp => ?_, fun {a} hn => ?_, fun {a x} hm hx hle => ?_⟩
  · rcases mem_tmod hp with hp | ⟨x, hx, rfl⟩
    · exact h p hp
    · exact hc x (h _ (mem_of_tget hx))
  · by_cases ha : a.group = some g
    · rw [balance_of_group _ ha, Option.map_eq_none_iff] at hn
      rw [self a ha, hn]; rfl
    · rw [other a ha]; exact hn
  · by_cases ha : a.group = some g
    · rw [balance_of_group _ ha] at hx
      obtain ⟨y, hy, rfl⟩ := Option.map_eq_some_iff.1 hx
      exact ⟨groupBalance (f y) a, by rw [self a ha, hy]; rfl, hf y a ha (fun hk => hm hk _ (mem_of_tget hy)) hle⟩
    · obtain ⟨h1, h2⟩ := hd a ha
      exact ⟨x, by rw [other a ha]; exact hx, by omega⟩

theorem count_single_of_group {a b : Account} {g : Nat} (hb : b.group = some g) (ha : a.group ≠ some g) :
    ({b} : Multiset Account).count a = 0 := by
  rw [Multiset.count_singleton, if_neg]
  rintro rfl
  exact ha hb

theorem posted_addMember (s : State) (g n : Nat) : Posted s (addMember s g n) 0 {.members g n} := by
  refine posted_modGroup (fun x h => ascending_setCount (counts := x.counts) n ((tget x.counts n).getD 0 + 1) h)
    (fun a ha => ⟨by simp, count_single_of_group rfl ha⟩)
    fun x a ha hm hle => ?_
  cases a with
  | members k m =>
    cases ha
    simp only [groupBalance, getD_setCount (hm rfl), Multiset.count_zero, Multiset.count_singleton, Account.members.injEq, true_and]
    split <;> simp_all
  | registered | total | unreached => simp [groupBalance]

theorem posted_subMember (s : State) (g n : Nat) : Posted s (subMember s g n) {.members g n} 0 := by
  refine posted_modGroup (fun x h => ascending_setCount (counts := x.counts) n _ h) (fun a ha => ⟨count_single_of_group rfl ha, by simp⟩)
    fun x a ha hm hle => ?_
  cases a with
  | members k m =>
    cases ha
    simp only [groupBalance, getD_setCount (hm rfl), Multiset.count_zero, Multiset.count_singleton, Account.members.injEq,
      true_and] at hle ⊢
    split <;> simp_all
  | registered | total | unreached => simp [groupBalance]

theorem posted_addTotal (s : State) (g : Nat) : Posted s (addTotal s g) 0 {.total g} := by
  refine posted_modGroup (fun _ h => h) (fun a ha => ⟨by simp, count_single_of_group rfl ha⟩) fun x a ha _ hle => ?_
  cases a with
  | total k => cases ha; simp [groupBalance]
  | registered | members | unreached => simp [groupBalance]

theorem posted_subTotal (s : State) (g : Nat) : Posted s (subTotal s g) {.total g} 0 := by
  refine posted_modGroup (fun _ h => h) (fun a ha => ⟨count_single_of_group rfl ha, by simp⟩) fun x a ha _ hle => ?_
  cases a with
  | total k => cases ha; simp only [groupBalance, Multiset.count_singleton_self, Multiset.count_zero] at hle ⊢; omega
  | registered | members | unreached => simp [groupBalance]

theorem posted_raiseUnreached (s : State) (g : Nat) : Posted s (raiseUnreached s g) 0 {.unreached g} := by
  refine posted_modGroup (fun _ h => h) (fun a ha => ⟨by simp, count_single_of_group rfl ha⟩) fun x a ha _ hle => ?_
  cases a with
  | unreached k => cases ha; simp [groupBalance]
  | registered | members | total => simp [groupBalance]

theorem posted_lowerUnreached (s : State) (g : Nat) : Posted s (lowerUnreached s g) {.unreached g} 0 := by
  have h : Posted s (modGroup s g fun y => { y with unreached := y.unreached - 1 }) {.unreached g} 0 := by
    refine posted_modGroup (fun _ h => h) (fun a ha => ⟨count_single_of_group rfl ha, by simp⟩) fun x a ha _ hle => ?_
    cases a with
    | unreached k => cases ha; simp only [groupBalance, Multiset.count_singleton_self, Multiset.count_zero] at hle ⊢; omega
    | registered | members | total => simp [groupBalance]
  rcases lowerUnreached_cases s g with e | e <;> rw [e]
  · exact h
  · exact h.then (posted_raise _ _)

/-! ### What a record charges -/

/-- What one entry of a group list charges in a record counted at the sites `at_`: a member at each site, the total where there is one,
and the unreached count while its flag is set (R114, R122). -/
def entryCharge (at_ : List Nat) (m : Membership) : Multiset Account :=
  (at_.map fun n => ({.members m.group n} : Multiset Account)).sum + (if at_.isEmpty then 0 else {.total m.group}) +
    if m.pending then {.unreached m.group} else 0

/-- What a group list charges. -/
def listCharge (at_ : List Nat) (l : List Membership) : Multiset Account := (l.map (entryCharge at_)).sum

/-- What a record charges: a registration at each site where it is counted (R5), and its group list. -/
def charge (r : Radio) : Multiset Account :=
  ((countedSites r.state).map fun n => ({.registered n} : Multiset Account)).sum + listCharge (countedSites r.state) r.groups

/-- What the entry of a unit charges, where it has one. -/
def chargeAt (o : Option Radio) : Multiset Account := (o.map charge).getD 0

/-- What all records charge. -/
def owed (s : State) : Multiset Account := (s.radios.map fun p => charge p.2).sum

/-- A count agrees with what the records charge to it. -/
def balanced (s : State) (a : Account) : Prop := ∀ x, balance s a = some x → x = (owed s).count a

/-- Members at one site. -/
def memberCharge (gs : List Nat) (n : Nat) : Multiset Account := (gs.map fun g => ({.members g n} : Multiset Account)).sum
/-- Totals. -/
def totalCharge (gs : List Nat) : Multiset Account := (gs.map fun g => ({.total g} : Multiset Account)).sum
/-- Flags. -/
def flagCharge (l : List Membership) : Multiset Account := (l.map fun m => if m.pending then ({.unreached m.group} : Multiset Account) else 0).sum

theorem listCharge_nil (l : List Membership) : listCharge [] l = flagCharge l := by
  unfold listCharge flagCharge
  congr 1
  exact List.map_congr_left fun m _ => by simp [entryCharge]

theorem sum_map_groupNumbers (l : List Membership) (f : Nat → Multiset Account) :
    ((groupNumbers l).map f).sum = (l.map fun m => f m.group).sum := by
  simp [groupNumbers, Function.comp_def]

theorem listCharge_one (a : Nat) (l : List Membership) :
    listCharge [a] l = memberCharge (groupNumbers l) a + totalCharge (groupNumbers l) + flagCharge l := by
  simp only [listCharge, flagCharge, memberCharge, totalCharge, sum_map_groupNumbers, ← List.sum_map_add]
  rfl

theorem listCharge_two (a p : Nat) (l : List Membership) :
    listCharge [a, p] l =
      memberCharge (groupNumbers l) a + memberCharge (groupNumbers l) p + totalCharge (groupNumbers l) + flagCharge l := by
  simp only [listCharge, flagCharge, memberCharge, totalCharge, sum_map_groupNumbers, ← List.sum_map_add]
  rfl

theorem flagCharge_filter (l : List Membership) :
    flagCharge l = ((groupNumbers (l.filter Membership.pending)).map fun g => ({.unreached g} : Multiset Account)).sum := by
  induction l with
  | nil => rfl
  | cons m l ih =>
    cases hm : m.pending
    · simp only [flagCharge, List.map_cons, hm, List.sum_cons, List.filter_cons_of_neg, Bool.false_eq_true, not_false_eq_true,
        if_false, zero_add] at ih ⊢
      exact ih
    · simp only [flagCharge, List.map_cons, hm, List.sum_cons, List.filter_cons_of_pos, if_true, groupNumbers] at ih ⊢
      rw [ih]

theorem flagCharge_clear (l : List Membership) : flagCharge (l.map fun m => { m with pending := false }) = 0 := by
  simp [flagCharge, Function.comp_def]

theorem flagCharge_of_clear {l : List Membership} (h : ∀ m ∈ l, m.pending = false) : flagCharge l = 0 := by
  induction l with
  | nil => rfl
  | cons m l ih =>
    simp only [flagCharge, List.map_cons, List.sum_cons, h m (by simp), Bool.false_eq_true, if_false, zero_add] at ih ⊢
    exact ih fun x hx => h x (List.mem_cons_of_mem _ hx)

@[simp] theorem groupNumbers_clear (l : List Membership) : groupNumbers (l.map fun m => { m with pending := false }) = groupNumbers l := by
  simp [groupNumbers, Function.comp_def]

/-- What a record charges, by its state. -/
theorem charge_registered {r : Radio} {a l : Nat} (h : r.state = .registered a l) : charge r =
    {.registered a} + (memberCharge (groupNumbers r.groups) a + totalCharge (groupNumbers r.groups) + flagCharge r.groups) := by
  simp [charge, h, countedSites, servingSite, pendingSite, listCharge_one]

theorem charge_presumed {r : Radio} {a l : Nat} {c : PresumeCause} (h : r.state = .presumed a c l) : charge r =
    {.registered a} + (memberCharge (groupNumbers r.groups) a + totalCharge (groupNumbers r.groups) + flagCharge r.groups) := by
  simp [charge, h, countedSites, servingSite, pendingSite, listCharge_one]

theorem charge_moving {r : Radio} {a p l : Nat} {c : Handover} (h : r.state = .moving a p l c) : charge r =
    {.registered a} + {.registered p} + (memberCharge (groupNumbers r.groups) a + memberCharge (groupNumbers r.groups) p +
      totalCharge (groupNumbers r.groups) + flagCharge r.groups) := by
  simp [charge, h, countedSites, servingSite, pendingSite, listCharge_two, Multiset.singleton_add]

theorem charge_uncounted {r : Radio} (h : servingSite r.state = none) : charge r = flagCharge r.groups := by
  have hp : pendingSite r.state = none := by cases e : r.state <;> simp_all [servingSite, pendingSite]
  simp [charge, countedSites, h, hp, listCharge_nil]

/-! ### Postings of lists -/

theorem posted_addMembers (s : State) (gs : List Nat) (n : Nat) : Posted s (addMembers s gs n) 0 (memberCharge gs n) := by
  simpa [memberCharge, addMembers, subMembers] using Posted.foldl (d := fun _ => 0) (fun s g => posted_addMember s g n) gs s

theorem posted_subMembers (s : State) (gs : List Nat) (n : Nat) : Posted s (subMembers s gs n) (memberCharge gs n) 0 := by
  simpa [memberCharge, addMembers, subMembers] using Posted.foldl (u := fun _ => 0) (fun s g => posted_subMember s g n) gs s

theorem posted_addTotals (s : State) (gs : List Nat) : Posted s (addTotals s gs) 0 (totalCharge gs) := by
  simpa [totalCharge, addTotals, subTotals] using Posted.foldl (d := fun _ => 0) posted_addTotal gs s

theorem posted_subTotals (s : State) (gs : List Nat) : Posted s (subTotals s gs) (totalCharge gs) 0 := by
  simpa [totalCharge, addTotals, subTotals] using Posted.foldl (u := fun _ => 0) posted_subTotal gs s

theorem posted_removeCounts (s : State) (gs : List Nat) (n : Nat) :
    Posted s (removeCounts s gs n) ({.registered n} + memberCharge gs n) 0 := by
  simpa [removeCounts] using (posted_subReg s n).trans (posted_subMembers _ gs n)

theorem posted_addCounts (s : State) (gs : List Nat) (n : Nat) : Posted s (addCounts s gs n) 0 ({.registered n} + memberCharge gs n) := by
  have h := ((posted_addReg s n).trans (posted_addMembers _ gs n)).then (callFrame_passAll _ (risenAt s gs n)).posted
  simpa [addCounts] using h

theorem posted_clearFlags {s : State} {u : Nat} {r : Radio} (h : tget s.radios u = some r) :
    Posted s (clearFlags s u) (flagCharge r.groups) 0 := by
  rw [clearFlags_of_some h, flagCharge_filter]
  have h0 : Posted s { s with radios := tput s.radios u { r with groups := r.groups.map fun m => { m with pending := false } } } 0 0 :=
    .of_groups (fun _ => rfl) rfl
  exact Posted.after (by simpa using Posted.foldl (u := fun _ => 0) posted_lowerUnreached _ _) h0

/-! ### The sum over a table -/

/-- How a sum over a table changes when a present record is replaced. -/
theorem sum_tput_of_some {α M : Type} [AddCommMonoid M] {t : Table α} {k : Nat} {v w : α} (f : α → M) (hs : Ascending t)
    (h : tget t k = some w) : ((tput t k v).map fun p => f p.2).sum + f w = (t.map fun p => f p.2).sum + f v := by
  induction t with
  | nil => cases h
  | cons q r ih =>
    obtain ⟨k', v'⟩ := q
    rw [ascending_cons] at hs
    simp only [tget] at h
    split at h
    · rename_i hk; cases h; subst hk
      simp only [tput, Nat.lt_irrefl, if_false, if_true, List.map_cons, List.sum_cons]
      abel
    · rename_i hk
      have hlt : ¬ k < k' := fun hlt => by
        rw [tget_none_of_lt r k fun a ha => Nat.lt_trans hlt (hs.1 a ha)] at h; cases h
      simp only [tput, if_neg hk, if_neg hlt, List.map_cons, List.sum_cons, add_assoc, ih hs.2 h]

/-- How a sum over a table changes when an absent record is entered. -/
theorem sum_tput_of_none {α M : Type} [AddCommMonoid M] {t : Table α} {k : Nat} {v : α} (f : α → M) (h : tget t k = none) :
    ((tput t k v).map fun p => f p.2).sum = (t.map fun p => f p.2).sum + f v := by
  induction t with
  | nil => simp [tput]
  | cons q r ih =>
    obtain ⟨k', v'⟩ := q
    simp only [tget] at h
    split at h
    · cases h
    · rename_i hk
      simp only [tput, if_neg hk]
      split
      · simp only [List.map_cons, List.sum_cons]; abel
      · simp only [List.map_cons, List.sum_cons, ih h, add_assoc]

/-- How a sum over a table changes when a record is removed. -/
theorem sum_tdel_of_some {α M : Type} [AddCommMonoid M] {t : Table α} {k : Nat} {w : α} (f : α → M) (h : tget t k = some w) :
    ((tdel t k).map fun p => f p.2).sum + f w = (t.map fun p => f p.2).sum := by
  induction t with
  | nil => cases h
  | cons q r ih =>
    obtain ⟨k', v'⟩ := q
    simp only [tget] at h
    split at h
    · rename_i hk; cases h; subst hk
      simp only [tdel, if_true, List.map_cons, List.sum_cons]
      abel
    · rename_i hk
      simp only [tdel, if_neg hk, List.map_cons, List.sum_cons, add_assoc, ih h]

/-- The table with the entry of one number replaced, entered or removed. -/
def tset {α : Type} (t : Table α) (k : Nat) (o : Option α) : Table α :=
  match o with
  | some v => tput t k v
  | none => tdel t k

theorem tget_tset {α : Type} {t : Table α} (h : Ascending t) (k j : Nat) (o : Option α) :
    tget (tset t k o) j = if j = k then o else tget t j := by
  cases o with
  | some v => exact tget_tput t k j v
  | none =>
    simp only [tset]
    split
    · rename_i e; rw [e]; exact tget_tdel_self t k h
    · rename_i e; exact tget_tdel_ne t e

theorem ascending_tset {α : Type} {t : Table α} (h : Ascending t) (k : Nat) (o : Option α) : Ascending (tset t k o) := by
  cases o with
  | some v => exact ascending_tput t k v h
  | none => exact ascending_tdel t k h

/-- What all records charge, when one entry changes. -/
theorem owed_tset {s t : State} (hs : Ascending s.radios) {u : Nat} {o : Option Radio} (ht : t.radios = tset s.radios u o) :
    owed t + chargeAt (tget s.radios u) = owed s + chargeAt o := by
  unfold owed
  rw [ht]
  cases h : tget s.radios u with
  | none =>
    cases o with
    | some v => simpa [chargeAt, tset] using sum_tput_of_none charge h
    | none => simp [chargeAt, tset, tdel_of_none h]
  | some w =>
    cases o with
    | some v => simpa [chargeAt, tset] using sum_tput_of_some charge hs h
    | none => simpa [chargeAt, tset] using sum_tdel_of_some charge h

end Sys2Proof.Machine

/-! What every event does to records, books and the outbound queue: one relation that holds the invariants of the records (R2, R39, R118),
of the Directory (R1), of the outbound queue (R184) and of the books (R97, R114, R122) from before an event to after it, and the shared
operations and calls as such events. -/

namespace Sys2Proof.Machine

/-! ### The invariants, read by number -/

/-- The entry that a number names, if any, has a record's shape. -/
def entryOk (o : Option Radio) : Prop := ∀ r, o = some r → recordOk r

theorem recordsOk_iff (s : State) : RecordsOk s ↔ Ascending s.radios ∧ ∀ u, entryOk (tget s.radios u) := by
  refine and_congr_right fun ha => ?_
  exact (forall_mem_iff_tget ha fun _ r => recordOk r)

theorem RecordsOk.record {s : State} (h : RecordsOk s) {u : Nat} {r : Radio} (hr : tget s.radios u = some r) : recordOk r :=
  h.2 _ (mem_of_tget hr)

/-- Every registration count agrees with the records, and it and the capacity are in range (R97, R103). -/
structure RegistrationsOk (s : State) : Prop where
  radios : Ascending s.radios
  agree : ∀ n, balanced s (.registered n)
  bounds : ∀ {n x}, tget s.sites n = some x → x.count ≤ 255 ∧ x.capacity ≤ 255

/-- Every member count and total agrees with the records (R114). -/
def MembersOk (s : State) : Prop := ∀ g, (∀ n, balanced s (.members g n)) ∧ balanced s (.total g)

/-- Every unreached count agrees with the flags (R122). -/
def FlagsOk (s : State) : Prop := ∀ g, balanced s (.unreached g)

/-- The entry of unit u has its recall-pending flag for g set. -/
def flaggedAt (s : State) (u g : Nat) : Prop := ∃ r, tget s.radios u = some r ∧ hasFlag r.groups g true = true

/-- The step keeps the occupancy and the reserve within the queue (R184). -/
def OutKept (s t : State) : Prop := OutboundOk s → OutboundOk t

/-- The operation in hand: its kind and its cursor. -/
def runOf (s : State) : Option (BulkOp × Nat) := s.bulk.map fun b => (b.op, b.cursor)

/-- The step leaves every recall state and the operation in hand. -/
structure Calm (s t : State) : Prop where
  recalls : ∀ g, (tget t.groups g).map Group.recallState = (tget s.groups g).map Group.recallState
  run : runOf t = runOf s

theorem Calm.refl (s : State) : Calm s s := ⟨fun _ => rfl, rfl⟩

theorem Calm.trans {a b c : State} (h1 : Calm a b) (h2 : Calm b c) : Calm a c :=
  ⟨fun g => (h2.recalls g).trans (h1.recalls g), h2.run.trans h1.run⟩

theorem Calm.of_eq {s t : State} (hg : t.groups = s.groups) (hb : t.bulk = s.bulk) : Calm s t :=
  ⟨by simp [hg], by simp [runOf, hb]⟩

theorem runOf_of_engineButGap {s t : State} (h : engineButGap t = engineButGap s) : runOf t = runOf s := by
  have h1 : t.bulk.map (fun b => { b with gap := false }) = s.bulk.map fun b => { b with gap := false } := congrArg Prod.fst h
  have h2 := congrArg (Option.map fun b : BulkRun => (b.op, b.cursor)) h1
  simpa [runOf, Option.map_map, Function.comp_def] using h2

theorem GroupFrame.calm {s t : State} (h : GroupFrame s t) : Calm s t :=
  ⟨h.recalls, by rw [runOf, runOf, show t.bulk = s.bulk from congrArg Prod.fst h.engine]⟩

theorem CallFrame.calm {s t : State} (h : CallFrame s t) : Calm s t := .of_eq h.groups (congrArg Prod.fst h.engine)

theorem SendFrame.calm {s t : State} (h : SendFrame s t) : Calm s t := ⟨by simp [h.groups], runOf_of_engineButGap h.engine⟩

theorem calm_modRadio (s : State) (u : Nat) (f : Radio → Radio) : Calm s (modRadio s u f) := .of_eq rfl rfl

theorem Calm.recallStateOf {s t : State} (h : Calm s t) (g : Nat) : recallStateOf t g = recallStateOf s g := by
  have := h.recalls g
  unfold Machine.recallStateOf
  cases h1 : tget t.groups g <;> cases h2 : tget s.groups g <;> simp_all

/-- The step posts to the books, and leaves what events leave besides. -/
structure Booked (s t : State) (down up : Multiset Account) : Prop where
  steady : Steady s t
  calm : Calm s t
  posted : Posted s t down up

theorem Booked.refl (s : State) : Booked s s 0 0 := ⟨.refl s, .refl s, .refl s⟩

theorem Booked.trans {a b c : State} {d1 u1 d2 u2 : Multiset Account} (h1 : Booked a b d1 u1) (h2 : Booked b c d2 u2) :
    Booked a c (d1 + d2) (u1 + u2) := ⟨h1.steady.trans h2.steady, h1.calm.trans h2.calm, h1.posted.trans h2.posted⟩

/-- A step that moves no count may stand after a posting. -/
theorem Booked.then {a b c : State} {d u : Multiset Account} (h1 : Booked a b d u) (h2 : Booked b c 0 0) : Booked a c d u := by
  simpa using h1.trans h2

/-- A step that moves no count may stand before a posting. -/
theorem Booked.after {a b c : State} {d u : Multiset Account} (h2 : Booked b c d u) (h1 : Booked a b 0 0) : Booked a c d u := by
  simpa using h1.trans h2

theorem Booked.foldl {β : Type} {f : State → β → State} {d u : β → Multiset Account} (h : ∀ s x, Booked s (f s x) (d x) (u x))
    (l : List β) (s : State) : Booked s (l.foldl f s) (l.map d).sum (l.map u).sum := by
  induction l generalizing s with
  | nil => exact .refl s
  | cons x l ih => exact (h s x).trans (ih _)

/-! ### Events -/

/-- What work of any block keeps of the records, the outbound queue and the books. The predicate names the units that it may enter in the
Directory. -/
structure Kept (mayEnter : Nat → Prop) (s t : State) : Prop where
  steady : Steady s t
  outbound : OutKept s t
  units : ∀ {u r}, tget t.radios u = some r → mayEnter u ∨ ∃ r0, tget s.radios u = some r0
  shapes : RecordsOk s → RecordsOk t
  registrations : RegistrationsOk s → RegistrationsOk t
  members : RecordsOk s → countsAscend s → MembersOk s → MembersOk t
  flags : RecordsOk s → FlagsOk s → FlagsOk t

/-- What every event keeps: all that, the recall states and the course of the operation in hand, and flags set only while the group's recall
is ACTIVE. -/
structure EventCore (mayEnter : Nat → Prop) (s t : State) : Prop extends Kept mayEnter s t where
  calm : Calm s t
  flagged : ∀ {g u}, recallStateOf s g ≠ .active → flaggedAt t u g → flaggedAt s u g

/-- What every event keeps: all that, and the size of the Directory (R1). -/
structure Event (mayEnter : Nat → Prop) (s t : State) : Prop extends EventCore mayEnter s t where
  size : Ascending s.radios → s.radios.length ≤ 2048 → t.radios.length ≤ 2048

theorem Kept.refl {w : Nat → Prop} (s : State) : Kept w s s :=
  ⟨.refl s, id, fun h => .inr ⟨_, h⟩, id, id, fun _ _ h => h, fun _ h => h⟩

theorem Kept.trans {w : Nat → Prop} {a b c : State} (h1 : Kept w a b) (h2 : Kept w b c) : Kept w a c := by
  refine ⟨h1.steady.trans h2.steady, h2.outbound ∘ h1.outbound, fun h => ?_, h2.shapes ∘ h1.shapes,
    h2.registrations ∘ h1.registrations,
    fun hr hc hm => h2.members (h1.shapes hr) (h1.steady.counts hc) (h1.members hr hc hm),
    fun hr hf => h2.flags (h1.shapes hr) (h1.flags hr hf)⟩
  rcases h2.units h with h | ⟨r0, h⟩
  · exact .inl h
  · exact h1.units h

theorem EventCore.trans {w : Nat → Prop} {a b c : State} (h1 : EventCore w a b) (h2 : EventCore w b c) : EventCore w a c :=
  ⟨h1.toKept.trans h2.toKept, h1.calm.trans h2.calm, fun hg hf =>
    h1.flagged hg (h2.flagged (by rw [h1.calm.recallStateOf]; exact hg) hf)⟩

theorem Event.refl {w : Nat → Prop} (s : State) : Event w s s := ⟨⟨.refl s, .refl s, fun _ h => h⟩, fun _ h => h⟩

theorem Event.trans {w : Nat → Prop} {a b c : State} (h1 : Event w a b) (h2 : Event w b c) : Event w a c :=
  ⟨h1.toEventCore.trans h2.toEventCore, fun ha hl => h2.size (h1.steady.radios ha) (h1.size ha hl)⟩

theorem Event.mono {w w' : Nat → Prop} {s t : State} (h : Event w s t) (hw : ∀ u, w u → w' u) : Event w' s t :=
  ⟨{ h.toEventCore with units := fun hu => (h.units hu).imp_left (hw _) }, h.size⟩

theorem event_ite {w : Nat → Prop} {s a b : State} {p : Prop} [Decidable p] (ha : p → Event w s a) (hb : ¬p → Event w s b) :
    Event w s (if p then a else b) := by
  split
  · exact ha ‹_›
  · exact hb ‹_›

theorem event_foldl {w : Nat → Prop} {β : Type} (f : State → β → State) (h : ∀ s x, Event w s (f s x)) (l : List β) (s : State) :
    Event w s (l.foldl f s) := foldl_rel (Event w) .refl .trans f h l s

theorem chargeAt_le_owed {s : State} (hs : Ascending s.radios) (u : Nat) : chargeAt (tget s.radios u) ≤ owed s := by
  have h := owed_tset (t := { s with radios := tset s.radios u none }) (u := u) (o := none) hs rfl
  simp only [chargeAt, Option.map_none, Option.getD_none, add_zero] at h
  exact Multiset.le_iff_exists_add.2 ⟨_, by rw [add_comm]; exact h.symm⟩

/-- A count stays in agreement when one entry's charge moves as the books do. -/
theorem balanced_of_posted {s t : State} {u : Nat} {o : Option Radio} {d up : Multiset Account} {a : Account}
    (hs : Ascending s.radios) (hr : t.radios = tset s.radios u o) (hp : Posted s t d up) (hm : a.isMembers = true → countsAscend s)
    (hk : ∃ k, (chargeAt (tget s.radios u)).count a = k + d.count a ∧ (chargeAt o).count a = k + up.count a)
    (h : balanced s a) : balanced t a := by
  intro y hy
  obtain ⟨k, h1, h2⟩ := hk
  cases hx : balance s a with
  | none => rw [hp.absent hx] at hy; cases hy
  | some x =>
    have hle : (chargeAt (tget s.radios u)).count a ≤ (owed s).count a := Multiset.count_le_of_le _ (chargeAt_le_owed hs u)
    have he := congrArg (Multiset.count a) (owed_tset hs hr)
    simp only [Multiset.count_add] at he
    have hxo := h x hx
    obtain ⟨z, hz, e⟩ := hp.moves hm hx (by omega)
    rw [hy] at hz
    cases hz
    omega

/-- Work that replaces, enters or removes one entry, and posts to the books what that moves. -/
theorem Kept.of_move {w : Nat → Prop} {s t : State} {u : Nat} {o : Option Radio} {d up : Multiset Account} (ha : Ascending s.radios)
    (hsteady : Steady s t) (hout : OutKept s t) (hp : Posted s t d up) (hr : t.radios = tset s.radios u o)
    (hbooks : ∀ a, (a.isRegistered = true ∨ entryOk (tget s.radios u)) →
      ∃ k, (chargeAt (tget s.radios u)).count a = k + d.count a ∧ (chargeAt o).count a = k + up.count a)
    (hroom : ∀ {n x}, tget s.sites n = some x → x.count ≤ 255 → x.capacity ≤ 255 →
      x.count + up.count (.registered n) ≤ 255 + d.count (.registered n))
    (hshape : RecordsOk s → entryOk o) (henter : tget s.radios u = none → o ≠ none → w u) : Kept w s t := by
  have hget : ∀ v, tget t.radios v = if v = u then o else tget s.radios v := fun v => by rw [hr, tget_tset ha]
  refine ⟨hsteady, hout, fun {v r} hv => ?_, fun h => ?_, fun h => ?_, fun h hc hm g => ?_, fun h hf g => ?_⟩
  · rw [hget] at hv
    split at hv
    · rename_i e
      rw [e]
      cases hu : tget s.radios u with
      | none => exact .inl (henter hu (by simp [hv]))
      | some r0 => exact .inr ⟨r0, rfl⟩
    · exact .inr ⟨r, hv⟩
  · obtain ⟨-, hall⟩ := (recordsOk_iff s).1 h
    refine (recordsOk_iff t).2 ⟨hsteady.radios ha, fun v => ?_⟩
    rw [hget]
    split
    · exact hshape h
    · exact hall v
  · refine ⟨hsteady.radios h.radios, fun n => ?_, fun {n y} hy => ?_⟩
    · exact balanced_of_posted ha hr hp (by simp [Account.isMembers]) (hbooks _ (.inl rfl)) (h.agree n)
    · obtain ⟨x, hx, hcap⟩ : ∃ x, tget s.sites n = some x ∧ x.capacity = y.capacity := by
        have := hsteady.siteValues n
        rw [hy, Option.map_some, eq_comm, Option.map_eq_some_iff] at this
        obtain ⟨x, hx, e⟩ := this
        have hc := congrArg Site.capacity e
        exact ⟨x, hx, hc⟩
      obtain ⟨h1, h2⟩ := h.bounds hx
      have hb := balanced_of_posted ha hr hp (by simp [Account.isMembers]) (hbooks (.registered n) (.inl rfl)) (h.agree n)
      have hby : y.count = (owed t).count (.registered n) := hb y.count (by simp [balance, hy])
      have hbx : x.count = (owed s).count (.registered n) := h.agree n x.count (by simp [balance, hx])
      have hro := hroom hx h1 h2
      obtain ⟨k, k1, k2⟩ := hbooks (.registered n) (.inl rfl)
      have he := congrArg (Multiset.count (.registered n)) (owed_tset ha hr)
      simp only [Multiset.count_add] at he
      exact ⟨by omega, by omega⟩
  · obtain ⟨-, hall⟩ := (recordsOk_iff s).1 h
    exact ⟨fun n => balanced_of_posted ha hr hp (fun _ => hc) (hbooks _ (.inr (hall u))) ((hm g).1 n),
      balanced_of_posted ha hr hp (by simp [Account.isMembers]) (hbooks _ (.inr (hall u))) (hm g).2⟩
  · obtain ⟨-, hall⟩ := (recordsOk_iff s).1 h
    exact balanced_of_posted ha hr hp (by simp [Account.isMembers]) (hbooks _ (.inr (hall u))) (hf g)

/-- An event that replaces, enters or removes one entry, and posts to the books what that moves. -/
theorem EventCore.of_move {w : Nat → Prop} {s t : State} {u : Nat} {o : Option Radio} {d up : Multiset Account} (ha : Ascending s.radios)
    (hsteady : Steady s t) (hcalm : Calm s t) (hout : OutKept s t) (hp : Posted s t d up) (hr : t.radios = tset s.radios u o)
    (hbooks : ∀ a, (a.isRegistered = true ∨ entryOk (tget s.radios u)) →
      ∃ k, (chargeAt (tget s.radios u)).count a = k + d.count a ∧ (chargeAt o).count a = k + up.count a)
    (hroom : ∀ {n x}, tget s.sites n = some x → x.count ≤ 255 → x.capacity ≤ 255 →
      x.count + up.count (.registered n) ≤ 255 + d.count (.registered n))
    (hshape : RecordsOk s → entryOk o) (henter : tget s.radios u = none → o ≠ none → w u)
    (hflag : ∀ {g r}, recallStateOf s g ≠ .active → o = some r → hasFlag r.groups g true = true → flaggedAt s u g) :
    EventCore w s t := by
  refine ⟨.of_move ha hsteady hout hp hr hbooks hroom hshape henter, hcalm, fun {g v} hg hf => ?_⟩
  obtain ⟨r, hv, hfl⟩ := hf
  rw [hr, tget_tset ha] at hv
  split at hv
  · subst_vars; exact hflag hg rfl hfl
  · exact ⟨r, hv, hfl⟩

/-- The change of one present record. -/
theorem Event.of_change {w : Nat → Prop} {s t : State} {u : Nat} {r r' : Radio} {d up kept : Multiset Account} (ha : Ascending s.radios)
    (hu : tget s.radios u = some r) (hb : Booked s t d up) (hout : OutKept s t) (hr : t.radios = tput s.radios u r') (hold : charge r = kept + d)
    (hnew : charge r' = kept + up)
    (hroom : ∀ {n x}, tget s.sites n = some x → x.count ≤ 255 → x.capacity ≤ 255 →
      x.count + up.count (.registered n) ≤ 255 + d.count (.registered n))
    (hshape : RecordsOk s → recordOk r')
    (hflag : ∀ {g}, recallStateOf s g ≠ .active → hasFlag r'.groups g true = true → hasFlag r.groups g true = true) : Event w s t := by
  refine ⟨EventCore.of_move (o := some r') ha hb.steady hb.calm hout hb.posted hr (fun a _ => ⟨kept.count a, ?_, ?_⟩) hroom (fun h x e => ?_)
    (fun h _ => ?_) (fun {g x} hg e hf => ?_), fun _ hl => ?_⟩
  · simp [hu, chargeAt, hold]
  · simp [chargeAt, hnew]
  · cases e; exact hshape h
  · rw [hu] at h; cases h
  · cases e; exact ⟨r, hu, hflag hg hf⟩
  · rw [hr, length_tput_of_some ha hu]; exact hl

/-- The freeing of one present record that is counted nowhere. -/
theorem Event.of_free {w : Nat → Prop} {s t : State} {u : Nat} {r : Radio} (ha : Ascending s.radios)
    (hu : tget s.radios u = some r) (hb : Booked s t (charge r) 0) (hout : OutKept s t) (hr : t.radios = tdel s.radios u) : Event w s t := by
  refine ⟨EventCore.of_move (o := none) ha hb.steady hb.calm hout hb.posted hr (fun a _ => ⟨0, ?_, ?_⟩)
    (fun _ h _ => by rw [Multiset.count_zero]; omega) (fun _ x e => nomatch e) (fun _ h => absurd rfl h) (fun _ e => nomatch e),
    fun _ hl => ?_⟩
  · simp [hu, chargeAt]
  · simp [chargeAt]
  · rw [hr]; exact Nat.le_trans (length_tdel_le _ _) hl

theorem balanced_of_still {s t : State} {a : Account} (hr : t.radios = s.radios) (hp : Posted s t 0 0)
    (hm : a.isMembers = true → countsAscend s) (h : balanced s a) : balanced t a := by
  intro y hy
  cases hx : balance s a with
  | none => rw [hp.absent hx] at hy; cases hy
  | some x =>
    obtain ⟨z, hz, e⟩ := hp.moves hm hx (by simp)
    rw [hy] at hz
    cases hz
    simp only [Multiset.count_zero, Nat.add_zero] at e
    rw [e, h x hx, owed, owed, hr]

/-- Work that moves no entry and no count. -/
theorem Kept.of_still {w : Nat → Prop} {s t : State} (hsteady : Steady s t) (hout : OutKept s t)
    (hr : t.radios = s.radios) (hp : Posted s t 0 0) : Kept w s t := by
  refine ⟨hsteady, hout, fun h => .inr ⟨_, hr ▸ h⟩, fun h => ?_, fun h => ?_, fun _ hc hm g => ?_, fun _ hf g => ?_⟩
  · unfold RecordsOk; rw [hr]; exact h
  · refine ⟨by rw [hr]; exact h.radios, fun n => balanced_of_still hr hp (by simp [Account.isMembers]) (h.agree n), fun {n y} hy => ?_⟩
    have hv := hsteady.siteValues n
    rw [hy, Option.map_some, eq_comm, Option.map_eq_some_iff] at hv
    obtain ⟨x, hx, e⟩ := hv
    have hc := congrArg Site.capacity e
    have hcap : x.capacity = y.capacity := hc
    obtain ⟨h1, h2⟩ := h.bounds hx
    obtain ⟨z, hz, e⟩ := hp.moves (a := .registered n) (x := x.count) (by simp [Account.isMembers]) (by simp [balance, hx]) (by simp)
    rw [show balance t (.registered n) = some y.count by simp [balance, hy]] at hz
    cases hz
    simp only [Multiset.count_zero, Nat.add_zero] at e
    exact ⟨by omega, by omega⟩
  · exact ⟨fun n => balanced_of_still hr hp (fun _ => hc) ((hm g).1 n), balanced_of_still hr hp (by simp [Account.isMembers]) (hm g).2⟩
  · exact balanced_of_still hr hp (by simp [Account.isMembers]) (hf g)

/-- An event that moves no entry and no count. -/
theorem Event.of_still {w : Nat → Prop} {s t : State} (hsteady : Steady s t) (hcalm : Calm s t) (hout : OutKept s t)
    (hr : t.radios = s.radios) (hp : Posted s t 0 0) : Event w s t := by
  refine ⟨⟨.of_still hsteady hout hr hp, hcalm, fun _ h => ?_⟩, fun _ h => by rw [hr]; exact h⟩
  unfold flaggedAt at h ⊢
  rw [hr] at h
  exact h

/-! ### The outbound queue -/

theorem OutKept.refl (s : State) : OutKept s s := id

theorem OutKept.trans {a b c : State} (h1 : OutKept a b) (h2 : OutKept b c) : OutKept a c := h2 ∘ h1

theorem OutKept.of_eq {s t : State} (hr : t.radios = s.radios) (ho : t.outbound = s.outbound) : OutKept s t := by
  intro h
  unfold OutboundOk at h ⊢
  rw [ho, movingCount_of_radios hr, hr]
  exact h

theorem outKept_pushOut {s : State} (h : hasRoom s 1 = true) (f : SiteOut) : OutKept s (pushOut s f) := by
  rintro ⟨ha, -⟩
  refine ⟨ha, ?_⟩
  rw [movingCount_of_radios (s := s) (t := pushOut s f) rfl]
  have := (hasRoom_iff s 1).1 h
  simp only [pushOut, List.length_append, List.length_singleton]
  omega

theorem hasRoom_congr {s t : State} (hr : t.radios = s.radios) (ho : t.outbound = s.outbound) (k : Nat) : hasRoom t k = hasRoom s k := by
  unfold hasRoom occupancy handoverReserve
  rw [movingCount_of_radios hr, ho]

theorem hasRoom_of_ordinary {s : State} (h : hasOrdinaryRoom s = true) : hasRoom s 1 = true := by
  simp only [hasOrdinaryRoom, Bool.and_eq_true] at h
  exact h.2

theorem outKept_sendOrdinary (s : State) (n : Nat) (f : SiteOut) : OutKept s (sendOrdinary s n f) := by
  have sync : ∀ s, OutKept s (setSyncLost s n) := fun s => by
    rcases setSyncLost_cases s n with h | h <;> rw [h]
    · exact .refl s
    · exact .of_eq (by simp) (by simp)
  rcases sendOrdinary_cases s n f with ⟨-, h⟩ | ⟨-, hroom, h⟩ | ⟨-, -, ⟨h, -⟩ | ⟨h, -⟩⟩ <;> rw [h]
  · exact .refl s
  · exact outKept_pushOut (hasRoom_of_ordinary hroom) f
  · exact sync s
  · exact .trans (b := setGap s) (.of_eq rfl rfl) (sync _)

theorem SendFrame.event {w : Nat → Prop} {s t : State} (h : SendFrame s t) (hst : Steady s t) (ho : OutKept s t) : Event w s t :=
  .of_still hst h.calm ho h.radios h.posted

theorem event_raise {w : Nat → Prop} (s : State) (b : NoticeBody) : Event w s (raise s b) :=
  (sendFrame_raise s b).event (steady_raise s b) (.of_eq (by simp) (by simp))

theorem event_sendOrdinary {w : Nat → Prop} (s : State) (n : Nat) (f : SiteOut) : Event w s (sendOrdinary s n f) :=
  (sendFrame_sendOrdinary s n f).event (inner_sendOrdinary s n f).steady (outKept_sendOrdinary s n f)

theorem event_setOver {w : Nat → Prop} (s : State) (n : Nat) : Event w s (setOver s n) := by
  refine (sendFrame_setOver s n).event (inner_setOver s n).steady ?_
  rcases setOver_cases s n with h | ⟨b, h⟩ <;> rw [h]
  · exact .refl s
  · exact .of_eq (by simp) (by simp)

theorem event_pushOut {w : Nat → Prop} {s : State} (h : hasRoom s 1 = true) (f : SiteOut) : Event w s (pushOut s f) :=
  (sendFrame_pushOut s f).event (steady_pushOut s f) (outKept_pushOut h f)

theorem event_setOut {w : Nat → Prop} (s : State) (k : Nat) (f : SiteOut) : Event w s (setOut s k f) := by
  refine .of_still (inner_setOut s k f).steady (.of_eq rfl rfl) (fun h => ?_) rfl (.of_groups (fun _ => rfl) rfl)
  refine ⟨h.1, ?_⟩
  rw [movingCount_of_radios (s := s) (t := setOut s k f) rfl]
  simpa [setOut] using h.2

/-- A change of sites that leaves counts. -/
theorem event_modSite {w : Nat → Prop} (s : State) (n : Nat) (f : Site → Site) (hf : ∀ x, siteValues (f x) = siteValues x)
    (hc : ∀ x, (f x).count = x.count) : Event w s (modSite s n f) := by
  refine .of_still (steady_modSite s n f hf) (.of_eq rfl rfl) (.of_eq rfl rfl) rfl (.of_groups (fun m => ?_) rfl)
  simp only [modSite_sites, tget_tmod]
  split
  · cases tget s.sites m <;> simp [hc]
  · rfl

/-! ### Calls -/

theorem CallFrame.event {w : Nat → Prop} {s t : State} (h : CallFrame s t) (hst : Steady s t) (ho : OutKept s t) : Event w s t :=
  .of_still hst h.calm ho h.radios h.posted

theorem outKept_grantChannel {s : State} (h : hasRoom s 1 = true) (c n ch : Nat) : OutKept s (grantChannel s c n ch) :=
  .trans (b := setStatus s c n (.granted ch s.partTime)) (.of_eq rfl rfl) (outKept_pushOut ((hasRoom_congr rfl rfl 1).trans h) _)

theorem outKept_queueCall (s : State) (c n : Nat) : OutKept s (queueCall s c n) := by
  unfold queueCall
  simp only []
  split
  · exact .of_eq rfl rfl
  · split
    · split <;> exact .of_eq rfl rfl
    · exact .of_eq rfl rfl

theorem outKept_preempt (s : State) (c n : Nat) : OutKept s (preempt s c n) := by
  unfold preempt
  split
  · split
    · rename_i v _ hroom
      have h2 := (hasRoom_iff s 2).1 hroom
      rintro ⟨ha, -⟩
      simp only []
      refine ⟨by simpa [grantChannel] using ha, ?_⟩
      rw [movingCount_of_radios (s := s) (by simp [grantChannel])]
      simp only [raise_outbound, grantChannel, pushOut_outbound, setStatus_outbound, List.length_append, List.length_singleton]
      omega
    · exact .of_eq rfl rfl
  · exact outKept_queueCall s c n

theorem outKept_arbitrate (s : State) (c n : Nat) : OutKept s (arbitrate s c n) := by
  unfold arbitrate
  split
  · split
    · exact outKept_grantChannel ‹_› c n _
    · exact .of_eq rfl rfl
  · split
    · exact outKept_preempt s c n
    · exact outKept_queueCall s c n

theorem event_arbitrate {w : Nat → Prop} (s : State) (c n : Nat) : Event w s (arbitrate s c n) :=
  (callFrame_arbitrate s c n).event (steady_arbitrate s c n) (outKept_arbitrate s c n)

theorem event_lateEntry {w : Nat → Prop} (s : State) (c n : Nat) : Event w s (lateEntry s c n) :=
  event_ite (fun _ => event_arbitrate s c n) fun _ => .refl s

theorem event_passToCalls {w : Nat → Prop} (s : State) (p : Nat × Nat) : Event w s (passToCalls s p) := by
  unfold passToCalls
  split
  · split
    · exact event_lateEntry s _ _
    · exact .refl s
  · exact .refl s

theorem event_passAll {w : Nat → Prop} (s : State) (ps : List (Nat × Nat)) : Event w s (passAll s ps) :=
  event_foldl _ event_passToCalls ps s

theorem outKept_handOnTo (s : State) (n ch : Nat) (l : List Nat) : OutKept s (handOnTo s n ch l) := by
  induction l generalizing s with
  | nil => exact .refl s
  | cons c l ih =>
    simp only [handOnTo]
    split
    · exact .trans (b := leaveQueue s n c) (.of_eq rfl rfl) (outKept_grantChannel ‹_› c n ch)
    · exact .trans (b := setStatus (leaveQueue s n c) c n .busyOut) (.of_eq rfl rfl) (ih _)

theorem outKept_dropGranted (c : Nat) (s : State) (p : Nat × CallStatus) : OutKept s (dropGranted c s p) := by
  unfold dropGranted
  split
  · simp only []
    split
    · rename_i h
      rw [Bool.and_eq_true] at h
      exact (outKept_pushOut h.1 _).trans (.trans (b := clearStatus (pushOut s _) c p.1) (.of_eq rfl rfl) (outKept_handOnTo _ _ _ _))
    · exact .trans (b := clearStatus _ c p.1) (.of_eq rfl rfl) (outKept_handOnTo _ _ _ _)
  · exact .refl s

theorem outKept_dropQueued (c : Nat) (s : State) (p : Nat × CallStatus) : OutKept s (dropQueued c s p) := by
  unfold dropQueued
  split
  · exact .of_eq rfl rfl
  · exact .refl s

theorem outKept_foldl {β : Type} (f : State → β → State) (h : ∀ s x, OutKept s (f s x)) (l : List β) (s : State) :
    OutKept s (l.foldl f s) := foldl_rel OutKept .refl .trans f h l s

/-- The calls' own records, and the active calls of groups, are no part of the books. -/
theorem event_calls {w : Nat → Prop} {s t : State} (hst : Steady s t) (hr : t.radios = s.radios) (ho : t.outbound = s.outbound)
    (hb : t.bulk = s.bulk) (hs : ∀ n, (tget t.sites n).map Site.count = (tget s.sites n).map Site.count)
    (hg : ∀ g, (tget t.groups g).map (fun x => { x with activeCall := none }) =
      (tget s.groups g).map fun x => { x with activeCall := none }) (hc : countsAscend s → countsAscend t) : Event w s t := by
  have project : ∀ {β : Type} (f : Group → β), (∀ x : Group, f x = f { x with activeCall := none }) → ∀ g,
      (tget t.groups g).map f = (tget s.groups g).map f := by
    intro β f hf g
    have := congrArg (Option.map f) (hg g)
    simp only [Option.map_map, Function.comp_def] at this
    simpa only [← hf] using this
  refine .of_still hst ⟨project _ fun _ => rfl, by simp [runOf, hb]⟩ (.of_eq hr ho) hr (.of_balance hc fun a => ?_)
  cases a with
  | registered n => exact hs n
  | members g n => exact project (fun x => (tget x.counts n).getD 0) (fun _ => rfl) g
  | total g => exact project Group.total (fun _ => rfl) g
  | unreached g => exact project Group.unreached (fun _ => rfl) g

theorem event_endCall {w : Nat → Prop} (s : State) (c : Nat) : Event w s (endCall s c) := by
  unfold endCall
  split
  · rename_i x hx
    simp only []
    have h1 : Event w s (x.map.foldl (dropQueued c) s) :=
      (callFrame_foldl _ (callFrame_dropQueued c) _ s).event (steady_foldl _ (steady_dropQueued c) _ _)
        (outKept_foldl _ (outKept_dropQueued c) _ _)
    have h2 : Event w (x.map.foldl (dropQueued c) s) (x.map.foldl (dropGranted c) (x.map.foldl (dropQueued c) s)) :=
      (callFrame_foldl _ (callFrame_dropGranted c) _ _).event (steady_foldl _ (steady_dropGranted c) _ _)
        (outKept_foldl _ (outKept_dropGranted c) _ _)
    refine h1.trans (h2.trans ?_)
    generalize x.map.foldl (dropGranted c) (x.map.foldl (dropQueued c) s) = t
    refine (event_calls (t := modGroup t x.group fun g => { g with activeCall := none })
      (steady_modGroup t _ _ (fun _ => rfl) fun _ h => h) rfl rfl rfl (fun _ => rfl) (fun g => ?_) fun h p hp => ?_).trans
      (event_calls (steady_delCall _ c) rfl rfl rfl (fun _ => rfl) (fun _ => rfl) id)
    · simp only [modGroup_groups, tget_tmod]
      split
      · cases tget t.groups g <;> rfl
      · rfl
    · rcases mem_tmod hp with hp | ⟨y, hy, rfl⟩
      · exact h p hp
      · exact h (x.group, y) (mem_of_tget hy)
  · exact .refl s

end Sys2Proof.Machine

/-! The transitions of radio records as events: changes that move no count, the handover's start and ends, adoption, loss, retirement,
freeing and the change of a group list (chapters 1, 4 and 6). -/

namespace Sys2Proof.Machine

/-! ### The shape of a record, in parts -/

/-- The hearing list: at most four entries, one for a site, with one for each site where the record is counted (R39). -/
def hearingOk (r : Radio) : Prop :=
  r.hearing.length ≤ 4 ∧ (r.hearing.map Hearing.site).Nodup ∧ ∀ n ∈ countedSites r.state, n ∈ r.hearing.map Hearing.site

/-- A group list: at most four groups, each once (R118). -/
def listOk (l : List Membership) : Prop := l.length ≤ 4 ∧ (groupNumbers l).Nodup

/-- What a record's state requires (R2, R9, R20, R21, R24). -/
def stateOk (r : Radio) : Prop :=
  match r.state with
  | .joining => r.burst.isSome = true ∨ r.emergency.isSome = true
  | .moving a p _ _ => a ≠ p
  | .retired _ _ _ => r.burst = none ∧ r.emergency = none ∧ ∀ m ∈ r.groups, m.pending = false
  | _ => True

theorem recordOk_iff (r : Radio) : recordOk r ↔ hearingOk r ∧ listOk r.groups ∧ stateOk r :=
  ⟨fun ⟨h1, h2, h3, h4, h5, h6⟩ => ⟨⟨h1, h2, h3⟩, ⟨h4, h5⟩, h6⟩, fun ⟨⟨h1, h2, h3⟩, ⟨h4, h5⟩, h6⟩ => ⟨h1, h2, h3, h4, h5, h6⟩⟩

/-- A change of state that counts the record at sites that it hears, and at no new one where it hears the others already. -/
theorem recordOk.restate {r r' : Radio} (h : recordOk r) (hh : r'.hearing = r.hearing) (hg : r'.groups = r.groups)
    (hc : ∀ n ∈ countedSites r'.state, n ∈ countedSites r.state ∨ n ∈ r.hearing.map Hearing.site) (hs : stateOk r') : recordOk r' := by
  obtain ⟨⟨h1, h2, h3⟩, hl, -⟩ := (recordOk_iff r).1 h
  exact (recordOk_iff r').2 ⟨⟨by rw [hh]; exact h1, by rw [hh]; exact h2, fun n hn => by
    rw [hh]; exact (hc n hn).elim (h3 n) id⟩, by rw [hg]; exact hl, hs⟩

theorem isMoving_iff_counted (st : RecordState) : isMoving st = decide ((countedSites st).length = 2) := by
  cases st <;> simp [isMoving, countedSites, servingSite, pendingSite]

/-! ### Booked steps -/

theorem SendFrame.booked {s t : State} (h : SendFrame s t) (hst : Steady s t) : Booked s t 0 0 := ⟨hst, h.calm, h.posted⟩
theorem CallFrame.booked {s t : State} (h : CallFrame s t) (hst : Steady s t) : Booked s t 0 0 := ⟨hst, h.calm, h.posted⟩

theorem booked_modRadio (s : State) (u : Nat) (f : Radio → Radio) : Booked s (modRadio s u f) 0 0 :=
  ⟨steady_modRadio s u f, calm_modRadio s u f, posted_modRadio s u f⟩
theorem booked_setRecordState (s : State) (u : Nat) (st : RecordState) : Booked s (setRecordState s u st) 0 0 := booked_modRadio s u _
theorem booked_putRadio (s : State) (u : Nat) (r : Radio) : Booked s (putRadio s u r) 0 0 :=
  ⟨steady_putRadio s u r, .of_eq rfl rfl, .of_groups (fun _ => rfl) rfl⟩
theorem booked_delRadio (s : State) (u : Nat) : Booked s (delRadio s u) 0 0 :=
  ⟨steady_delRadio s u, .of_eq rfl rfl, .of_groups (fun _ => rfl) rfl⟩
theorem booked_raise (s : State) (b : NoticeBody) : Booked s (raise s b) 0 0 := (sendFrame_raise s b).booked (steady_raise s b)
theorem booked_sendHandover (s : State) (n : Nat) (f : SiteOut) : Booked s (sendHandover s n f) 0 0 :=
  (sendFrame_sendHandover s n f).booked (inner_sendHandover s n f).steady
theorem booked_sendOrdinary (s : State) (n : Nat) (f : SiteOut) : Booked s (sendOrdinary s n f) 0 0 :=
  (sendFrame_sendOrdinary s n f).booked (inner_sendOrdinary s n f).steady
theorem booked_addReg (s : State) (n : Nat) : Booked s (addReg s n) 0 {.registered n} :=
  ⟨(inner_addReg s n).steady, .of_eq rfl rfl, posted_addReg s n⟩
theorem booked_addMembers (s : State) (gs : List Nat) (n : Nat) : Booked s (addMembers s gs n) 0 (memberCharge gs n) :=
  ⟨(inner_addMembers s gs n).steady, (groupFrame_addMembers s gs n).calm, posted_addMembers s gs n⟩
theorem booked_addTotals (s : State) (gs : List Nat) : Booked s (addTotals s gs) 0 (totalCharge gs) :=
  ⟨(inner_addTotals s gs).steady, (groupFrame_addTotals s gs).calm, posted_addTotals s gs⟩
theorem booked_subTotals (s : State) (gs : List Nat) : Booked s (subTotals s gs) (totalCharge gs) 0 :=
  ⟨(inner_subTotals s gs).steady, (groupFrame_subTotals s gs).calm, posted_subTotals s gs⟩
theorem calm_removeCounts (s : State) (gs : List Nat) (n : Nat) : Calm s (removeCounts s gs n) :=
  .trans (b := subReg s n) (.of_eq rfl rfl) (removeCounts_group s gs n).calm
theorem booked_removeCounts (s : State) (gs : List Nat) (n : Nat) :
    Booked s (removeCounts s gs n) ({.registered n} + memberCharge gs n) 0 :=
  ⟨(inner_removeCounts s gs n).steady, calm_removeCounts s gs n, posted_removeCounts s gs n⟩

theorem calm_clearFlags (s : State) (u : Nat) : Calm s (clearFlags s u) := by
  obtain ⟨s', h, e⟩ := clearFlags_frame s u
  exact .trans (b := s') (e ▸ calm_modRadio s u _) h.calm

theorem booked_clearFlags {s : State} {u : Nat} {r : Radio} (h : tget s.radios u = some r) :
    Booked s (clearFlags s u) (flagCharge r.groups) 0 :=
  ⟨(inner_clearFlags s u).steady, calm_clearFlags s u, posted_clearFlags h⟩

@[simp] theorem count_registered_totalCharge (n : Nat) (gs : List Nat) : (totalCharge gs).count (.registered n) = 0 := by
  induction gs with
  | nil => rfl
  | cons g gs ih => simp_all [totalCharge]

@[simp] theorem count_registered_memberCharge (n b : Nat) (gs : List Nat) : (memberCharge gs b).count (.registered n) = 0 := by
  induction gs with
  | nil => rfl
  | cons g gs ih => simp_all [memberCharge]

/-! ### Changes that move no count -/

theorem OutKept.of_change {s t : State} {u : Nat} {r r' : Radio} (hu : tget s.radios u = some r) (hr : t.radios = tput s.radios u r')
    (hlen : t.outbound.length + 2 * (if isMoving r'.state then 1 else 0) ≤ s.outbound.length + 2 * (if isMoving r.state then 1 else 0)) :
    OutKept s t := by
  rintro ⟨ha, h⟩
  refine ⟨by rw [hr]; exact ascending_tput _ _ _ ha, ?_⟩
  have := movingCount_tmod (t := t) (f := fun _ => r') ha hu (by rw [hr, tmod_of_some _ _ hu])
  omega

theorem OutKept.of_removal {s t : State} {u : Nat} {r : Radio} (hu : tget s.radios u = some r) (hr : t.radios = tdel s.radios u)
    (ho : t.outbound = s.outbound) : OutKept s t := by
  rintro ⟨ha, h⟩
  refine ⟨by rw [hr]; exact ascending_tdel _ _ ha, ?_⟩
  have : movingCount t + (if isMoving r.state then 1 else 0) = movingCount s := by
    unfold movingCount
    rw [hr]
    exact countP_tdel_of_some (fun p => isMoving p.2.state) hu
  rw [ho]
  omega

/-- A change of a record that leaves its group list and the sites where it is counted. -/
theorem event_modRadio {w : Nat → Prop} {s : State} {u : Nat} {f : Radio → Radio} (ha : Ascending s.radios)
    (hf : ∀ r, tget s.radios u = some r → (f r).groups = r.groups ∧ countedSites (f r).state = countedSites r.state)
    (hshape : RecordsOk s → ∀ r, tget s.radios u = some r → recordOk (f r)) : Event w s (modRadio s u f) := by
  cases hu : tget s.radios u with
  | none => rw [modRadio, tmod_of_none _ _ hu]; exact .refl s
  | some r =>
    obtain ⟨hg, hc⟩ := hf r hu
    have hr : (modRadio s u f).radios = tput s.radios u (f r) := tmod_of_some _ _ hu
    refine .of_change (kept := charge r) (d := 0) (up := 0) ha hu (booked_modRadio s u f) (.of_change hu hr ?_) hr (by simp) ?_
      (fun _ h _ => by simp only [Multiset.count_zero]; omega) (fun h => hshape h r hu) (fun _ h => by rw [hg] at h; exact h)
    · rw [isMoving_iff_counted, isMoving_iff_counted, hc]; exact Nat.le_refl _
    · simp [charge, hg, hc]

/-- A change of a record's own fields alone. -/
theorem event_modFields {w : Nat → Prop} {s : State} {u : Nat} {f : Radio → Radio} (ha : Ascending s.radios)
    (hf : ∀ r, (f r).groups = r.groups ∧ (f r).state = r.state ∧ (f r).hearing = r.hearing)
    (hstate : RecordsOk s → ∀ r, tget s.radios u = some r → stateOk (f r)) : Event w s (modRadio s u f) := by
  refine event_modRadio ha (fun r _ => ⟨(hf r).1, by rw [(hf r).2.1]⟩) fun h r hr => ?_
  obtain ⟨hg, hst, hh⟩ := hf r
  exact (h.record hr).restate hh hg (fun n hn => .inl (by rw [← hst]; exact hn)) (hstate h r hr)

theorem event_renewLease {w : Nat → Prop} {s : State} (ha : Ascending s.radios) (u t : Nat) : Event w s (renewLease s u t) := by
  refine event_modRadio ha (fun r _ => ?_) fun h r hr => ?_
  · cases e : r.state <;> simp [countedSites, servingSite, pendingSite, e]
  · have hok := h.record hr
    obtain ⟨-, -, hs⟩ := (recordOk_iff r).1 hok
    cases e : r.state <;> simp only []
    case registered a l => exact hok.restate rfl rfl (fun n hn => .inl (by rw [e]; exact hn)) trivial
    case moving a p l c =>
      rw [stateOk, e] at hs
      exact hok.restate rfl rfl (fun n hn => .inl (by rw [e]; exact hn)) hs
    all_goals exact hok

/-- A record whose state changes between states that count it at the same site. -/
theorem event_restate {w : Nat → Prop} {s : State} {u : Nat} {r : Radio} {st : RecordState} (ha : Ascending s.radios)
    (hu : tget s.radios u = some r) (hc : countedSites st = countedSites r.state)
    (hst : stateOk r → stateOk { r with state := st }) : Event w s (setRecordState s u st) := by
  refine event_modRadio ha (fun r' hr' => ?_) fun h r' hr' => ?_ <;> rw [hu] at hr' <;> cases hr'
  · exact ⟨rfl, hc⟩
  · obtain ⟨-, -, hs⟩ := (recordOk_iff r).1 (h.record hu)
    exact (h.record hu).restate rfl rfl (fun n hn => .inl (by rw [← hc]; exact hn)) (hst hs)

theorem event_activateEmergency {w : Nat → Prop} {s : State} {u : Nat} (ha : Ascending s.radios) (t site : Nat)
    (hne : RecordsOk s → ∀ r, tget s.radios u = some r → stateName r.state ≠ .retired) :
    Event w s (activateEmergency s u t site) := by
  unfold activateEmergency
  split
  · split
    · exact .refl s
    · refine .trans (b := modRadio s u fun r => { r with emergency := some { since := t, site := site } })
        (event_modFields ha (fun _ => ⟨rfl, rfl, rfl⟩) fun h r hr => ?_) (event_raise _ _)
      obtain ⟨-, -, hs⟩ := (recordOk_iff r).1 (h.record hr)
      have := hne h r hr
      unfold stateOk at hs ⊢
      cases e : r.state <;> simp_all [stateName]
  · exact .refl s

/-! ### The handover (R66, R72, R75, R80) -/

/-- The end of a handover: two closing directives, the counts removed at one of its sites, and the record's change. -/
theorem event_handoverEnd {w : Nat → Prop} {s : State} {u a p n : Nat} {f g : SiteOut} {chg : Radio → Radio} {r : Radio}
    {kept : Multiset Account} (ha : Ascending s.radios) (hu : tget s.radios u = some r) (hm : isMoving r.state = true)
    (hm' : isMoving (chg r).state = false) (hg : (chg r).groups = r.groups)
    (hold : charge r = kept + ({.registered n} + memberCharge (groupNumbers r.groups) n)) (hnew : charge (chg r) = kept)
    (hshape : RecordsOk s → recordOk (chg r)) :
    Event w s (modRadio (removeCounts (sendHandover (sendHandover s p f) a g) (groupsOf s u) n) u chg) := by
  have hr : (modRadio (removeCounts (sendHandover (sendHandover s p f) a g) (groupsOf s u) n) u chg).radios =
      tput s.radios u (chg r) := by
    rw [closing_eq]
    exact (by simp only [modRadio_radios, removeCounts_radios]; exact tmod_of_some _ _ hu)
  have ho := (handoverEnd_facts s u a p n f g (groupsOf s u) chg hu).2.2.1
  refine .of_change (d := {.registered n} + memberCharge (groupNumbers r.groups) n) (up := 0) (kept := kept) ha hu ?_
    (.of_change hu hr ?_) hr hold (by simpa using hnew) (fun _ h _ => by simp only [Multiset.count_zero]; omega) hshape
    (fun _ h => by rw [hg] at h; exact h)
  · rw [← groupsOf_of_some hu]
    exact ((booked_removeCounts _ (groupsOf s u) n).after ((booked_sendHandover s p f).then (booked_sendHandover _ a g))).then
      (booked_modRadio _ u chg)
  · rw [ho, hm, hm']
    simp only [List.length_append]
    split <;> split <;> simp

theorem event_commitHandover {w : Nat → Prop} {s : State} {u a p lease lease0 tag : Nat} {c : Handover} {r : Radio}
    (ha : Ascending s.radios) (hu : tget s.radios u = some r) (hs : r.state = .moving a p lease0 c) :
    Event w s (commitHandover s u a p lease tag) := by
  refine event_handoverEnd (kept := {.registered p} + (memberCharge (groupNumbers r.groups) p + totalCharge (groupNumbers r.groups) +
    flagCharge r.groups)) ha hu (by rw [hs]; rfl) rfl rfl ?_ (charge_registered rfl) fun h => ?_
  · rw [charge_moving hs]; abel
  · refine (h.record hu).restate rfl rfl (fun n hn => .inl ?_) trivial
    rw [hs]
    simp only [countedSites, servingSite, pendingSite, Option.toList_some, Option.toList_none, List.append_nil] at hn ⊢
    simp_all

/-- An end that leaves the record at the from-site. -/
theorem event_handoverBack {w : Nat → Prop} {s : State} {u a p lease0 : Nat} {c : Handover} {r : Radio} {f g : SiteOut}
    {st : RecordState} {how : HandoverEnd} (ha : Ascending s.radios) (hu : tget s.radios u = some r)
    (hs : r.state = .moving a p lease0 c) (hst : (∃ l, st = .registered a l) ∨ ∃ y l, st = .presumed a y l) :
    Event w s (modRadio (removeCounts (sendHandover (sendHandover s p f) a g) (groupsOf s u) p) u fun r =>
      { r with state := st, lastHandover := some (how, p) }) := by
  have hc : countedSites st = [a] := by rcases hst with ⟨l, rfl⟩ | ⟨y, l, rfl⟩ <;> rfl
  refine event_handoverEnd (kept := {.registered a} + (memberCharge (groupNumbers r.groups) a + totalCharge (groupNumbers r.groups) +
    flagCharge r.groups)) ha hu (by rw [hs]; rfl) ?_ rfl ?_ ?_ fun h => ?_
  · rw [isMoving_iff_counted]; simp [hc]
  · rw [charge_moving hs]; abel
  · rcases hst with ⟨l, rfl⟩ | ⟨y, l, rfl⟩
    · exact charge_registered rfl
    · exact charge_presumed rfl
  · refine (h.record hu).restate rfl rfl (fun n hn => .inl ?_) ?_
    · rw [hs]
      simp only [hc] at hn
      simp_all [countedSites, servingSite]
    · rcases hst with ⟨l, rfl⟩ | ⟨y, l, rfl⟩ <;> trivial

theorem event_unwindHandover {w : Nat → Prop} {s : State} {u a p lease lease0 tag : Nat} {how : HandoverEnd} {c : Handover} {r : Radio}
    (ha : Ascending s.radios) (hu : tget s.radios u = some r) (hs : r.state = .moving a p lease0 c) :
    Event w s (unwindHandover s u a p lease tag how) := by
  unfold unwindHandover
  simp only []
  rw [unwind_state]
  refine event_handoverBack ha hu hs ?_
  split
  · exact .inl ⟨_, rfl⟩
  · exact .inr ⟨_, _, rfl⟩

theorem event_abortByLease {w : Nat → Prop} {s : State} {u a p lease0 tag : Nat} {c : Handover} {r : Radio} (ha : Ascending s.radios)
    (hu : tget s.radios u = some r) (hs : r.state = .moving a p lease0 c) : Event w s (abortByLease s u a p tag) :=
  event_handoverBack ha hu hs (.inr ⟨_, _, rfl⟩)

theorem event_seeFlags {w : Nat → Prop} {s : State} {u a p lease lease0 : Nat} {c c0 : Handover} {r : Radio} (ha : Ascending s.radios)
    (hu : tget s.radios u = some r) (hs : r.state = .moving a p lease0 c0) : Event w s (seeFlags s u a p lease c) := by
  refine event_ite (fun _ => event_commitHandover ha hu hs) fun _ => ?_
  refine event_restate ha hu (by rw [hs]; rfl) fun h => ?_
  rw [stateOk, hs] at h
  exact h

/-- The start of a handover, but for the passing of counts to the Call Table. -/
def handoverBegun (s : State) (u a lease p t : Nat) : State :=
  sendHandover (sendHandover (addMembers (addReg (setRecordState { s with tagCounter := nextTag s.tagCounter } u
    (.moving a p lease { tag := s.tagCounter, readySeen := false, quiescedSeen := false,
                         deadline := t + tenths s.params.handoverTimeout })) p) (groupsOf s u) p) p
    (.prepare p u s.tagCounter (groupsOf s u))) a (.quiesce a u s.tagCounter)

theorem startHandover_eq (s : State) (u a lease p t : Nat) : ∃ passes, startHandover s u a lease p t =
    passAll (handoverBegun s u a lease p t) passes := ⟨_, rfl⟩

theorem handoverBegun_radios {s : State} {u : Nat} {r : Radio} (hu : tget s.radios u = some r) (a lease p t : Nat) :
    (handoverBegun s u a lease p t).radios = tput s.radios u { r with
      state := .moving a p lease { tag := s.tagCounter, readySeen := false, quiescedSeen := false,
                                   deadline := t + tenths s.params.handoverTimeout } } := by
  unfold handoverBegun
  rw [closing_eq]
  simp only []
  rw [(groupFrame_addMembers _ _ _).radios]
  exact tmod_of_some _ _ hu

theorem event_startHandover {w : Nat → Prop} {s : State} {u a lease lease0 p t : Nat} {r : Radio} (ha : Ascending s.radios)
    (hu : tget s.radios u = some r) (hs : r.state = .registered a lease0) (hroom : hasRoom s 4 = true)
    (hp : p ∈ r.hearing.map Hearing.site) (hne : a ≠ p) (hcap : ∀ x, tget s.sites p = some x → x.count < x.capacity) :
    Event w s (startHandover s u a lease p t) := by
  obtain ⟨passes, e⟩ := startHandover_eq s u a lease p t
  rw [e]
  refine .trans ?_ (event_passAll _ _)
  have hr := handoverBegun_radios hu a lease p t
  refine .of_change (d := 0) (up := {.registered p} + memberCharge (groupNumbers r.groups) p) (kept := charge r) ha hu ?_ (fun hout => ?_)
    hr (by simp) ?_ (fun {n x} hx h1 h2 => ?_) (fun h => ?_) (fun _ h => h)
  · rw [← groupsOf_of_some hu]
    have h0 : Booked s { s with tagCounter := nextTag s.tagCounter } 0 0 :=
      ⟨.of_eq rfl rfl rfl rfl rfl rfl, .of_eq rfl rfl, .of_groups (fun _ => rfl) rfl⟩
    have h1 := ((booked_addReg (setRecordState { s with tagCounter := nextTag s.tagCounter } u
      (.moving a p lease { tag := s.tagCounter, readySeen := false, quiescedSeen := false,
                           deadline := t + tenths s.params.handoverTimeout })) p).trans (booked_addMembers _ (groupsOf s u) p)).then
      ((booked_sendHandover _ p (.prepare p u s.tagCounter (groupsOf s u))).then (booked_sendHandover _ a (.quiesce a u s.tagCounter)))
    simpa [handoverBegun] using h1.after (h0.then (booked_setRecordState _ u _))
  · obtain ⟨-, hle⟩ := hout
    refine ⟨by rw [hr]; exact ascending_tput _ _ _ ha, ?_⟩
    have hmov := movingCount_tmod (t := handoverBegun s u a lease p t) (f := fun _ => { r with
      state := .moving a p lease { tag := s.tagCounter, readySeen := false, quiescedSeen := false,
                                   deadline := t + tenths s.params.handoverTimeout } }) ha hu (by rw [hr, tmod_of_some _ _ hu])
    have hout : (handoverBegun s u a lease p t).outbound.length ≤ s.outbound.length + 2 := by
      unfold handoverBegun
      rw [closing_eq]
      simp only [List.length_append]
      rw [(groupFrame_addMembers _ _ _).outbound]
      simp only [addReg_outbound, setRecordState_outbound]
      split <;> split <;> simp
    have := (hasRoom_iff s 4).1 hroom
    rw [hs] at hmov
    simp only [isMoving, Bool.false_eq_true, if_false, if_true] at hmov
    omega
  · rw [charge_registered hs, charge_moving rfl]; abel
  · simp only [Multiset.count_zero, Multiset.count_add, count_registered_memberCharge, Multiset.count_singleton,
      Account.registered.injEq]
    split
    · subst_vars
      have := hcap x hx
      omega
    · omega
  · refine (h.record hu).restate rfl rfl (fun n hn => ?_) hne
    rw [hs]
    simp only [countedSites, servingSite, pendingSite, Option.toList_some, Option.toList_none, List.append_nil, List.mem_append,
      List.mem_singleton] at hn ⊢
    exact hn.imp id fun e => by rw [e]; exact hp

/-! ### Adoption (R61) -/

theorem event_addCounts_passes {w : Nat → Prop} (s : State) (gs : List Nat) (b : Nat) :
    Event w (addMembers (addReg s b) gs b) (addCounts s gs b) := event_passAll _ _

theorem adoptedNew_event {w : Nat → Prop} {s : State} {u b t : Nat} {r : Radio} (ha : Ascending s.radios)
    (hu : tget s.radios u = some r) (hs : servingSite r.state = none) (hb : b ∈ r.hearing.map Hearing.site)
    (hcount : ∀ x, tget s.sites b = some x → x.capacity ≤ 255 → x.count < 255) : Event w s (adoptedNew s u b t) := by
  refine .trans ?_ (event_addCounts_passes _ _ _)
  have hr : (addMembers (addReg (addTotals (setRecordState s u (.registered b (leaseFrom s t))) (groupsOf s u)) b) (groupsOf s u) b).radios =
      tput s.radios u { r with state := .registered b (leaseFrom s t) } := by
    rw [(groupFrame_addMembers _ _ _).radios, addReg_radios, (groupFrame_addTotals _ _).radios]
    exact tmod_of_some _ _ hu
  have hm : isMoving r.state = false := by cases e : r.state <;> simp_all [servingSite, isMoving]
  refine .of_change (d := 0) (up := totalCharge (groupNumbers r.groups) + ({.registered b} + memberCharge (groupNumbers r.groups) b))
    (kept := charge r) ha hu ?_ (.of_change hu hr ?_) hr (by simp) ?_ (fun {n x} hx h1 h2 => ?_) (fun h => ?_) (fun _ h => h)
  · rw [← groupsOf_of_some hu]
    simpa using ((booked_addTotals _ (groupsOf s u)).trans
      ((booked_addReg _ b).trans (booked_addMembers _ (groupsOf s u) b))).after (booked_setRecordState s u (.registered b (leaseFrom s t)))
  · rw [(groupFrame_addMembers _ _ _).outbound, addReg_outbound, (groupFrame_addTotals _ _).outbound]
    simp [isMoving]
  · rw [charge_uncounted hs, charge_registered rfl]; abel
  · simp only [Multiset.count_zero, Multiset.count_add, count_registered_memberCharge, count_registered_totalCharge,
      Multiset.count_singleton, Account.registered.injEq]
    split
    · subst_vars
      have := hcount x hx h2
      omega
    · omega
  · refine (h.record hu).restate rfl rfl (fun n hn => .inr ?_) trivial
    simp only [countedSites, servingSite, pendingSite, Option.toList_some, Option.toList_none, List.append_nil, List.mem_singleton] at hn
    exact hn ▸ hb

theorem adoptedFrom_event {w : Nat → Prop} {s : State} {u a b t hold : Nat} {y : PresumeCause} {r : Radio} (ha : Ascending s.radios)
    (hu : tget s.radios u = some r) (hs : r.state = .presumed a y hold) (hb : b ∈ r.hearing.map Hearing.site)
    (hcount : ∀ x, tget s.sites b = some x → x.capacity ≤ 255 → x.count < 255) : Event w s (adoptedFrom s u a b t) := by
  refine .trans ?_ (event_addCounts_passes _ _ _)
  have hr : (addMembers (addReg (removeCounts (setRecordState s u (.registered b (leaseFrom s t))) (groupsOf s u) a) b)
      (groupsOf s u) b).radios = tput s.radios u { r with state := .registered b (leaseFrom s t) } := by
    rw [(groupFrame_addMembers _ _ _).radios, addReg_radios, removeCounts_radios]
    exact tmod_of_some _ _ hu
  refine .of_change (d := {.registered a} + memberCharge (groupNumbers r.groups) a)
    (up := {.registered b} + memberCharge (groupNumbers r.groups) b)
    (kept := totalCharge (groupNumbers r.groups) + flagCharge r.groups) ha hu ?_ (.of_change hu hr ?_) hr ?_ ?_
    (fun {n x} hx h1 h2 => ?_) (fun h => ?_) (fun _ h => h)
  · rw [← groupsOf_of_some hu]
    simpa using ((booked_removeCounts _ (groupsOf s u) a).trans
      ((booked_addReg _ b).trans (booked_addMembers _ (groupsOf s u) b))).after (booked_setRecordState s u (.registered b (leaseFrom s t)))
  · rw [(groupFrame_addMembers _ _ _).outbound, addReg_outbound, removeCounts_outbound]
    simp [isMoving]
  · rw [charge_presumed hs]; abel
  · rw [charge_registered rfl]; abel
  · simp only [Multiset.count_add, count_registered_memberCharge, Multiset.count_singleton, Account.registered.injEq]
    split
    · subst_vars
      have := hcount x hx h2
      omega
    · omega
  · refine (h.record hu).restate rfl rfl (fun n hn => .inr ?_) trivial
    simp only [countedSites, servingSite, pendingSite, Option.toList_some, Option.toList_none, List.append_nil, List.mem_singleton] at hn
    exact hn ▸ hb

theorem event_markOver {w : Nat → Prop} (s s' : State) (b : Nat) : Event w s' (markOver s s' b) :=
  event_ite (fun _ => event_setOver s' b) fun _ => .refl s'

theorem event_adoptAt_new {w : Nat → Prop} {s : State} {u b t : Nat} {wasLost : Bool} {r : Radio} (ha : Ascending s.radios)
    (hu : tget s.radios u = some r) (hs : servingSite r.state = none) (hb : b ∈ r.hearing.map Hearing.site)
    (hcount : ∀ x, tget s.sites b = some x → x.capacity ≤ 255 → x.count < 255) : Event w s (adoptAt s u b t none wasLost) := by
  rw [adoptAt_new]
  have h := (adoptedNew_event (w := w) (t := t) ha hu hs hb hcount).trans ((event_markOver s _ b).trans
    (event_sendOrdinary _ b (.adopt b u (groupsOf s u))))
  exact event_ite (fun _ => h.trans (event_raise _ _)) fun _ => h

theorem event_adoptAt_from {w : Nat → Prop} {s : State} {u a b t hold : Nat} {y : PresumeCause} {wasLost : Bool} {r : Radio}
    (ha : Ascending s.radios) (hu : tget s.radios u = some r) (hs : r.state = .presumed a y hold) (hb : b ∈ r.hearing.map Hearing.site)
    (hcount : a ≠ b → ∀ x, tget s.sites b = some x → x.capacity ≤ 255 → x.count < 255) :
    Event w s (adoptAt s u b t (some a) wasLost) := by
  by_cases hab : a = b
  · subst hab
    rw [adoptAt_same]
    exact (event_restate (st := .registered a (leaseFrom s t)) ha hu (by rw [hs]; rfl) fun _ => trivial).trans (event_sendOrdinary _ _ _)
  · rw [adoptAt_from s u b t hab]
    have h := (adoptedFrom_event (w := w) (t := t) ha hu hs hb (hcount hab)).trans ((event_markOver s _ b).trans
      ((event_sendOrdinary _ a (.drop a u)).trans (event_sendOrdinary _ b (.adopt b u (groupsOf s u)))))
    exact event_ite (fun _ => h.trans (event_raise _ _)) fun _ => h

/-! ### Loss (R16) -/

theorem event_toLost {w : Nat → Prop} {s : State} {u a hold : Nat} {y : PresumeCause} {r : Radio} (ha : Ascending s.radios)
    (hu : tget s.radios u = some r) (hs : r.state = .presumed a y hold) : Event w s (toLost s u a) := by
  unfold toLost
  simp only []
  refine .trans (event_sendOrdinary s a (.drop a u)) (.trans ?_ (event_raise _ _))
  have hsend := sendFrame_sendOrdinary s a (.drop a u)
  have ha' : Ascending (sendOrdinary s a (.drop a u)).radios := by rw [hsend.radios]; exact ha
  have hu' : tget (sendOrdinary s a (.drop a u)).radios u = some r := by rw [hsend.radios]; exact hu
  have hr : (setRecordState (subTotals (removeCounts (sendOrdinary s a (.drop a u)) (groupsOf s u) a) (groupsOf s u)) u (.lost a)).radios =
      tput (sendOrdinary s a (.drop a u)).radios u { r with state := .lost a } := by
    rw [setRecordState_radios, (groupFrame_subTotals _ _).radios, removeCounts_radios]
    exact tmod_of_some _ _ hu'
  refine .of_change (d := {.registered a} + memberCharge (groupNumbers r.groups) a + totalCharge (groupNumbers r.groups)) (up := 0)
    (kept := flagCharge r.groups) ha' hu' ?_ (.of_change hu' hr ?_) hr ?_ (by rw [charge_uncounted rfl]; simp)
    (fun _ h1 _ => by simp only [Multiset.count_zero]; omega) (fun h => ?_) (fun _ h => h)
  · rw [← groupsOf_of_some hu]
    simpa using ((booked_removeCounts _ (groupsOf s u) a).trans (booked_subTotals _ (groupsOf s u))).then
      (booked_setRecordState _ u (.lost a))
  · rw [setRecordState_outbound, (groupFrame_subTotals _ _).outbound, removeCounts_outbound]
    simp [isMoving]
  · rw [charge_presumed hs]; abel
  · exact (h.record hu').restate rfl rfl (fun n hn => nomatch hn) trivial

/-! ### Flags delivered, and freeing (R4, R44) -/

theorem hasFlag_clear (l : List Membership) (g : Nat) : hasFlag (l.map fun m => { m with pending := false }) g true = false := by
  simp [hasFlag]

theorem event_clearFlags {w : Nat → Prop} {s : State} (ha : Ascending s.radios) (u : Nat) : Event w s (clearFlags s u) := by
  cases hu : tget s.radios u with
  | none => rw [clearFlags_of_none hu]; exact .refl s
  | some r =>
    have hr : (clearFlags s u).radios = tput s.radios u { r with groups := r.groups.map fun m => { m with pending := false } } := by
      rw [clearFlags_radios, tmod_of_some _ _ hu]
    refine .of_change (d := flagCharge r.groups) (up := 0) (kept := ((countedSites r.state).map fun n => ({.registered n} : Multiset Account)).sum +
      listCharge (countedSites r.state) (r.groups.map fun m => { m with pending := false })) ha hu (booked_clearFlags hu)
      (.of_change hu hr (by rw [clearFlags_outbound])) hr ?_ (by simp [charge])
      (fun _ h1 _ => by simp only [Multiset.count_zero]; omega) (fun h => ?_)
      (fun _ h => by rw [hasFlag_clear] at h; cases h)
    · have : listCharge (countedSites r.state) r.groups =
          listCharge (countedSites r.state) (r.groups.map fun m => { m with pending := false }) + flagCharge r.groups := by
        simp only [listCharge, flagCharge, List.map_map, ← List.sum_map_add]
        congr 1
        exact List.map_congr_left fun m _ => by simp [entryCharge]
      simp only [charge, this, add_assoc]
    · obtain ⟨h1, ⟨h2, h3⟩, h4⟩ := (recordOk_iff r).1 (h.record hu)
      refine (recordOk_iff _).2 ⟨h1, ⟨by simpa using h2, by simpa using h3⟩, ?_⟩
      unfold stateOk at h4 ⊢
      cases e : r.state <;> simp_all

/-- The freeing of a record that is counted nowhere, after a change of its own fields. -/
theorem event_freeChanged {w : Nat → Prop} {s s1 : State} {u : Nat} {r r1 : Radio} (ha : Ascending s.radios)
    (hu : tget s.radios u = some r) (hs : servingSite r.state = none) (hb : Booked s s1 0 0) (ho : s1.outbound = s.outbound)
    (hr1 : s1.radios = tput s.radios u r1) (hg : r1.groups = r.groups) : Event w s (freeRecord s1 u) := by
  have hu1 : tget s1.radios u = some r1 := by rw [hr1, tget_tput_self]
  have hr : (freeRecord s1 u).radios = tdel s.radios u := by
    rw [freeRecord, delRadio_radios, clearFlags_radios, tmod_of_some _ _ hu1, hr1, tput_tput, tdel_tput _ _ _ ha]
  refine .of_free ha hu ?_ (.of_removal hu hr (by rw [freeRecord, delRadio_outbound, clearFlags_outbound, ho])) hr
  rw [charge_uncounted hs, ← hg]
  exact ((booked_clearFlags hu1).after hb).then (booked_delRadio _ u)

theorem event_freeRecord {w : Nat → Prop} {s : State} {u : Nat} {r : Radio} (ha : Ascending s.radios)
    (hu : tget s.radios u = some r) (hs : servingSite r.state = none) : Event w s (freeRecord s u) :=
  event_freeChanged ha hu hs (.refl s) rfl (tput_same _ ha hu).symm rfl

theorem event_freeAfter {w : Nat → Prop} {s : State} {u : Nat} {r : Radio} {f : Radio → Radio} (ha : Ascending s.radios)
    (hu : tget s.radios u = some r) (hs : servingSite r.state = none) (hf : (f r).groups = r.groups) :
    Event w s (freeRecord (modRadio s u f) u) :=
  event_freeChanged ha hu hs (booked_modRadio s u f) rfl (tmod_of_some _ _ hu) hf

end Sys2Proof.Machine

/-! Retirement, the change of a group list, the hearing list, site selection and the close of a burst as events (chapters 1, 2, 3 and
6). -/

namespace Sys2Proof.Machine

/-! ### Retirement (R20, R21, R80) -/

theorem sum_map_sum_comm {α β M : Type} [AddCommMonoid M] (l : List α) (k : List β) (f : α → β → M) :
    (l.map fun x => (k.map fun y => f x y).sum).sum = (k.map fun y => (l.map fun x => f x y).sum).sum := by
  induction l with
  | nil => simp
  | cons x l ih => simp only [List.map_cons, List.sum_cons, ih, ← List.sum_map_add]

theorem listCharge_split (at_ : List Nat) (l : List Membership) : listCharge at_ l =
    (at_.map fun n => memberCharge (groupNumbers l) n).sum + (if at_.isEmpty then 0 else totalCharge (groupNumbers l)) + flagCharge l := by
  have ht : (if at_.isEmpty then 0 else totalCharge (groupNumbers l)) =
      (l.map fun m => if at_.isEmpty then 0 else ({.total m.group} : Multiset Account)).sum := by
    split
    · simp
    · exact sum_map_groupNumbers l _
  rw [ht]
  simp only [memberCharge, sum_map_groupNumbers, flagCharge]
  rw [← sum_map_sum_comm l at_ fun m n => ({.members m.group n} : Multiset Account)]
  simp only [← List.sum_map_add]
  rfl

theorem booked_leaveCounted {s : State} {u : Nat} {r : Radio} (hu : tget s.radios u = some r) (at_ : List Nat) :
    Booked s (leaveCounted s u at_) ((at_.map fun n => ({.registered n} : Multiset Account)).sum + listCharge at_ r.groups) 0 := by
  have h1 : Booked s (at_.foldl (fun s' n => removeCounts s' (groupsOf s u) n) s)
      (at_.map fun n => ({.registered n} : Multiset Account) + memberCharge (groupsOf s u) n).sum 0 := by
    simpa using Booked.foldl (u := fun _ => 0) (fun t n => booked_removeCounts t (groupsOf s u) n) at_ s
  have hr1 : (at_.foldl (fun s' n => removeCounts s' (groupsOf s u) n) s).radios = s.radios :=
    foldl_keeps State.radios _ (fun t n => removeCounts_radios t (groupsOf s u) n) at_ s
  have h2 : Booked (at_.foldl (fun s' n => removeCounts s' (groupsOf s u) n) s)
      (if at_.isEmpty then at_.foldl (fun s' n => removeCounts s' (groupsOf s u) n) s
        else subTotals (at_.foldl (fun s' n => removeCounts s' (groupsOf s u) n) s) (groupsOf s u))
      (if at_.isEmpty then 0 else totalCharge (groupsOf s u)) 0 := by
    split
    · exact .refl _
    · exact booked_subTotals _ _
  have hr2 : tget (if at_.isEmpty then at_.foldl (fun s' n => removeCounts s' (groupsOf s u) n) s
      else subTotals (at_.foldl (fun s' n => removeCounts s' (groupsOf s u) n) s) (groupsOf s u)).radios u = some r := by
    split
    · rw [hr1]; exact hu
    · rw [(groupFrame_subTotals _ _).radios, hr1]; exact hu
  have h := (h1.trans h2).trans (booked_clearFlags hr2)
  rw [listCharge_split, ← groupsOf_of_some hu]
  rw [List.sum_map_add] at h
  simpa [leaveCounted, add_assoc] using h

/-- A record that retires leaves the counts, and its flags are cleared. -/
theorem event_retire {w : Nat → Prop} {s s2 : State} {u : Nat} {r r2 : Radio} {at_ : List Nat} (ha : Ascending s.radios)
    (hu : tget s.radios u = some r) (hat : at_ = countedSites r.state) (hb : Booked s s2 0 0) (hout : OutKept s s2)
    (hr2 : s2.radios = tput s.radios u r2) (hret : ∃ n y h, r2.state = .retired n y h)
    (hkeep : r2.groups = r.groups ∧ r2.hearing = r.hearing ∧ r2.burst = none ∧ r2.emergency = none) :
    Event w s (leaveCounted s2 u at_) := by
  obtain ⟨hg, hh, hburst, hem⟩ := hkeep
  obtain ⟨n, y, hold, hst⟩ := hret
  have hu2 : tget s2.radios u = some r2 := by rw [hr2, tget_tput_self]
  obtain ⟨hrad, -, ho, -⟩ := leaveCounted_facts s2 u at_
  have hr : (leaveCounted s2 u at_).radios = tput s.radios u { r2 with groups := r2.groups.map fun m => { m with pending := false } } := by
    rw [hrad, tmod_of_some _ _ hu2, hr2, tput_tput]
  refine .of_change (d := charge r) (up := 0) (kept := 0) ha hu ?_ (.trans hout ?_) hr (by simp) ?_
    (fun _ h1 _ => by simp only [Multiset.count_zero]; omega) (fun h => ?_) (fun _ h => by rw [hasFlag_clear] at h; cases h)
  · have h := (booked_leaveCounted hu2 at_).after hb
    rw [hg, hat] at h
    rw [hat]
    exact h
  · refine .of_change hu2 (by rw [hr, hr2, tput_tput]) ?_
    rw [ho]
  · rw [charge_uncounted (by rw [hst]; rfl), flagCharge_clear]; simp
  · obtain ⟨⟨h1, h2, -⟩, ⟨h3, h4⟩, -⟩ := (recordOk_iff r).1 (h.record hu)
    refine (recordOk_iff _).2 ⟨⟨by rw [hh]; exact h1, by rw [hh]; exact h2, fun k hk => ?_⟩,
      ⟨by rw [List.length_map, hg]; exact h3, by rw [groupNumbers_clear, hg]; exact h4⟩, ?_⟩
    · rw [hst] at hk; cases hk
    · simp only [stateOk, hst]
      exact ⟨hburst, hem, by simp⟩

theorem event_deregister {w : Nat → Prop} {s : State} {u : Nat} (ha : Ascending s.radios)
    (hclear : ∀ r, tget s.radios u = some r → r.burst = none ∧ r.emergency = none) : Event w s (deregister s u) := by
  unfold deregister
  split
  · rename_i r hu
    obtain ⟨hb, he⟩ := hclear r hu
    have leave : ∀ {at_ : List Nat} {st : RecordState}, at_ = countedSites r.state → (∃ n y h, st = .retired n y h) →
        isMoving r.state = false → Event w s (leaveCounted (setRecordState s u st) u at_) := fun {at_ st} hat hst hm => by
      have hr2 : (setRecordState s u st).radios = tput s.radios u { r with state := st } := tmod_of_some _ _ hu
      refine event_retire ha hu hat (booked_setRecordState s u st) (.of_change hu hr2 ?_) hr2 hst ⟨rfl, rfl, hb, he⟩
      obtain ⟨n, y, h, rfl⟩ := hst
      simp [isMoving]
    split
    · rename_i a l hs
      exact leave (by rw [hs]; rfl) ⟨_, _, _, rfl⟩ (by rw [hs]; rfl)
    · rename_i a y l hs
      exact leave (by rw [hs]; rfl) ⟨_, _, _, rfl⟩ (by rw [hs]; rfl)
    · rename_i a p l c hs
      simp only []
      rw [closing_eq]
      refine event_retire (r2 := { r with state := retiredNow s a, lastHandover := some (.aborted, p) }) ha hu (by rw [hs]; rfl) ?_
        (.of_change hu (tmod_of_some _ _ hu) ?_) (tmod_of_some _ _ hu) ⟨_, _, _, rfl⟩ ⟨rfl, rfl, hb, he⟩
      · rw [← closing_eq]
        exact ((booked_sendHandover s p _).then (booked_sendHandover _ a _)).then (booked_modRadio _ u _)
      · simp only [modRadio_outbound, List.length_append, hs, retiredNow, isMoving]
        split <;> split <;> simp
    · rename_i n hs
      exact leave (by rw [hs]; rfl) ⟨_, _, _, rfl⟩ (by rw [hs]; rfl)
    · exact .refl s
    · exact .refl s
  · exact .refl s

/-- A record without burst and emergency. -/
def released (r : Radio) : Radio := { r with emergency := none, burst := none }

theorem event_forceRelease {w : Nat → Prop} {s : State} {u : Nat} (ha : Ascending s.radios) : Event w s (forceRelease s u) := by
  unfold forceRelease
  simp only []
  split
  · rename_i r hu
    have hr0 : (modRadio s u released).radios = tput s.radios u (released r) := tmod_of_some _ _ hu
    have leave : ∀ {a : Nat} {st : RecordState} {k : Nat} {f : SiteOut}, [a] = countedSites r.state → (∃ n y h, st = .retired n y h) →
        isMoving r.state = false →
        Event w s (leaveCounted (sendOrdinary (setRecordState (modRadio s u released) u st) k f) u [a]) := fun {a st k f} hat hst hm => by
      have hr2 : (setRecordState (modRadio s u released) u st).radios = tput s.radios u { released r with state := st } := by
        rw [setRecordState_radios, modRadio_radios, tmod_tmod, tmod_of_some _ _ hu]; rfl
      have hsend := sendFrame_sendOrdinary (setRecordState (modRadio s u released) u st) k f
      refine event_retire (r2 := { released r with state := st }) ha hu hat (((booked_modRadio s u _).then (booked_setRecordState _ u st)).then (booked_sendOrdinary _ k f))
        (.trans (.of_change hu hr2 ?_) (outKept_sendOrdinary _ k f)) (by rw [hsend.radios]; exact hr2) hst ⟨rfl, rfl, rfl, rfl⟩
      obtain ⟨n, y, h, rfl⟩ := hst
      simp [isMoving]
    split
    · rename_i hs
      exact event_freeAfter (f := released) ha hu (by rw [hs]; rfl) rfl
    · rename_i a l hs
      exact leave (by rw [hs]; rfl) ⟨_, _, _, rfl⟩ (by rw [hs]; rfl)
    · rename_i a y l hs
      exact leave (by rw [hs]; rfl) ⟨_, _, _, rfl⟩ (by rw [hs]; rfl)
    · rename_i a p l c hs
      have hr2 : (modRadio (sendHandover (modRadio s u released) p (.cancel p u c.tag)) u fun r =>
          { r with state := retiredNow (modRadio s u released) a, lastHandover := some (.aborted, p) }).radios =
          tput s.radios u { released r with state := retiredNow (modRadio s u released) a, lastHandover := some (.aborted, p) } := by
        rw [modRadio_radios, sendHandover_eq]
        simp only [modRadio_radios, tmod_tmod]
        rw [tmod_of_some _ _ hu]; rfl
      refine event_retire (r2 := { released r with state := retiredNow (modRadio s u released) a, lastHandover := some (.aborted, p) })
        ha hu (by rw [hs]; rfl) ((((booked_modRadio s u _).then (booked_sendHandover _ p _)).then
        (booked_modRadio _ u _)).then (booked_sendOrdinary _ a _)) (.trans (.of_change hu hr2 ?_) (outKept_sendOrdinary _ a _))
        (by rw [(sendFrame_sendOrdinary _ _ _).radios]; exact hr2) ⟨_, _, _, rfl⟩ ⟨rfl, rfl, rfl, rfl⟩
      rw [modRadio_outbound, sendHandover_eq]
      simp only [List.length_append, modRadio_outbound, hs, retiredNow, isMoving]
      split <;> simp
    · rename_i n hs
      have hr2 : (setRecordState (modRadio s u released) u (retiredNow (modRadio s u released) n)).radios =
          tput s.radios u { released r with state := retiredNow (modRadio s u released) n } := by
        rw [setRecordState_radios, modRadio_radios, tmod_tmod, tmod_of_some _ _ hu]; rfl
      refine event_retire ha hu (by rw [hs]; rfl) ((booked_modRadio s u _).then (booked_setRecordState _ u _)) (.of_change hu hr2 ?_) hr2
        ⟨_, _, _, rfl⟩ ⟨rfl, rfl, rfl, rfl⟩
      simp [isMoving, retiredNow]
    · rename_i n y h hs
      refine event_modFields ha (fun _ => ⟨rfl, rfl, rfl⟩) fun hok r' hr' => ?_
      rw [hu] at hr'
      cases hr'
      obtain ⟨-, -, hst⟩ := (recordOk_iff r).1 (hok.record hu)
      unfold stateOk at hst ⊢
      simp only [hs] at hst ⊢
      exact ⟨trivial, trivial, hst.2.2⟩
  · exact .refl s

/-! ### The change of a group list (R115, R118) -/

theorem booked_loseMembership (at_ : List Nat) (s : State) (m : Membership) : Booked s (loseMembership at_ s m) (entryCharge at_ m) 0 := by
  refine ⟨(inner_loseMembership at_ s m).steady, (groupFrame_loseMembership at_ s m).calm, ?_⟩
  have h1 : Posted s (if m.pending then lowerUnreached s m.group else s) (if m.pending then {.unreached m.group} else 0) 0 := by
    split
    · exact posted_lowerUnreached s m.group
    · exact .refl s
  have h2 := h1.trans (Posted.foldl (u := fun _ => 0) (fun t n => posted_subMember t m.group n) at_ _)
  have h3 : ∀ t, Posted t (if at_.isEmpty then t else subTotal t m.group) (if at_.isEmpty then 0 else {.total m.group}) 0 := by
    intro t
    split
    · exact .refl t
    · exact posted_subTotal t m.group
  have h := h2.trans (h3 _)
  simp only [List.map_const', List.sum_replicate, nsmul_zero, add_zero] at h
  have e : entryCharge at_ m = (if m.pending then {.unreached m.group} else 0) +
      (at_.map fun n => ({.members m.group n} : Multiset Account)).sum + if at_.isEmpty then 0 else {.total m.group} := by
    unfold entryCharge; abel
  rw [e]
  exact h

/-- The entry that a gained group has (R115). -/
def gainedEntry (s : State) (g : Nat) : Membership := { group := g, pending := recallStateOf s g == .active }

theorem booked_gainMembership (at_ : List Nat) (s : State) (g : Nat) :
    Booked s (gainMembership at_ s g) 0 (entryCharge at_ (gainedEntry s g)) := by
  refine ⟨(inner_gainMembership at_ s g).steady, (groupFrame_gainMembership at_ s g).calm, ?_⟩
  have h1 : Posted s (if recallStateOf s g = .active then raiseUnreached s g else s) 0
      (if recallStateOf s g = .active then {.unreached g} else 0) := by
    split
    · exact posted_raiseUnreached s g
    · exact .refl s
  have h2 := h1.trans (Posted.foldl (d := fun _ => 0) (fun t n => posted_addMember t g n) at_ _)
  have h3 : ∀ t, Posted t (if at_.isEmpty then t else addTotal t g) 0 (if at_.isEmpty then 0 else {.total g}) := by
    intro t
    split
    · exact .refl t
    · exact posted_addTotal t g
  have h := h2.trans (h3 _)
  simp only [List.map_const', List.sum_replicate, nsmul_zero, add_zero] at h
  have e : entryCharge at_ (gainedEntry s g) = (if recallStateOf s g = .active then {.unreached g} else 0) +
      (at_.map fun n => ({.members g n} : Multiset Account)).sum + if at_.isEmpty then 0 else {.total g} := by
    simp only [entryCharge, gainedEntry, beq_iff_eq]; abel
  rw [e]
  exact h

theorem booked_gains (at_ : List Nat) {s : State} (l : List Nat) (t : State) (h : Calm s t) :
    Booked t (l.foldl (gainMembership at_) t) 0 (listCharge at_ (l.map (gainedEntry s))) := by
  induction l generalizing t with
  | nil => exact .refl t
  | cons g l ih =>
    have hg : gainedEntry t g = gainedEntry s g := by unfold gainedEntry; rw [h.recallStateOf]
    have h1 := booked_gainMembership at_ t g
    rw [hg] at h1
    have h2 := h1.trans (ih _ (h.trans h1.calm))
    simpa [listCharge] using h2

theorem booked_losses (at_ : List Nat) (l : List Membership) (s : State) :
    Booked s (l.foldl (loseMembership at_) s) (listCharge at_ l) 0 := by
  simpa [listCharge] using Booked.foldl (u := fun _ => 0) (booked_loseMembership at_) l s

theorem listCharge_perm {at_ : List Nat} {l k : List Membership} (h : l.Perm k) : listCharge at_ l = listCharge at_ k :=
  (h.map _).sum_eq

theorem listCharge_filter (at_ : List Nat) (l : List Membership) (p : Membership → Bool) :
    listCharge at_ l = listCharge at_ (l.filter p) + listCharge at_ (l.filter fun m => !p m) := by
  rw [← listCharge_perm (List.filter_append_perm p l)]
  simp [listCharge]

theorem newEntry_of_mem {s : State} {old : List Membership} (hold : (groupNumbers old).Nodup) {m : Membership} (hm : m ∈ old) :
    newEntry s old m.group = m := by
  unfold newEntry
  cases hf : old.find? fun m' => m'.group == m.group with
  | none => exact absurd (List.find?_eq_none.1 hf m hm) (by simp)
  | some m' =>
    have h1 : m' ∈ old := List.mem_of_find?_eq_some hf
    have h2 : m'.group = m.group := by simpa using List.find?_some hf
    exact List.inj_on_of_nodup_map hold h1 hm h2

theorem newEntry_of_not_mem {s : State} {old : List Membership} {g : Nat} (h : g ∉ groupNumbers old) : newEntry s old g = gainedEntry s g := by
  unfold newEntry
  rw [List.find?_eq_none.2 fun m hm => by simp only [beq_iff_eq]; exact fun e => h (e ▸ List.mem_map_of_mem hm)]
  rfl

theorem newEntry_cases (s : State) (old : List Membership) (g : Nat) : newEntry s old g ∈ old ∨ newEntry s old g = gainedEntry s g := by
  by_cases h : g ∈ groupNumbers old
  · left
    unfold newEntry
    cases hf : old.find? fun m' => m'.group == g with
    | none =>
      obtain ⟨m, hm, e⟩ := List.mem_map.1 h
      exact absurd (List.find?_eq_none.1 hf m hm) (by simp [e])
    | some m' => exact List.mem_of_find?_eq_some hf
  · exact .inr (newEntry_of_not_mem h)

/-- A changed list charges what its kept entries did, and what its gained ones do. -/
theorem listCharge_newEntry (at_ : List Nat) (s : State) {old : List Membership} {new : List Nat} (hold : (groupNumbers old).Nodup)
    (hnew : new.Nodup) : listCharge at_ (new.map (newEntry s old)) = listCharge at_ (old.filter fun m => new.contains m.group) +
      listCharge at_ ((new.filter fun g => !(groupNumbers old).contains g).map (gainedEntry s)) := by
  have hsplit := listCharge_filter at_ (new.map (newEntry s old)) fun m => (groupNumbers old).contains m.group
  have hcomp : ∀ p : Nat → Bool, (new.map (newEntry s old)).filter (fun m => p m.group) = (new.filter p).map (newEntry s old) := by
    intro p
    rw [List.filter_map]
    congr 1
    exact List.filter_congr fun g _ => by simp [Function.comp, newEntry_group]
  rw [hcomp fun g => (groupNumbers old).contains g, hcomp fun g => !(groupNumbers old).contains g] at hsplit
  rw [hsplit]
  congr 1
  · refine listCharge_perm ((List.perm_ext_iff_of_nodup ?_ ?_).2 fun m => ?_)
    · refine (List.Nodup.of_map Membership.group ?_ : ((new.filter fun g => (groupNumbers old).contains g).map (newEntry s old)).Nodup)
      have : ((new.filter fun g => (groupNumbers old).contains g).map (newEntry s old)).map Membership.group =
          new.filter fun g => (groupNumbers old).contains g := groupNumbers_newEntry s old _
      rw [this]
      exact hnew.filter _
    · exact (List.Nodup.of_map _ hold).filter _
    · simp only [List.mem_map, List.mem_filter, List.contains_eq_mem, decide_eq_true_eq]
      constructor
      · rintro ⟨g, ⟨hg, hgo⟩, rfl⟩
        obtain ⟨m, hm, rfl⟩ := List.mem_map.1 hgo
        rw [newEntry_of_mem hold hm]
        exact ⟨hm, hg⟩
      · rintro ⟨hm, hg⟩
        exact ⟨m.group, ⟨hg, List.mem_map_of_mem hm⟩, newEntry_of_mem hold hm⟩
  · congr 1
    refine List.map_congr_left fun g hg => newEntry_of_not_mem ?_
    simpa using (List.mem_filter.1 hg).2

theorem count_registered_listCharge (n : Nat) (at_ : List Nat) (l : List Membership) : (listCharge at_ l).count (.registered n) = 0 := by
  have hentry : ∀ m, (entryCharge at_ m).count (.registered n) = 0 := by
    intro m
    have hm : (at_.map fun k => ({.members m.group k} : Multiset Account)).sum.count (.registered n) = 0 := by
      induction at_ with
      | nil => rfl
      | cons k at_ ih => simp_all
    simp only [entryCharge, Multiset.count_add, hm]
    split <;> split <;> simp
  induction l with
  | nil => rfl
  | cons m l ih => simp only [listCharge, List.map_cons, List.sum_cons, Multiset.count_add, hentry] at ih ⊢; omega

theorem event_changeGroupList {w : Nat → Prop} {s : State} {u : Nat} {new : List Nat} (ha : Ascending s.radios) (hnew : new.Nodup)
    (hlen : new.length ≤ 4) (hne : RecordsOk s → ∀ r, tget s.radios u = some r → stateName r.state ≠ .retired) :
    Event w s (changeGroupList s u new) := by
  unfold changeGroupList
  split
  · rename_i r hu
    simp only []
    refine .trans ?_ (event_passAll _ _)
    have hlose := booked_losses (countedSites r.state) (r.groups.filter fun m => !new.contains m.group) s
    have hgain := booked_gains (countedSites r.state) (s := s) (new.filter fun g => !(groupNumbers r.groups).contains g) _ hlose.calm
    have hframe := (groupFrame_foldl _ (groupFrame_loseMembership (countedSites r.state))
        (r.groups.filter fun m => !new.contains m.group) s).trans
      (groupFrame_foldl _ (groupFrame_gainMembership (countedSites r.state)) (new.filter fun g => !(groupNumbers r.groups).contains g) _)
    have hb := (hlose.trans hgain).then (booked_modRadio _ u fun r' => { r' with groups := new.map (newEntry s r.groups) })
    rw [add_zero, zero_add] at hb
    generalize (new.filter fun g => !(groupNumbers r.groups).contains g).foldl (gainMembership (countedSites r.state))
      ((r.groups.filter fun m => !new.contains m.group).foldl (loseMembership (countedSites r.state)) s) = m at hb hframe
    have hr : (modRadio m u fun r' => { r' with groups := new.map (newEntry s r.groups) }).radios =
        tset s.radios u (some { r with groups := new.map (newEntry s r.groups) }) := by
      rw [modRadio_radios, hframe.radios]; exact tmod_of_some _ _ hu
    refine ⟨.of_move (o := some { r with groups := new.map (newEntry s r.groups) }) ha hb.steady hb.calm
      (.of_change hu hr (by rw [modRadio_outbound, hframe.outbound])) hb.posted hr (fun a hcase => ?_)
      (fun _ h1 _ => by rw [count_registered_listCharge, count_registered_listCharge]; omega) (fun h x e => ?_)
      (fun h _ => by rw [hu] at h; cases h) (fun {g x} hg e hf => ?_), fun _ hl => ?_⟩
    · simp only [hu, chargeAt, Option.map_some, Option.getD_some]
      rcases hcase with hreg | hok
      · cases a with
        | registered n =>
          refine ⟨((countedSites r.state).map fun n => ({.registered n} : Multiset Account)).sum.count (.registered n), ?_, ?_⟩ <;>
            simp [charge, count_registered_listCharge]
        | members | total | unreached => cases hreg
      · obtain ⟨-, ⟨-, hold⟩, -⟩ := (recordOk_iff r).1 (hok r hu)
        refine ⟨(((countedSites r.state).map fun n => ({.registered n} : Multiset Account)).sum +
          listCharge (countedSites r.state) (r.groups.filter fun m => new.contains m.group)).count a, ?_, ?_⟩
        · rw [← Multiset.count_add]
          simp only [charge, add_assoc]
          rw [← listCharge_filter (countedSites r.state) r.groups fun m => new.contains m.group]
        · rw [← Multiset.count_add]
          simp only [charge, add_assoc]
          rw [← listCharge_newEntry (countedSites r.state) s hold hnew]
    · cases e
      obtain ⟨h1, -, h3⟩ := (recordOk_iff r).1 (h.record hu)
      refine (recordOk_iff _).2 ⟨h1, ⟨by simpa using hlen, by rw [groupNumbers_newEntry]; exact hnew⟩, ?_⟩
      have := hne h r hu
      unfold stateOk at h3 ⊢
      cases e : r.state <;> simp_all [stateName]
    · cases e
      refine ⟨r, hu, ?_⟩
      simp only [hasFlag, List.any_eq_true, List.mem_map, Bool.and_eq_true, beq_iff_eq] at hf ⊢
      obtain ⟨x, ⟨k, -, rfl⟩, hk, hp⟩ := hf
      rcases newEntry_cases s r.groups k with hmem | hgained
      · exact ⟨_, hmem, hk, hp⟩
      · rw [hgained] at hk hp
        simp only [gainedEntry, beq_iff_eq] at hk hp
        subst hk
        exact absurd hp hg
    · rw [hr]; simp only [tset]; rw [length_tput_of_some ha hu]; exact hl
  · exact .refl s

theorem trimGroups_spec (s : State) (l : List Nat) : (trimGroups s l).Nodup ∧ (trimGroups s l).length ≤ 4 := by
  obtain ⟨-, h1, h2, -⟩ := keepFirst_nil_spec (groupConfigured s) Config.maxMemberships l
  exact ⟨h1, h2⟩

theorem event_applyReported {w : Nat → Prop} {s : State} {u : Nat} (ha : Ascending s.radios) (l : List Nat)
    (hne : RecordsOk s → ∀ r, tget s.radios u = some r → stateName r.state ≠ .retired) : Event w s (applyReported s u l) := by
  obtain ⟨hnd, hlen⟩ := trimGroups_spec s l
  have hchange : Event w s (changeGroupList s u (trimGroups s l)) := event_changeGroupList ha hnd hlen hne
  have hregroup : ∀ (s' : State) (x : Regroup), Ascending s'.radios → Event w s' (modRadio s' u fun r => { r with regroup := x }) :=
    fun s' x ha' => event_modFields ha' (fun _ => ⟨rfl, rfl, rfl⟩) fun h r hr => ((recordOk_iff r).1 (h.record hr)).2.2
  unfold applyReported
  split
  · simp only []
    split
    · exact event_ite (fun _ => .refl s) fun _ => hchange
    · exact event_ite (fun _ => hregroup s .confirmed ha) fun _ => .refl s
    · exact event_ite (fun _ => .refl s) fun _ => hchange.trans (hregroup _ .none (hchange.steady.radios ha))
  · exact .refl s

end Sys2Proof.Machine

/-! The choices of a record: the best of a list under an order, the update of a hearing list (section 2.5, O31), the handover's target and
decision (section 3.5, O34), and the site of an adoption (section 3.7). -/

namespace Sys2Proof.Machine

/-! ### The best of a list -/

/-- The order decides between any two different members. -/
def Decides {α : Type} (before : α → α → Bool) (l : List α) : Prop := ∀ a ∈ l, ∀ b ∈ l, a ≠ b → before b a = !before a b

/-- The order is transitive. -/
def Chains {α : Type} (before : α → α → Bool) : Prop := ∀ a b c, before a b = true → before b c = true → before a c = true

theorem bestOf_before {α : Type} {before : α → α → Bool} {l : List α} {b : α} (ht : Chains before) (hd : Decides before l)
    (h : bestOf before l = some b) : ∀ x ∈ l, x = b ∨ before b x = true := by
  induction l generalizing b with
  | nil => intro x hx; cases hx
  | cons a rest ih =>
    have hrest : Decides before rest := fun x hx y hy => hd x (.tail _ hx) y (.tail _ hy)
    simp only [bestOf] at h
    split at h
    · rename_i c hc
      split at h
      · rename_i hca
        cases h
        exact List.forall_mem_cons.2 ⟨.inr hca, ih hrest hc⟩
      · rename_i hca
        cases h
        refine List.forall_mem_cons.2 ⟨.inl rfl, fun x hx => ?_⟩
        by_cases hac : a = c
        · subst hac; exact ih hrest hc x hx
        · have hbefore : before a c = true := by
            have := hd a (.head _) c (.tail _ (bestOf_mem hc)) hac
            rw [Bool.not_eq_true] at hca
            rw [hca] at this
            simpa using this.symm
          rcases ih hrest hc x hx with rfl | hcx
          · exact .inr hbefore
          · exact .inr (ht a c x hbefore hcx)
    · rename_i hc
      cases h
      rw [bestOf_eq_none_iff.1 hc]
      simp

theorem bestOf_eq_some_iff {α : Type} {before : α → α → Bool} {l : List α} (ht : Chains before) (hd : Decides before l) (b : α) :
    bestOf before l = some b ↔ b ∈ l ∧ ∀ x ∈ l, x = b ∨ before b x = true := by
  refine ⟨fun h => ⟨bestOf_mem h, bestOf_before ht hd h⟩, fun ⟨hb, hall⟩ => ?_⟩
  cases hc : bestOf before l with
  | none => rw [bestOf_eq_none_iff.1 hc] at hb; cases hb
  | some c =>
    by_contra hne
    have hcb : c ≠ b := fun e => hne (by rw [e])
    have h1 := (hall c (bestOf_mem hc)).resolve_left hcb
    have h2 := (bestOf_before ht hd hc b hb).resolve_left hcb.symm
    have h3 := hd c (bestOf_mem hc) b hb hcb
    rw [h1, h2] at h3
    cases h3

/-! ### The hearing list (R39 to R42) -/

theorem insertHeard_split (e : Hearing) (l : List Hearing) : ∃ l₁ l₂, l = l₁ ++ l₂ ∧ insertHeard e l = l₁ ++ e :: l₂ ∧
    (∀ x ∈ l₁, e.heard < x.heard) ∧ (l.Pairwise (fun x y => y.heard ≤ x.heard) → ∀ x ∈ l₂, x.heard ≤ e.heard) := by
  induction l with
  | nil => exact ⟨[], [], rfl, rfl, by simp, by simp⟩
  | cons x rest ih =>
    simp only [insertHeard]
    split
    · rename_i hle
      refine ⟨[], x :: rest, rfl, rfl, by simp, fun hs y hy => ?_⟩
      rcases List.mem_cons.1 hy with rfl | hy
      · exact hle
      · exact Nat.le_trans (List.rel_of_pairwise_cons hs hy) hle
    · rename_i hle
      obtain ⟨l₁, l₂, h1, h2, h3, h4⟩ := ih
      exact ⟨x :: l₁, l₂, by rw [h1]; rfl, by rw [h2]; rfl, List.forall_mem_cons.2 ⟨Nat.lt_of_not_le hle, h3⟩,
        fun hs => h4 hs.of_cons⟩

theorem insertHeard_perm (e : Hearing) (l : List Hearing) : (insertHeard e l).Perm (e :: l) := by
  obtain ⟨l₁, l₂, h1, h2, -, -⟩ := insertHeard_split e l
  rw [h2, h1]
  exact List.perm_middle

theorem mem_insertHeard {e h : Hearing} {l : List Hearing} : h ∈ insertHeard e l ↔ h = e ∨ h ∈ l := by
  rw [(insertHeard_perm e l).mem_iff, List.mem_cons]

theorem length_countedSites_le (st : RecordState) : (countedSites st).length ≤ 2 := by
  cases st <;> simp [countedSites, servingSite, pendingSite]

/-- A record is counted at two sites at most, so a longer list has an entry that may be evicted (R40). -/
theorem exists_evictable {st : RecordState} {l : List Hearing} (hnd : (l.map Hearing.site).Nodup) (hlen : 3 ≤ l.length) :
    ∃ h ∈ l, evictable st h = true := by
  by_contra hno
  have hsub : l.map Hearing.site ⊆ countedSites st := fun n hn => by
    obtain ⟨h, hh, rfl⟩ := List.mem_map.1 hn
    by_contra hc
    exact hno ⟨h, hh, by simpa [evictable] using hc⟩
  have hle := (List.subperm_of_subset hnd hsub).length_le
  have := length_countedSites_le st
  rw [List.length_map] at hle
  omega

theorem evictedBefore_chains : Chains evictedBefore := by
  intro a b c
  simp only [evictedBefore, Bool.or_eq_true, Bool.and_eq_true, decide_eq_true_eq, beq_iff_eq]
  omega

theorem eq_of_site_eq {l : List Hearing} (hnd : (l.map Hearing.site).Nodup) {a b : Hearing} (ha : a ∈ l) (hb : b ∈ l)
    (h : a.site = b.site) : a = b := List.inj_on_of_nodup_map hnd ha hb h

theorem evictedBefore_decides {l : List Hearing} (hnd : (l.map Hearing.site).Nodup) : Decides evictedBefore l := by
  intro a ha b hb hne
  have hsite : a.site ≠ b.site := fun h => hne (eq_of_site_eq hnd ha hb h)
  rw [Bool.eq_iff_iff]
  simp only [evictedBefore, Bool.or_eq_true, Bool.and_eq_true, decide_eq_true_eq, beq_iff_eq, Bool.not_eq_true', Bool.or_eq_false_iff,
    Bool.and_eq_false_iff, decide_eq_false_iff_not, beq_eq_false_iff_ne]
  omega

theorem makeRoom_sublist (st : RecordState) (l : List Hearing) : (makeRoom st l).Sublist l := by
  unfold makeRoom
  split
  · exact List.Sublist.refl l
  · split
    · exact List.filter_sublist
    · exact List.Sublist.refl l

/-- A list with room stays, and from a full one exactly one entry is evicted, the first in the order of R40. -/
theorem makeRoom_cases (st : RecordState) {l : List Hearing} (hnd : (l.map Hearing.site).Nodup) (hlen : l.length ≤ 4) :
    (l.length < 4 ∧ makeRoom st l = l) ∨
    (l.length = 4 ∧ ∃ e ∈ l, e.site ∉ countedSites st ∧ makeRoom st l = l.filter (fun x => x.site != e.site) ∧
      ∀ h ∈ l, h.site ∉ countedSites st → h = e ∨ evictedBefore e h = true) := by
  unfold makeRoom
  split
  · exact .inl ⟨‹_›, rfl⟩
  · rename_i hfull
    have h4 : l.length = 4 := Nat.le_antisymm hlen (Nat.le_of_not_lt hfull)
    refine .inr ⟨h4, ?_⟩
    split
    · rename_i e he
      obtain ⟨hm, hev⟩ := List.mem_filter.1 (bestOf_mem he)
      have hd : Decides evictedBefore (l.filter (evictable st)) := fun a ha b hb =>
        evictedBefore_decides hnd a (List.mem_of_mem_filter ha) b (List.mem_of_mem_filter hb)
      refine ⟨e, hm, by simpa [evictable] using hev, rfl, fun h hh hc => ?_⟩
      exact bestOf_before evictedBefore_chains hd he h (List.mem_filter.2 ⟨hh, by simpa [evictable] using hc⟩)
    · rename_i hnone
      obtain ⟨h, hh, hev⟩ := exists_evictable (st := st) hnd (by omega)
      have := List.mem_filter.2 ⟨hh, hev⟩
      rw [bestOf_eq_none_iff.1 hnone] at this
      cases this

/-- The entry that a site has after the update of a list that holds one for it already (R42). -/
def heardAgain (old : Hearing) (q heard openedAt : Nat) : Hearing :=
  { old with quality := q, heard := heard, confirmed := old.confirmed || decide (old.heard < openedAt) }

/-- The entry that a site new to the list has (R41). -/
def heardFirst (s : State) (st : RecordState) (n q heard : Nat) : Hearing :=
  { site := n, quality := q, heard := heard, confirmed := !startsUnconfirmed s st n, backoff := none }

theorem updateHearing_of_mem {s : State} {st : RecordState} {l : List Hearing} {old : Hearing} (hnd : (l.map Hearing.site).Nodup)
    (ho : old ∈ l) (q heard openedAt : Nat) : updateHearing s st l old.site q heard openedAt =
      insertHeard (heardAgain old q heard openedAt) (l.filter fun h => h.site != old.site) := by
  unfold updateHearing
  cases hf : l.find? fun h => h.site == old.site with
  | none => exact absurd (List.find?_eq_none.1 hf old ho) (by simp)
  | some x =>
    have hx : x.site = old.site := by simpa using List.find?_some hf
    rw [eq_of_site_eq hnd (List.mem_of_find?_eq_some hf) ho hx]
    rfl

theorem updateHearing_of_not_mem {s : State} {st : RecordState} {l : List Hearing} {n : Nat} (h : n ∉ l.map Hearing.site)
    (q heard openedAt : Nat) : updateHearing s st l n q heard openedAt = insertHeard (heardFirst s st n q heard) (makeRoom st l) := by
  unfold updateHearing
  rw [List.find?_eq_none.2 fun x hx => by simp only [beq_iff_eq]; exact fun e => h (e ▸ List.mem_map_of_mem hx)]
  rfl

theorem length_filter_other {l : List Hearing} (hnd : (l.map Hearing.site).Nodup) {e : Hearing} (he : e ∈ l) :
    (l.filter fun x => x.site != e.site).length + 1 = l.length := by
  have hsplit := List.length_eq_length_filter_add (l := l) fun x => x.site != e.site
  have hone : (l.filter fun x => !(x.site != e.site)) = [e] := by
    have : (l.filter fun x => !(x.site != e.site)) = l.filter fun x => x == e := by
      refine List.filter_congr fun x hx => ?_
      have hsame : x.site = e.site ↔ x = e := ⟨eq_of_site_eq hnd hx he, congrArg _⟩
      rw [Bool.eq_iff_iff]
      simp [hsame]
    rw [this, List.filter_beq, (List.Nodup.of_map _ hnd).count, if_pos he]
    rfl
  rw [hone] at hsplit
  simpa using hsplit.symm

/-- What an update of a hearing list does: the site's entry enters a part of the list that holds the entries of the counted sites and has
room. -/
theorem updateHearing_shape (s : State) (st : RecordState) {l : List Hearing} (n q heard openedAt : Nat)
    (hnd : (l.map Hearing.site).Nodup) (hlen : l.length ≤ 4) :
    ∃ e k, updateHearing s st l n q heard openedAt = insertHeard e k ∧ e.site = n ∧ e.heard = heard ∧ k.Sublist l ∧ k.length ≤ 3 ∧
      (∀ h ∈ k, h.site ≠ n) ∧ ∀ h ∈ l, h.site ≠ n → h.site ∈ countedSites st → h ∈ k := by
  by_cases hn : n ∈ l.map Hearing.site
  · obtain ⟨old, ho, rfl⟩ := List.mem_map.1 hn
    refine ⟨_, _, updateHearing_of_mem hnd ho q heard openedAt, rfl, rfl, List.filter_sublist, ?_, fun h hh => ?_,
      fun h hh hne _ => List.mem_filter.2 ⟨hh, by simpa using hne⟩⟩
    · have := length_filter_other hnd ho
      omega
    · simpa using (List.mem_filter.1 hh).2
  · have hsite : ∀ h ∈ l, h.site ≠ n := fun h hh e => hn (e ▸ List.mem_map_of_mem hh)
    refine ⟨_, _, updateHearing_of_not_mem hn q heard openedAt, rfl, rfl, makeRoom_sublist st l, ?_,
      fun h hh => hsite h ((makeRoom_sublist st l).subset hh), fun h hh _ hc => ?_⟩
    · rcases makeRoom_cases st hnd hlen with ⟨hlt, e⟩ | ⟨-, x, hx, -, e, -⟩ <;> rw [e]
      · omega
      · have := length_filter_other hnd hx
        omega
    · rcases makeRoom_cases st hnd hlen with ⟨-, e⟩ | ⟨-, x, -, hxc, e, -⟩ <;> rw [e]
      · exact hh
      · exact List.mem_filter.2 ⟨hh, by simpa using fun hs : h.site = x.site => hxc (hs ▸ hc)⟩

theorem nodup_insertHeard {e : Hearing} {k l : List Hearing} (hnd : (l.map Hearing.site).Nodup) (hk : k.Sublist l)
    (he : ∀ h ∈ k, h.site ≠ e.site) : ((insertHeard e k).map Hearing.site).Nodup := by
  rw [((insertHeard_perm e k).map Hearing.site).nodup_iff, List.map_cons, List.nodup_cons]
  refine ⟨fun hm => ?_, hnd.sublist (hk.map _)⟩
  obtain ⟨h, hh, hs⟩ := List.mem_map.1 hm
  exact he h hh hs

/-- An update keeps what R39 asks of a hearing list. -/
theorem updateHearing_ok {r r' : Radio} (s : State) (n q heard openedAt : Nat) (h : hearingOk r) (hst : r'.state = r.state)
    (hh : r'.hearing = updateHearing s r.state r.hearing n q heard openedAt) : hearingOk r' := by
  obtain ⟨h1, h2, h3⟩ := h
  obtain ⟨e, k, hu, hsite, -, hk, hlen, hne, hkeep⟩ := updateHearing_shape s r.state n q heard openedAt h2 h1
  rw [hearingOk, hh, hst, hu]
  refine ⟨?_, nodup_insertHeard h2 hk (by rw [hsite]; exact hne), fun m hm => ?_⟩
  · rw [(insertHeard_perm e k).length_eq, List.length_cons]
    omega
  · obtain ⟨x, hx, rfl⟩ := List.mem_map.1 (h3 m hm)
    by_cases hxn : x.site = n
    · exact List.mem_map.2 ⟨e, mem_insertHeard.2 (.inl rfl), by rw [hsite, hxn]⟩
    · exact List.mem_map_of_mem (mem_insertHeard.2 (.inr (hkeep x hx hxn hm)))

theorem startsUnconfirmed_iff (s : State) (st : RecordState) (n : Nat) : startsUnconfirmed s st n = true ↔
    (stateName st = .registered ∨ stateName st = .moving) ∧ n ∉ countedSites st ∧
      ∀ a x, servingSite st = some a → tget s.sites a = some x → n ∉ x.neighbours := by
  unfold startsUnconfirmed
  cases st with
  | registered a l | moving a p l c =>
    have hserving : (∀ a' x, a = a' → tget s.sites a' = some x → n ∉ x.neighbours) ↔
        ∀ x, tget s.sites a = some x → n ∉ x.neighbours := ⟨fun h x => h a x rfl, by rintro h _ x rfl; exact h x⟩
    simp only [stateName, servingSite, Option.bind_some, Bool.true_and, Bool.and_eq_true, Bool.not_eq_true', List.contains_eq_mem,
      decide_eq_false_iff_not, true_and, or_true, true_or, Option.some.injEq, hserving]
    cases h : tget s.sites a <;> simp
  | joining | presumed | lost | retired => simp [stateName]

/-- Settles O31: the site's entry enters the list, or what room leaves of it, before the first entry that is as old. -/
theorem hearingListUpdates : Obligations.HearingListUpdates := by
  intro s st l n q heard openedAt hlen hnd hs
  obtain ⟨e, k, hu, hsite, hheard, hk, hkl, hne, hkeep⟩ := updateHearing_shape s st n q heard openedAt hnd hlen
  obtain ⟨l₁, l₂, hsplit, hins, hbefore, hafter⟩ := insertHeard_split e k
  have hks : k.Pairwise (fun x y => y.heard ≤ x.heard) := hs.sublist hk
  refine ⟨?_, ?_, ?_, ?_, ?_, ?_, ?_, ?_, ?_, ?_, ?_⟩
  · rw [hu, (insertHeard_perm e k).length_eq, List.length_cons]
    omega
  · rw [hu]
    exact nodup_insertHeard hnd hk (by rw [hsite]; exact hne)
  · rw [hu, hins]
    rw [hsplit] at hks
    obtain ⟨p1, p2, p3⟩ := List.pairwise_append.1 hks
    refine List.pairwise_append.2 ⟨p1, List.pairwise_cons.2 ⟨hafter (hsplit ▸ hks), p2⟩, fun x hx y hy => ?_⟩
    rcases List.mem_cons.1 hy with rfl | hy
    · exact Nat.le_of_lt (hbefore x hx)
    · exact p3 x hx y hy
  · intro h hh hn
    rw [hu, mem_insertHeard] at hh
    rcases hh with rfl | hh
    · exact absurd hsite hn
    · exact hk.subset hh
  · intro h hh hn hc
    rw [hu]
    exact mem_insertHeard.2 (.inr (hkeep h hh hn hc))
  · intro old ho hn
    subst hn
    rw [updateHearing_of_mem hnd ho]
    exact ⟨mem_insertHeard.2 (.inl rfl), fun h hh hn => mem_insertHeard.2 (.inr (List.mem_filter.2 ⟨hh, by simpa using hn⟩))⟩
  · intro hn
    rw [updateHearing_of_not_mem hn]
    refine ⟨_, mem_insertHeard.2 (.inl rfl), rfl, rfl, rfl, rfl, ?_⟩
    rw [← startsUnconfirmed_iff]
    simp [heardFirst]
  · rw [hu, hins]
    have : (l₁ ++ e :: l₂).filter (fun h => h.site != n) = k.filter fun h => h.site != n := by
      rw [hsplit]
      simp [hsite]
    rw [this]
    exact List.filter_sublist.trans hk
  · intro hlt h hh hn
    by_cases hm : n ∈ l.map Hearing.site
    · obtain ⟨old, ho, rfl⟩ := List.mem_map.1 hm
      rw [updateHearing_of_mem hnd ho]
      exact mem_insertHeard.2 (.inr (List.mem_filter.2 ⟨hh, by simpa using hn⟩))
    · rw [updateHearing_of_not_mem hm]
      rcases makeRoom_cases st hnd hlen with ⟨-, e⟩ | ⟨h4, -⟩
      · rw [e]; exact mem_insertHeard.2 (.inr hh)
      · omega
  · intro h4 hn x hx hxc hfirst
    rw [updateHearing_of_not_mem hn]
    rcases makeRoom_cases st hnd hlen with ⟨hlt, -⟩ | ⟨-, y, hy, hyc, e, hyb⟩
    · omega
    · have hxy : x = y := by
        rcases hyb x hx hxc with h | h
        · exact h
        · have := hfirst y hy hyc
          simp only [evictedBefore, Bool.or_eq_true, Bool.and_eq_true, decide_eq_true_eq, beq_iff_eq] at h
          omega
      subst hxy
      rw [e]
      refine ⟨fun hm => ?_, fun h hh hne => mem_insertHeard.2 (.inr (List.mem_filter.2 ⟨hh, ?_⟩))⟩
      · rcases mem_insertHeard.1 hm with h | h
        · exact hn (List.mem_map.2 ⟨x, hx, congrArg Hearing.site h⟩)
        · simpa using (List.mem_filter.1 h).2
      · simpa using fun hs => hne (eq_of_site_eq hnd hh hx hs)
  · intro m₁ h m₂ hsp hn x hx
    rw [hu, hins] at hsp
    have hnd' : ((l₁ ++ e :: l₂).map Hearing.site).Nodup := by
      rw [← hins]
      exact nodup_insertHeard hnd hk (by rw [hsite]; exact hne)
    have hhe : h = e := eq_of_site_eq (l := l₁ ++ e :: l₂) hnd' (by rw [hsp]; simp) (by simp) (by rw [hn, hsite])
    subst hhe
    have hm : h ∉ m₁ := by
      rw [hsp, List.map_append, List.map_cons] at hnd'
      exact fun hm => (List.nodup_middle.1 hnd').notMem (List.mem_append_left _ (List.mem_map_of_mem hm))
    have hl : h ∉ l₁ := fun hm => Nat.lt_irrefl _ (hbefore h hm)
    have hpre : m₁ = l₁ := by
      have h1 := List.append_eq_append_iff.1 hsp
      rcases h1 with ⟨as, e1, e2⟩ | ⟨as, e1, e2⟩
      · cases as with
        | nil => simpa using e1
        | cons a as => exact absurd (by rw [e1]; simp_all) hm
      · cases as with
        | nil => simpa using e1.symm
        | cons a as => exact absurd (by rw [e1]; simp_all) hl
    rw [hpre] at hx
    rw [← hheard]
    exact hbefore x hx

/-! ### The handover's target and decision (R52 to R55, R62) -/

theorem eligibleTarget_iff (t a : Nat) (x : Site) (h : Hearing) : eligibleTarget t a x h = true ↔ eligible t a x h := by
  have hb : inBackoff t h = false ↔ ∀ y, h.backoff = some y → y ≤ t := by
    unfold inBackoff
    cases h.backoff <;> simp
  simp only [eligibleTarget, eligible, Bool.and_eq_true, bne_iff_ne, ne_eq, Bool.not_eq_true', hb, decide_eq_true_eq, and_assoc]

theorem mem_eligibleTargets {s : State} {t a : Nat} {inSet : List Nat} {l : List Hearing} {b : Scored} :
    b ∈ eligibleTargets s t inSet a l ↔ ∃ h ∈ l, ∃ x, h.site = b.site ∧ tget s.sites b.site = some x ∧ eligible t a x h ∧
      score s t inSet false x h = b.score := by
  simp only [eligibleTargets, List.mem_filterMap]
  refine exists_congr fun h => and_congr_right fun _ => ?_
  split
  · rename_i x hx
    constructor
    · intro e
      split at e
      · rename_i hel
        cases e
        exact ⟨x, rfl, hx, (eligibleTarget_iff t a x h).1 hel, rfl⟩
      · cases e
    · rintro ⟨y, hs, hy, hel, hv⟩
      rw [hs] at hx
      rw [hx] at hy
      cases hy
      rw [if_pos ((eligibleTarget_iff t a x h).2 hel), hs, hv]
  · rename_i hx
    refine iff_of_false (by simp) ?_
    rintro ⟨y, hs, hy, -⟩
    rw [hs, hy] at hx
    cases hx

theorem betterTarget_chains : Chains betterTarget := by
  intro a b c
  simp only [betterTarget, Bool.or_eq_true, Bool.and_eq_true, decide_eq_true_eq, beq_iff_eq]
  omega

theorem betterTarget_decides (s : State) (t a : Nat) (inSet : List Nat) {l : List Hearing} (hnd : (l.map Hearing.site).Nodup) :
    Decides betterTarget (eligibleTargets s t inSet a l) := by
  intro x hx y hy hne
  obtain ⟨h, hh, z, hs, hz, -, hv⟩ := mem_eligibleTargets.1 hx
  obtain ⟨h', hh', z', hs', hz', -, hv'⟩ := mem_eligibleTargets.1 hy
  have hsite : x.site ≠ y.site := fun e => hne (by
    have heq : h = h' := eq_of_site_eq hnd hh hh' (by rw [hs, hs', e])
    subst heq
    rw [← e, hz] at hz'
    cases hz'
    cases x; cases y
    simp_all)
  rw [Bool.eq_iff_iff]
  simp only [betterTarget, Bool.or_eq_true, Bool.and_eq_true, decide_eq_true_eq, beq_iff_eq, Bool.not_eq_true', Bool.or_eq_false_iff,
    Bool.and_eq_false_iff, decide_eq_false_iff_not, beq_eq_false_iff_ne]
  omega

theorem bestTarget_iff {s : State} {t a : Nat} {inSet : List Nat} {l : List Hearing} (hnd : (l.map Hearing.site).Nodup) (b : Scored) :
    bestTarget s t inSet a l = some b ↔ bestFor s t inSet a l b.site b.score := by
  rw [bestTarget, bestOf_eq_some_iff betterTarget_chains (betterTarget_decides s t a inSet hnd)]
  refine and_congr mem_eligibleTargets ⟨fun hall h hh x hx hel => ?_, fun hall y hy => ?_⟩
  · have := hall { site := h.site, score := score s t inSet false x h } (mem_eligibleTargets.2 ⟨h, hh, x, rfl, hx, hel, rfl⟩)
    rcases this with rfl | hb
    · exact .inr ⟨rfl, Nat.le_refl _⟩
    · simp only [betterTarget, Bool.or_eq_true, Bool.and_eq_true, decide_eq_true_eq, beq_iff_eq] at hb
      omega
  · obtain ⟨h, hh, x, hs, hx, hel, hv⟩ := mem_eligibleTargets.1 hy
    have := hall h hh x (hs ▸ hx) hel
    rw [hv, hs] at this
    by_cases he : y = b
    · exact .inl he
    · right
      have hne : ¬(y.site = b.site ∧ y.score = b.score) := fun ⟨h1, h2⟩ => he (by cases y; cases b; simp_all)
      simp only [betterTarget, Bool.or_eq_true, Bool.and_eq_true, decide_eq_true_eq, beq_iff_eq]
      omega

theorem servingScore_iff {s : State} {t a : Nat} {inSet : List Nat} {l : List Hearing} (hnd : (l.map Hearing.site).Nodup) (v : Nat) :
    servingScore s t inSet a l = some v ↔ ∃ h x, h ∈ l ∧ h.site = a ∧ tget s.sites a = some x ∧ working x.state = true ∧
      score s t inSet true x h = v := by
  unfold servingScore
  split
  · rename_i x h hx hf
    have hm := List.mem_of_find?_eq_some hf
    have hs : h.site = a := by simpa using List.find?_some hf
    constructor
    · intro e
      split at e
      · cases e; exact ⟨h, x, hm, hs, hx, ‹_›, rfl⟩
      · cases e
    · rintro ⟨h', x', hm', hs', hx', hw, hv⟩
      rw [hx] at hx'
      cases hx'
      rw [eq_of_site_eq hnd hm hm' (hs.trans hs'.symm), if_pos hw, hv]
  · rename_i hno
    refine iff_of_false (by simp) ?_
    rintro ⟨h, x, hm, hs, hx, -⟩
    cases hf : l.find? fun h => h.site == a with
    | none => exact absurd (List.find?_eq_none.1 hf h hm) (by simp [hs])
    | some h' => exact hno x h' hx hf

theorem handoverDecision_iff {s : State} {t a : Nat} {inSet : List Nat} {l : List Hearing} (hnd : (l.map Hearing.site).Nodup) (p : Nat) :
    handoverDecision s t inSet a l = some p ↔ ∃ ha xa v, ha ∈ l ∧ ha.site = a ∧ tget s.sites a = some xa ∧ working xa.state = true ∧
      bestFor s t inSet a l p v ∧ score s t inSet true xa ha + xa.hysteresis ≤ v ∧ xa.releaseOut = true ∧
      s.outbound.length + 2 * movingCount s + 4 ≤ 512 := by
  unfold handoverDecision
  split
  · rename_i ss b x hss hb hx
    obtain ⟨h, y, hm, hs, hy, hw, hv⟩ := (servingScore_iff hnd ss).1 hss
    rw [hx] at hy
    cases hy
    have hbest := (bestTarget_iff hnd b).1 hb
    constructor
    · intro e
      split at e
      · rename_i hc
        obtain ⟨h1, h2, h3⟩ := hc
        cases e
        exact ⟨h, x, b.score, hm, hs, hx, hw, hbest, by rw [hv]; exact h1, h2, (hasRoom_iff s 4).1 h3⟩
      · cases e
    · rintro ⟨h', x', v, hm', hs', hx', hw', hbest', h1, h2, h3⟩
      rw [hx] at hx'
      cases hx'
      have hbb : b = { site := p, score := v } := by
        have := (bestTarget_iff hnd { site := p, score := v }).2 hbest'
        rw [hb] at this
        exact Option.some.inj this
      rw [eq_of_site_eq hnd hm' hm (hs'.trans hs.symm), hv] at h1
      subst hbb
      rw [if_pos ⟨h1, h2, (hasRoom_iff s 4).2 h3⟩]
  · rename_i hno
    refine iff_of_false (by simp) ?_
    rintro ⟨h, x, v, hm, hs, hx, hw, hbest, -⟩
    exact hno _ _ x ((servingScore_iff hnd _).2 ⟨h, x, hm, hs, hx, hw, rfl⟩) ((bestTarget_iff hnd { site := p, score := v }).2 hbest) hx

/-- Settles O34: the model's decision and choice read by their parts. -/
theorem handoverDecisionConditions : Obligations.HandoverDecisionConditions := by
  intro s a l hnd
  refine ⟨fun t inSet p => handoverDecision_iff hnd p, fun p => ?_⟩
  simp only [evacuationChoice, Option.map_eq_some_iff]
  constructor
  · rintro ⟨b, hb, rfl⟩
    exact ⟨b.score, (bestTarget_iff hnd b).1 hb⟩
  · rintro ⟨v, hv⟩
    exact ⟨{ site := p, score := v }, (bestTarget_iff hnd _).2 hv, rfl⟩

/-- What a best target offers the record that moves there. -/
theorem bestFor_target {s : State} {t a p v : Nat} {inSet : List Nat} {l : List Hearing} (h : bestFor s t inSet a l p v) :
    p ∈ l.map Hearing.site ∧ a ≠ p ∧ ∀ x, tget s.sites p = some x → x.count < x.capacity := by
  obtain ⟨⟨e, he, x, hs, hx, ⟨hne, -, -, -, -, hcap⟩, -⟩, -⟩ := h
  refine ⟨hs ▸ List.mem_map_of_mem he, fun e => hne (hs.trans e.symm), fun y hy => ?_⟩
  rw [hx] at hy
  cases hy
  exact hcap

/-! ### The site of an adoption (R58 to R60) -/

theorem adoptionTier_iff (x : Site) (n tier : Nat) : adoptionTier x n = some tier ↔
    (tier = 1 ∧ x.acceptIn = true ∧ n ≤ x.capacity) ∨ (tier = 2 ∧ x.acceptIn = true ∧ x.capacity < n ∧ n ≤ 255) ∨
      (tier = 3 ∧ x.acceptIn = false ∧ n ≤ 255) := by
  unfold adoptionTier
  cases x.acceptIn
  · simp only [Bool.false_eq_true, false_and, if_false, and_false, false_or, true_and]
    split <;> simp_all [eq_comm]
  · simp only [true_and, Bool.true_eq_false, false_and, and_false, or_false]
    split
    · rename_i h
      simp only [Option.some.injEq]
      omega
    · split
      · rename_i h1 h2
        simp only [Option.some.injEq]
        have : n ≤ 255 := h2
        omega
      · rename_i h1 h2
        have : ¬n ≤ 255 := h2
        simp only [reduceCtorEq, false_iff]
        omega

theorem mem_candidates {s : State} {t : Nat} {inSet : List Nat} {st : RecordState} {l : List Hearing} {c : Candidate} :
    c ∈ candidates s t inSet (servingSite st) l ↔ ∃ h ∈ l, h.site = c.site ∧ offers s t inSet st h c.tier c.score := by
  simp only [candidates, List.mem_filterMap]
  refine exists_congr fun h => and_congr_right fun _ => ?_
  have hbeq : (servingSite st == some h.site) = decide (servingSite st = some h.site) := by
    rw [Bool.eq_iff_iff]; simp
  rw [hbeq]
  split
  · rename_i x hx
    constructor
    · intro e
      split at e
      · rename_i hc
        rw [Bool.and_eq_true] at hc
        obtain ⟨tier, htier, rfl⟩ := Option.map_eq_some_iff.1 e
        refine ⟨rfl, x, hx, hc.1, hc.2, rfl, ?_⟩
        have := (adoptionTier_iff _ _ _).1 htier
        simpa only [placedCount, decide_eq_true_eq] using this
      · cases e
    · rintro ⟨hs, y, hy, hw, hconf, hv, htier⟩
      rw [hx] at hy
      cases hy
      rw [if_pos (by rw [hw, hconf]; rfl)]
      refine Option.map_eq_some_iff.2 ⟨c.tier, (adoptionTier_iff _ _ _).2 ?_, ?_⟩
      · simpa only [placedCount, decide_eq_true_eq] using htier
      · cases c
        simp_all
  · rename_i hx
    refine iff_of_false (by simp) ?_
    rintro ⟨-, y, hy, -⟩
    rw [hy] at hx
    cases hx

theorem betterCandidate_chains (own : Option Nat) : Chains (betterCandidate own) := by
  intro a b c h1 h2
  simp only [betterCandidate, Bool.or_eq_true, Bool.and_eq_true, decide_eq_true_eq, beq_iff_eq, bne_iff_ne, ne_eq] at h1 h2 ⊢
  rcases h1 with h1 | ⟨e1, h1 | ⟨f1, h1⟩⟩
  · exact .inl (by omega)
  · rcases h2 with h2 | ⟨e2, h2 | ⟨f2, -⟩⟩
    · exact .inl (by omega)
    · exact .inr ⟨by omega, .inl (by omega)⟩
    · exact .inr ⟨by omega, .inl (by omega)⟩
  · rcases h2 with h2 | ⟨e2, h2 | ⟨f2, h2⟩⟩
    · exact .inl (by omega)
    · exact .inr ⟨by omega, .inl (by omega)⟩
    · refine .inr ⟨by omega, .inr ⟨by omega, ?_⟩⟩
      rcases h1 with h1 | ⟨h1, l1⟩
      · exact .inl h1
      · rcases h2 with h2 | ⟨h2, l2⟩
        · exact absurd h2 h1
        · exact .inr ⟨h2, by omega⟩

theorem betterCandidate_decides (s : State) (t : Nat) (inSet : List Nat) (st : RecordState) (own : Option Nat) {l : List Hearing}
    (hnd : (l.map Hearing.site).Nodup) : Decides (betterCandidate own) (candidates s t inSet (servingSite st) l) := by
  intro x hx y hy hne
  obtain ⟨h, hh, hs, z, hz, hw, hc, hv, htier⟩ := mem_candidates.1 hx
  obtain ⟨h', hh', hs', z', hz', hw', hc', hv', htier'⟩ := mem_candidates.1 hy
  have hsite : x.site ≠ y.site := fun e => hne (by
    have heq : h = h' := eq_of_site_eq hnd hh hh' (by rw [hs, hs', e])
    subst heq
    rw [hz] at hz'
    cases hz'
    have htt : x.tier = y.tier := Option.some.inj (((adoptionTier_iff z _ _).2 htier).symm.trans ((adoptionTier_iff z _ _).2 htier'))
    cases x; cases y
    simp_all)
  rw [Bool.eq_iff_iff]
  simp only [betterCandidate, Bool.or_eq_true, Bool.and_eq_true, decide_eq_true_eq, beq_iff_eq, Bool.not_eq_true', Bool.or_eq_false_iff,
    Bool.and_eq_false_iff, decide_eq_false_iff_not, beq_eq_false_iff_ne, bne_iff_ne, ne_eq, bne_eq_false_iff_eq]
  have hown : own = some x.site → own ≠ some y.site := fun e1 e2 => hsite (Option.some.inj (e1.symm.trans e2))
  by_cases h1 : own = some x.site <;> by_cases h2 : own = some y.site <;> simp_all <;> omega

theorem adoptionChoice_eq (s : State) (t : Nat) (inSet : List Nat) (st : RecordState) (l : List Hearing) :
    adoptionChoice s t inSet st l = (bestOf (betterCandidate (ownSite st)) (candidates s t inSet (servingSite st) l)).map Candidate.site :=
  by cases st <;> rfl

theorem adoptionChoice_none_iff (s : State) (t : Nat) (inSet : List Nat) (st : RecordState) (l : List Hearing) :
    adoptionChoice s t inSet st l = none ↔ ∀ h ∈ l, ∀ tier v, ¬offers s t inSet st h tier v := by
  rw [adoptionChoice_eq, Option.map_eq_none_iff, bestOf_eq_none_iff, List.eq_nil_iff_forall_not_mem]
  constructor
  · intro hno h hh tier v ho
    exact hno { site := h.site, tier := tier, score := v } (mem_candidates.2 ⟨h, hh, rfl, ho⟩)
  · intro hno c hc
    obtain ⟨h, hh, -, ho⟩ := mem_candidates.1 hc
    exact hno h hh _ _ ho

theorem adoptionChoice_some_iff (s : State) (t : Nat) (inSet : List Nat) (st : RecordState) {l : List Hearing}
    (hnd : (l.map Hearing.site).Nodup) (c : Nat) : adoptionChoice s t inSet st l = some c ↔
      ∃ h ∈ l, ∃ tier v, h.site = c ∧ offers s t inSet st h tier v ∧
        ∀ h' ∈ l, ∀ tier' v', h'.site ≠ c → offers s t inSet st h' tier' v' →
          tier < tier' ∨ (tier = tier' ∧ (v' < v ∨ (v = v' ∧
            (ownSite st = some c ∨ (ownSite st ≠ some h'.site ∧ c < h'.site))))) := by
  have hbefore : ∀ b x : Candidate, betterCandidate (ownSite st) b x = true ↔ (b.tier < x.tier ∨ (b.tier = x.tier ∧
      (x.score < b.score ∨ (b.score = x.score ∧ (ownSite st = some b.site ∨ (ownSite st ≠ some x.site ∧ b.site < x.site)))))) := by
    intro b x
    simp only [betterCandidate, Bool.or_eq_true, Bool.and_eq_true, decide_eq_true_eq, beq_iff_eq, bne_iff_ne, ne_eq]
  rw [adoptionChoice_eq, Option.map_eq_some_iff]
  simp only [bestOf_eq_some_iff (betterCandidate_chains _) (betterCandidate_decides s t inSet st _ hnd)]
  constructor
  · rintro ⟨b, ⟨hb, hall⟩, rfl⟩
    obtain ⟨h, hh, hs, ho⟩ := mem_candidates.1 hb
    refine ⟨h, hh, b.tier, b.score, hs, ho, fun h' hh' tier' v' hne ho' => ?_⟩
    rcases hall { site := h'.site, tier := tier', score := v' } (mem_candidates.2 ⟨h', hh', rfl, ho'⟩) with rfl | hb'
    · exact absurd rfl hne
    · exact (hbefore _ _).1 hb'
  · rintro ⟨h, hh, tier, v, rfl, ho, hall⟩
    have hmem : { site := h.site, tier := tier, score := v } ∈ candidates s t inSet (servingSite st) l :=
      mem_candidates.2 ⟨h, hh, rfl, ho⟩
    refine ⟨{ site := h.site, tier := tier, score := v }, ⟨hmem, fun x hx => ?_⟩, rfl⟩
    obtain ⟨h', hh', hs', ho'⟩ := mem_candidates.1 hx
    by_cases he : h'.site = h.site
    · left
      have := betterCandidate_decides s t inSet st none hnd x hx _ hmem
      by_contra hne
      have hsame := eq_of_site_eq hnd hh' hh he
      subst hsame
      obtain ⟨z, hz, -, -, hv, htier⟩ := ho
      obtain ⟨z', hz', -, -, hv', htier'⟩ := ho'
      rw [hz] at hz'
      cases hz'
      have htt : tier = x.tier := Option.some.inj (((adoptionTier_iff z _ _).2 htier).symm.trans ((adoptionTier_iff z _ _).2 htier'))
      exact hne (by cases x; simp_all)
    · right
      rw [hbefore]
      have := hall h' hh' _ _ he ho'
      rw [← hs']
      exact this

/-- What the site chosen for an adoption offers: it is heard, and a record new to it finds its count below 255. -/
theorem adoptionChoice_site {s : State} {t : Nat} {inSet : List Nat} {st : RecordState} {l : List Hearing} {b : Nat}
    (h : adoptionChoice s t inSet st l = some b) : b ∈ l.map Hearing.site ∧
      (servingSite st ≠ some b → ∀ x, tget s.sites b = some x → x.capacity ≤ 255 → x.count < 255) := by
  rw [adoptionChoice_eq, Option.map_eq_some_iff] at h
  obtain ⟨c, hc, rfl⟩ := h
  obtain ⟨e, he, hs, x, hx, -, -, -, htier⟩ := mem_candidates.1 (bestOf_mem hc)
  refine ⟨hs ▸ List.mem_map_of_mem he, fun hne y hy hcap => ?_⟩
  rw [← hs, hx] at hy
  cases hy
  rw [← hs] at hne
  simp only [hne, if_false] at htier
  omega

end Sys2Proof.Machine

/-! The close of a burst by its steps (R37): the record after each, what the close leaves, and the close as an event. -/

namespace Sys2Proof.Machine

/-! ### Step 1: the lease (R10) -/

/-- A state with its lease, where it has one, running from t. -/
def renewed (s : State) (t : Nat) : RecordState → RecordState
  | .registered a _ => .registered a (leaseFrom s t)
  | .moving a p _ c => .moving a p (leaseFrom s t) c
  | st => st

theorem renewLease_eq (s : State) (u t : Nat) : renewLease s u t = modRadio s u fun r => { r with state := renewed s t r.state } := by
  unfold renewLease
  congr 1
  funext r
  obtain ⟨st⟩ := r
  cases st <;> rfl

@[simp] theorem stateName_renewed (s : State) (t : Nat) (st : RecordState) : stateName (renewed s t st) = stateName st := by
  cases st <;> rfl

@[simp] theorem servingSite_renewed (s : State) (t : Nat) (st : RecordState) : servingSite (renewed s t st) = servingSite st := by
  cases st <;> rfl

/-! ### What steps 1 to 3 leave -/

/-- What the steps before site selection leave: all but the record of unit u, the group records, calls, queues and notices. -/
structure CloseFrame (s t : State) (u : Nat) : Prop where
  outer : outer t = outer s
  tag : t.tagCounter = s.tagCounter
  engine : engine t = engine s
  others : ∀ v, v ≠ u → tget t.radios v = tget s.radios v
  sites : ∀ j, (tget t.sites j).map noQueue = (tget s.sites j).map noQueue
  outbound : ∃ more, t.outbound = s.outbound ++ more

theorem CloseFrame.refl (s : State) (u : Nat) : CloseFrame s s u := ⟨rfl, rfl, rfl, fun _ _ => rfl, fun _ => rfl, ⟨[], by simp⟩⟩

theorem CloseFrame.trans {a b c : State} {u : Nat} (h1 : CloseFrame a b u) (h2 : CloseFrame b c u) : CloseFrame a c u := by
  obtain ⟨m1, e1⟩ := h1.outbound
  obtain ⟨m2, e2⟩ := h2.outbound
  exact ⟨h2.outer.trans h1.outer, h2.tag.trans h1.tag, h2.engine.trans h1.engine, fun v hv => (h2.others v hv).trans (h1.others v hv),
    fun j => (h2.sites j).trans (h1.sites j), ⟨m1 ++ m2, by rw [e2, e1, List.append_assoc]⟩⟩

theorem ListFrame.close {s t : State} {u : Nat} (h : ListFrame s t u) : CloseFrame s t u :=
  ⟨h.outer, h.tag, h.engine, h.others, h.sites, h.outbound⟩

theorem closeFrame_modRadio (s : State) (u : Nat) (f : Radio → Radio) : CloseFrame s (modRadio s u f) u :=
  ⟨rfl, rfl, rfl, fun v hv => tget_tmod_ne _ _ hv, fun _ => rfl, ⟨[], by simp⟩⟩

theorem closeFrame_raise (s : State) (b : NoticeBody) (u : Nat) : CloseFrame s (raise s b) u :=
  ⟨by simp, by simp, by simp, fun v _ => by simp, fun j => by simp, ⟨[], by simp⟩⟩

theorem CloseFrame.partTime {s t : State} {u : Nat} (h : CloseFrame s t u) : t.partTime = s.partTime := congrArg Outer.partTime h.outer
theorem CloseFrame.params {s t : State} {u : Nat} (h : CloseFrame s t u) : t.params = s.params := congrArg Outer.params h.outer

theorem CloseFrame.values {s t : State} {u : Nat} (h : CloseFrame s t u) {β : Type} (f : Site → β) (hf : ∀ x, f (noQueue x) = f x)
    (j : Nat) : (tget t.sites j).map f = (tget s.sites j).map f := by
  have := congrArg (Option.map f) (h.sites j)
  simpa only [Option.map_map, Function.comp_def, hf] using this

theorem CloseFrame.works {s t : State} {u : Nat} (h : CloseFrame s t u) (n : Nat) : siteWorks t n = siteWorks s n :=
  siteWorks_congr (h.values Site.state (fun _ => rfl) n)

/-- Every candidate, and the choice among them, are as before. -/
theorem CloseFrame.choice {s t : State} {u : Nat} (h : CloseFrame s t u) (time : Nat) (inSet : List Nat) (st : RecordState)
    (l : List Hearing) : adoptionChoice t time inSet st l = adoptionChoice s time inSet st l := by
  have hcand : ∀ serving, candidates t time inSet serving l = candidates s time inSet serving l := by
    intro serving
    refine List.filterMap_congr fun e _ => ?_
    have hx := h.sites e.site
    cases h1 : tget t.sites e.site <;> cases h2 : tget s.sites e.site <;> simp only [h1, h2, Option.map_some, Option.map_none,
      reduceCtorEq, Option.some.injEq] at hx ⊢
    rename_i x y
    have hv : ∀ {β : Type} (f : Site → β), (∀ z, f (noQueue z) = f z) → f x = f y := fun f hf => by rw [← hf x, hx, hf y]
    have hstate : x.state = y.state := hv Site.state fun _ => rfl
    have hacc : x.acceptIn = y.acceptIn := hv Site.acceptIn fun _ => rfl
    have hcap : x.capacity = y.capacity := hv Site.capacity fun _ => rfl
    have hcount : x.count = y.count := hv Site.count fun _ => rfl
    have hbias : x.bias = y.bias := hv Site.bias fun _ => rfl
    simp only [adoptionTier, placedCount, score, hstate, hacc, hcap, hcount, hbias, h.params]
    rfl
  rw [adoptionChoice_eq, adoptionChoice_eq, hcand]

/-! ### Step 2: the reported list (R119) -/

/-- The reported list of a burst, where it has one, is applied. -/
def reportApplied (s : State) (u : Nat) : Option (List Nat) → State
  | some l => applyReported s u l
  | none => s

theorem closeFrame_reportApplied (s : State) (u : Nat) (rep : Option (List Nat)) : CloseFrame s (reportApplied s u rep) u := by
  cases rep with
  | none => exact .refl s u
  | some l => exact (listFrame_applyReported s u l).close

/-- The entries of a changed list follow R115. -/
theorem entriesFollow_newEntry (s : State) (old : List Membership) (new : List Nat) : entriesFollow s old (new.map (newEntry s old)) := by
  intro m hm
  obtain ⟨g, -, rfl⟩ := List.mem_map.1 hm
  rw [newEntry_group]
  by_cases hg : g ∈ groupNumbers old
  · left
    unfold newEntry
    cases hf : old.find? fun m' => m'.group == g with
    | none =>
      obtain ⟨m, hm, e⟩ := List.mem_map.1 hg
      exact absurd (List.find?_eq_none.1 hf m hm) (by simp [e])
    | some m' => exact List.mem_of_find?_eq_some hf
  · refine .inr ⟨hg, ?_⟩
    rw [newEntry_of_not_mem hg]
    simp only [gainedEntry, recallStateOf, beq_iff_eq]
    cases tget s.groups g <;> simp

theorem entriesFollow_refl (s : State) (l : List Membership) : entriesFollow s l l := fun _ hm => .inl hm

/-- The record once a reported list is applied: its list and its regroup state follow. -/
theorem reportApplied_record {s : State} {u : Nat} {r : Radio} (hu : tget s.radios u = some r) (rep : Option (List Nat)) :
    ∃ gs, tget (reportApplied s u rep).radios u = some { r with groups := gs, regroup := regroupAfter s r rep } ∧
      groupNumbers gs = listAfter s r rep ∧ entriesFollow s r.groups gs := by
  cases rep with
  | none => exact ⟨r.groups, hu, rfl, entriesFollow_refl s _⟩
  | some l =>
    simp only [reportApplied, applyReported, hu, listAfter, regroupAfter]
    have hchanged := changeGroupList_groups (trimGroups s l) hu
    cases hr : r.regroup <;> simp only [reduceCtorEq, if_false, if_true] <;> split <;> rename_i he
    · rw [beq_iff_eq] at he
      refine ⟨r.groups, ?_, he.symm, entriesFollow_refl s _⟩
      rw [hu, ← hr]
    · refine ⟨_, ?_, groupNumbers_newEntry s r.groups _, entriesFollow_newEntry s _ _⟩
      rw [hchanged, ← hr]
    · rw [beq_iff_eq] at he
      refine ⟨r.groups, ?_, rfl, entriesFollow_refl s _⟩
      rw [if_pos he, modRadio_radios, tget_tmod_self, hu]
      rfl
    · rw [beq_iff_eq] at he
      refine ⟨r.groups, ?_, rfl, entriesFollow_refl s _⟩
      rw [if_neg he, hu, ← hr]
    · rw [beq_iff_eq] at he
      refine ⟨r.groups, ?_, he.symm, entriesFollow_refl s _⟩
      rw [if_pos he, hu, ← hr]
    · rw [beq_iff_eq] at he
      refine ⟨_, ?_, groupNumbers_newEntry s r.groups _, entriesFollow_newEntry s _ _⟩
      rw [if_neg he, modRadio_radios, tget_tmod_self, hchanged]
      rfl

/-! ### Step 3: the emergency (R23) -/

/-- The emergency flag of a burst, where it is set, makes the emergency active. -/
def emergencyTaken (s : State) (u t : Nat) : Option Nat → State
  | some site => activateEmergency s u t site
  | none => s

theorem closeFrame_activateEmergency (s : State) (u t site : Nat) : CloseFrame s (activateEmergency s u t site) u := by
  unfold activateEmergency
  split
  · split
    · exact .refl s u
    · exact (closeFrame_modRadio s u _).trans (closeFrame_raise _ _ u)
  · exact .refl s u

theorem closeFrame_emergencyTaken (s : State) (u t : Nat) (e : Option Nat) : CloseFrame s (emergencyTaken s u t e) u := by
  cases e with
  | none => exact .refl s u
  | some site => exact closeFrame_activateEmergency s u t site

theorem activateEmergency_of_some {s : State} {u : Nat} {r : Radio} (hu : tget s.radios u = some r) (t site : Nat) :
    activateEmergency s u t site = if r.emergency.isSome then s
      else raise (modRadio s u fun r => { r with emergency := some { since := t, site := site } })
        (.emergency u site (stateName r.state)) := by
  unfold activateEmergency
  rw [hu]

theorem emergencyTaken_record {s : State} {u : Nat} {r : Radio} (hu : tget s.radios u = some r) (t : Nat) (b : Burst) :
    tget (emergencyTaken s u t b.emergency).radios u = some { r with emergency := emergencyAfter r b t } := by
  unfold emergencyAfter
  cases hb : b.emergency with
  | none =>
    rw [emergencyTaken, hu]
    cases he : r.emergency <;> (obtain ⟨⟩ := r; cases he; rfl)
  | some site =>
    rw [emergencyTaken, activateEmergency_of_some hu]
    cases he : r.emergency with
    | none => simp [hu]
    | some x =>
      simp only [Option.isSome_some, if_true]
      rw [hu, ← he]

/-! ### The state where step 4 is taken -/

/-- The close of burst b before site selection. -/
def closeReady (s : State) (u t : Nat) (b : Burst) : State :=
  emergencyTaken (reportApplied (renewLease s u t) u b.reported) u t b.emergency

theorem closeFrame_closeReady (s : State) (u t : Nat) (b : Burst) : CloseFrame s (closeReady s u t b) u :=
  .trans (b := renewLease s u t) (closeFrame_modRadio s u _)
    ((closeFrame_reportApplied _ u b.reported).trans (closeFrame_emergencyTaken _ u t b.emergency))

theorem closeReady_steady (s : State) (u t : Nat) (b : Burst) : Steady s (closeReady s u t b) := by
  have h2 : ∀ s : State, Inner s (reportApplied s u b.reported) := fun s => by
    cases b.reported with
    | none => exact .refl s
    | some l => exact inner_applyReported s u l
  have h3 : ∀ s : State, Inner s (emergencyTaken s u t b.emergency) := fun s => by
    cases b.emergency with
    | none => exact .refl s
    | some site => exact inner_activateEmergency s u t site
  exact ((inner_renewLease s u t).trans ((h2 _).trans (h3 _))).steady

theorem closeReady_ascending {s : State} (ha : Ascending s.radios) (u t : Nat) (b : Burst) : Ascending (closeReady s u t b).radios :=
  (closeReady_steady s u t b).radios ha

/-- The record before site selection: its lease, list, regroup state and emergency are those of the close. -/
theorem closeReady_record {s : State} {u : Nat} {r : Radio} (hu : tget s.radios u = some r) (t : Nat) (b : Burst) :
    ∃ gs, tget (closeReady s u t b).radios u = some { r with
        state := renewed s t r.state, groups := gs, regroup := regroupAfter s r b.reported, emergency := emergencyAfter r b t } ∧
      groupNumbers gs = listAfter s r b.reported ∧ entriesFollow s r.groups gs := by
  have h1 : tget (renewLease s u t).radios u = some { r with state := renewed s t r.state } := by
    rw [renewLease_eq, modRadio_radios, tget_tmod_self, hu]; rfl
  obtain ⟨gs, h2, h3, h4⟩ := reportApplied_record h1 b.reported
  exact ⟨gs, emergencyTaken_record h2 t b, h3, h4⟩

/-- The end of a close: a first-flagged burst tells a site that did not change, and the burst leaves its set (R38). -/
def closeEnd (s s4 : State) (u : Nat) (b : Burst) : State :=
  modRadio (if b.first && isRegistered s u && isRegistered s4 u then repeatAdopt s4 u else s4) u fun r =>
    { r with burst := none, prev := some (setOf b) }

theorem closeWork_eq (s : State) (u t : Nat) (b : Burst) :
    closeWork s u t b = closeEnd s (selectSite (closeReady s u t b) u t b.sites) u b := by
  unfold closeWork closeEnd closeReady
  cases b.reported <;> cases b.emergency <;> rfl

theorem repeatAdopt_frame (s : State) (u : Nat) : SendFrame s (repeatAdopt s u) := by
  unfold repeatAdopt
  split
  · split
    · exact sendFrame_sendOrdinary _ _ _
    · exact .refl s
  · exact .refl s

theorem repeated_frame (p : Bool) (s : State) (u : Nat) : SendFrame s (if p then repeatAdopt s u else s) := by
  split
  · exact repeatAdopt_frame s u
  · exact .refl s

theorem closeEnd_radios (s s4 : State) (u : Nat) (b : Burst) : (closeEnd s s4 u b).radios =
    tmod s4.radios u fun r => { r with burst := none, prev := some (setOf b) } := by
  unfold closeEnd
  rw [modRadio_radios, (repeated_frame _ s4 u).radios]

/-! ### Step 4: site selection -/

theorem adoptAt_radios (s : State) (u b t : Nat) (from_ : Option Nat) (wasLost : Bool) :
    (adoptAt s u b t from_ wasLost).radios = tmod s.radios u fun r => { r with state := .registered b (leaseFrom s t) } := by
  have hadd : ∀ s gs b, (addCounts s gs b).radios = s.radios := fun s gs b => by
    rw [addCounts, (callFrame_passAll _ _).radios, (groupFrame_addMembers _ _ _).radios, addReg_radios]
  have hover : ∀ s s' b, (markOver s s' b).radios = s'.radios := fun s s' b => by
    unfold markOver
    split
    · exact (sendFrame_setOver _ _).radios
    · rfl
  cases from_ with
  | none =>
    have : (adoptedNew s u b t).radios = tmod s.radios u fun r => { r with state := .registered b (leaseFrom s t) } := by
      rw [adoptedNew, hadd, (groupFrame_addTotals _ _).radios]; rfl
    rw [adoptAt_new]
    split <;> simp only [raise_radios, (sendFrame_sendOrdinary _ _ _).radios, hover, this]
  | some a =>
    by_cases ha : a = b
    · subst ha
      rw [adoptAt_same, (sendFrame_sendOrdinary _ _ _).radios]
      rfl
    · have : (adoptedFrom s u a b t).radios = tmod s.radios u fun r => { r with state := .registered b (leaseFrom s t) } := by
        rw [adoptedFrom, hadd, removeCounts_radios]; rfl
      rw [adoptAt_from s u b t ha]
      split <;> simp only [raise_radios, (sendFrame_sendOrdinary _ _ _).radios, hover, this]

theorem startHandover_radios {s : State} {u : Nat} {r : Radio} (hu : tget s.radios u = some r) (a lease p t : Nat) :
    (startHandover s u a lease p t).radios = tput s.radios u { r with
      state := .moving a p lease { tag := s.tagCounter, readySeen := false, quiescedSeen := false,
                                   deadline := t + tenths s.params.handoverTimeout } } := by
  obtain ⟨passes, e⟩ := startHandover_eq s u a lease p t
  rw [e, (callFrame_passAll _ _).radios, handoverBegun_radios hu]

theorem tdel_tmod {α : Type} (t : Table α) (k : Nat) (f : α → α) (hs : Ascending t) : tdel (tmod t k f) k = tdel t k := by
  cases h : tget t k with
  | none => rw [tmod_of_none _ _ h]
  | some v => rw [tmod_of_some _ _ h, tdel_tput _ _ _ hs]

theorem freeRecord_radios (s : State) (u : Nat) (hs : Ascending s.radios) : (freeRecord s u).radios = tdel s.radios u := by
  rw [freeRecord, delRadio_radios, clearFlags_radios, tdel_tmod _ _ _ hs]

/-- Site selection keeps the record but for its state, which is never RETIRED, or frees a JOINING record without emergency. -/
theorem selectSite_radios {s : State} {u : Nat} {r : Radio} (hu : tget s.radios u = some r) (t : Nat) (inSet : List Nat) :
    (selectSite s u t inSet = s) ∨
    (∃ st, (selectSite s u t inSet).radios = tput s.radios u { r with state := st } ∧ stateName st ≠ .retired ∧ st ≠ .joining) ∨
    (r.state = .joining ∧ r.emergency = none ∧ selectSite s u t inSet = freeRecord s u) := by
  have adopted : ∀ b f l, ∃ st, (adoptAt s u b t f l).radios = tput s.radios u { r with state := st } ∧ stateName st ≠ .retired ∧
      st ≠ .joining := fun b f l => ⟨_, by rw [adoptAt_radios, tmod_of_some _ _ hu], by simp [stateName], by simp⟩
  unfold selectSite
  rw [hu]
  simp only []
  split
  · split
    · exact .inr (.inl ⟨_, startHandover_radios hu _ _ _ _, by simp [stateName], by simp⟩)
    · exact .inl rfl
  · exact .inl rfl
  · rename_i hj
    split
    · exact .inr (.inl (adopted _ _ _))
    · split
      · exact .inl rfl
      · rename_i he
        exact .inr (.inr ⟨hj, by simpa using he, rfl⟩)
  · split
    · exact .inr (.inl (adopted _ _ _))
    · exact .inl rfl
  · split
    · exact .inr (.inl (adopted _ _ _))
    · exact .inl rfl
  · exact .inl rfl

/-! ### The record that a close leaves -/

/-- The record that is left after site selection, where one is: not RETIRED, and in emergency while it stays JOINING. -/
theorem selectSite_leaves {s : State} {u : Nat} {r : Radio} (ha : Ascending s.radios) (hu : tget s.radios u = some r)
    (hne : stateName r.state ≠ .retired) (t : Nat) (inSet : List Nat) {r' : Radio}
    (hr' : tget (selectSite s u t inSet).radios u = some r') : stateName r'.state ≠ .retired ∧
      (selectSite s u t inSet = s ∨ r'.state ≠ .joining) := by
  rcases selectSite_radios hu t inSet with h | ⟨st, h, hst, hj⟩ | ⟨-, -, h⟩
  · rw [h, hu] at hr'
    cases hr'
    exact ⟨hne, .inl h⟩
  · rw [h, tget_tput_self] at hr'
    cases hr'
    exact ⟨hst, .inr hj⟩
  · rw [h, freeRecord_radios s u ha, tget_tdel_self _ _ ha] at hr'
    cases hr'

theorem selectSite_joining {s : State} {u : Nat} {r : Radio} (ha : Ascending s.radios) (hu : tget s.radios u = some r)
    (t : Nat) (inSet : List Nat) {r' : Radio} (hr' : tget (selectSite s u t inSet).radios u = some r') (hj : r'.state = .joining) :
    r'.emergency ≠ none := by
  rcases selectSite_radios hu t inSet with h | ⟨st, h, hst, hne⟩ | ⟨-, -, h⟩
  · rw [h, hu] at hr'
    cases hr'
    unfold selectSite at h
    rw [hu] at h
    simp only [hj] at h
    split at h
    · rename_i b _
      have := congrArg (fun z : State => tget z.radios u) h
      simp only [adoptAt_radios, tget_tmod_self, hu, Option.map_some, Option.some.injEq] at this
      have := congrArg Radio.state this
      rw [hj] at this
      cases this
    · intro he
      rw [he] at h
      simp only [Option.isSome_none, Bool.false_eq_true, if_false] at h
      have := congrArg (fun z : State => tget z.radios u) h
      simp only [freeRecord_radios s u ha, tget_tdel_self _ _ ha, hu] at this
      cases this
  · rw [h, tget_tput_self] at hr'
    cases hr'
    exact absurd hj hne
  · rw [h, freeRecord_radios s u ha, tget_tdel_self _ _ ha] at hr'
    cases hr'

theorem selectSite_others {s : State} {u : Nat} {r : Radio} (ha : Ascending s.radios) (hu : tget s.radios u = some r) (t : Nat)
    (inSet : List Nat) {v : Nat} (hv : v ≠ u) : tget (selectSite s u t inSet).radios v = tget s.radios v := by
  rcases selectSite_radios hu t inSet with h | ⟨st, h, -, -⟩ | ⟨-, -, h⟩
  · rw [h]
  · rw [h, tget_tput_ne _ _ hv]
  · rw [h, freeRecord_radios s u ha, tget_tdel_ne _ hv]

/-! ### The close as an event -/

/-- A record in order with an open burst is not RETIRED (R20). -/
theorem recordOk.not_retired {r : Radio} (h : recordOk r) (hb : r.burst ≠ none) : stateName r.state ≠ .retired := by
  obtain ⟨-, -, hs⟩ := (recordOk_iff r).1 h
  unfold stateOk at hs
  cases e : r.state <;> simp_all [stateName]

theorem event_reportApplied {w : Nat → Prop} {s : State} {u : Nat} {r : Radio} (ha : Ascending s.radios) (hu : tget s.radios u = some r)
    (hb : r.burst ≠ none) (rep : Option (List Nat)) : Event w s (reportApplied s u rep) := by
  cases rep with
  | none => exact .refl s
  | some l => exact event_applyReported ha l fun h r' hr' => by rw [hu] at hr'; cases hr'; exact (h.record hu).not_retired hb

theorem event_emergencyTaken {w : Nat → Prop} {s : State} {u : Nat} {r : Radio} (ha : Ascending s.radios) (hu : tget s.radios u = some r)
    (hb : r.burst ≠ none) (t : Nat) (e : Option Nat) : Event w s (emergencyTaken s u t e) := by
  cases e with
  | none => exact .refl s
  | some site =>
    exact event_activateEmergency ha t site fun h r' hr' => by rw [hu] at hr'; cases hr'; exact (h.record hu).not_retired hb

theorem event_closeReady {w : Nat → Prop} {s : State} {u : Nat} {r : Radio} (ha : Ascending s.radios) (hu : tget s.radios u = some r)
    (hb : r.burst ≠ none) (t : Nat) (b : Burst) : Event w s (closeReady s u t b) := by
  have e1 : Event w s (renewLease s u t) := event_renewLease ha u t
  have h1 : tget (renewLease s u t).radios u = some { r with state := renewed s t r.state } := by
    rw [renewLease_eq, modRadio_radios, tget_tmod_self, hu]; rfl
  obtain ⟨gs, h2, -, -⟩ := reportApplied_record h1 b.reported
  have a1 := e1.steady.radios ha
  have e2 : Event w _ _ := event_reportApplied a1 h1 hb b.reported
  exact e1.trans (e2.trans (event_emergencyTaken (e2.steady.radios a1) h2 hb t b.emergency))

/-- What a decision for a target says of it. -/
theorem handoverDecision_target {s : State} {t a p : Nat} {inSet : List Nat} {l : List Hearing}
    (h : handoverDecision s t inSet a l = some p) : hasRoom s 4 = true ∧ p ∈ l.map Hearing.site ∧ a ≠ p ∧
      ∀ x, tget s.sites p = some x → x.count < x.capacity := by
  unfold handoverDecision at h
  split at h
  · rename_i b x _ hb _
    split at h
    · rename_i hc
      cases h
      obtain ⟨e, he, y, hs, hy, ⟨hne, -, -, -, -, hcap⟩, -⟩ := mem_eligibleTargets.1 (bestOf_mem hb)
      refine ⟨hc.2.2, hs ▸ List.mem_map_of_mem he, fun e => hne (hs.trans e.symm), fun z hz => ?_⟩
      rw [hy] at hz
      cases hz
      exact hcap
    · cases h
  · cases h

theorem event_selectSite {w : Nat → Prop} {s : State} {u : Nat} (ha : Ascending s.radios) (t : Nat) (inSet : List Nat) :
    Event w s (selectSite s u t inSet) := by
  unfold selectSite
  split
  · rename_i r hu
    split
    · rename_i a lease hs
      split
      · rename_i p hp
        obtain ⟨hroom, hheard, hne, hcap⟩ := handoverDecision_target hp
        exact event_startHandover ha hu hs hroom hheard hne hcap
      · exact .refl s
    · exact .refl s
    · rename_i hs
      split
      · rename_i b hb
        obtain ⟨hheard, hcap⟩ := adoptionChoice_site hb
        exact event_adoptAt_new ha hu (by rw [hs]; rfl) hheard (hcap (by rw [hs]; simp [servingSite]))
      · exact event_ite (fun _ => .refl s) fun _ => event_freeRecord ha hu (by rw [hs]; rfl)
    · rename_i a y h hs
      split
      · rename_i b hb
        obtain ⟨hheard, hcap⟩ := adoptionChoice_site hb
        exact event_adoptAt_from ha hu hs hheard fun hne => hcap (by rw [hs]; simpa [servingSite] using hne)
      · exact .refl s
    · rename_i n hs
      split
      · rename_i b hb
        obtain ⟨hheard, hcap⟩ := adoptionChoice_site hb
        exact event_adoptAt_new ha hu (by rw [hs]; rfl) hheard (hcap (by rw [hs]; simp [servingSite]))
      · exact .refl s
    · exact .refl s
  · exact .refl s

theorem event_repeatAdopt {w : Nat → Prop} (s : State) (u : Nat) : Event w s (repeatAdopt s u) := by
  unfold repeatAdopt
  split
  · split
    · exact event_sendOrdinary s _ _
    · exact .refl s
  · exact .refl s

/-- Site selection leaves a record's burst. -/
theorem selectSite_burst {s : State} {u : Nat} {r : Radio} (ha : Ascending s.radios) (hu : tget s.radios u = some r)
    (t : Nat) (inSet : List Nat) {r' : Radio} (hr' : tget (selectSite s u t inSet).radios u = some r') : r'.burst = r.burst := by
  rcases selectSite_radios hu t inSet with h | ⟨st, h, -, -⟩ | ⟨-, -, h⟩
  · rw [h, hu] at hr'; cases hr'; rfl
  · rw [h, tget_tput_self] at hr'; cases hr'; rfl
  · rw [h, freeRecord_radios s u ha, tget_tdel_self _ _ ha] at hr'; cases hr'

theorem event_closeWork {w : Nat → Prop} {s : State} {u : Nat} {r : Radio} (ha : Ascending s.radios) (hu : tget s.radios u = some r)
    (hb : r.burst ≠ none) (t : Nat) (b : Burst) : Event w s (closeWork s u t b) := by
  rw [closeWork_eq]
  have e3 : Event w s (closeReady s u t b) := event_closeReady ha hu hb t b
  have a3 := e3.steady.radios ha
  obtain ⟨gs, h3, -, -⟩ := closeReady_record hu t b
  have e4 : Event w _ (selectSite (closeReady s u t b) u t b.sites) := event_selectSite a3 t b.sites
  have a4 := e4.steady.radios a3
  have e5 : Event w _ (if b.first && isRegistered s u && isRegistered (selectSite (closeReady s u t b) u t b.sites) u
      then repeatAdopt (selectSite (closeReady s u t b) u t b.sites) u else selectSite (closeReady s u t b) u t b.sites) :=
    event_ite (fun _ => event_repeatAdopt _ u) fun _ => .refl _
  refine e3.trans (e4.trans (e5.trans ?_))
  refine event_modFields (e5.steady.radios a4) (fun _ => ⟨rfl, rfl, rfl⟩) fun hok r' hr' => ?_
  rw [(repeated_frame _ _ u).radios] at hr'
  have hrec := hok.record (u := u) (by rw [(repeated_frame _ _ u).radios]; exact hr')
  have hret := hrec.not_retired (by rw [selectSite_burst a3 h3 t b.sites hr']; exact hb)
  have hj := selectSite_joining a3 h3 t b.sites hr'
  obtain ⟨-, -, hst⟩ := (recordOk_iff r').1 hrec
  unfold stateOk at hst ⊢
  cases e : r'.state with
  | joining => exact .inr (Option.isSome_iff_ne_none.2 (hj e))
  | moving a p l c => rw [e] at hst; exact hst
  | retired n y h => rw [e] at hret; exact absurd rfl hret
  | registered | presumed | lost => trivial

/-- What the close of an open burst leaves of a record that is not RETIRED: none, or one that is not RETIRED either. -/
theorem closeWork_leaves {s : State} {u : Nat} {r : Radio} (ha : Ascending s.radios) (hu : tget s.radios u = some r)
    (hne : stateName r.state ≠ .retired) (t : Nat) (b : Burst) {r' : Radio} (hr' : tget (closeWork s u t b).radios u = some r') :
    stateName r'.state ≠ .retired := by
  obtain ⟨gs, h3, -, -⟩ := closeReady_record hu t b
  have a3 := closeReady_ascending ha u t b
  rw [closeWork_eq, closeEnd_radios, tget_tmod_self, Option.map_eq_some_iff] at hr'
  obtain ⟨r4, h4, rfl⟩ := hr'
  exact (selectSite_leaves a3 h3 (by simpa using hne) t b.sites h4).1

theorem event_closeBurst {w : Nat → Prop} {s : State} (ha : Ascending s.radios) (u t : Nat) : Event w s (closeBurst s u t) := by
  unfold closeBurst
  split
  · rename_i b hb
    obtain ⟨r, hu, hb⟩ := Option.bind_eq_some_iff.1 hb
    exact event_closeWork ha hu (by rw [hb]; simp) t b
  · exact .refl s

/-- After the close of a burst no burst is open. -/
theorem closeBurst_burst_none {s : State} {u t : Nat} {r : Radio} (hr : tget (closeBurst s u t).radios u = some r) :
    r.burst = none := by
  unfold closeBurst at hr
  split at hr
  · rw [closeWork_eq, closeEnd_radios, tget_tmod_self, Option.map_eq_some_iff] at hr
    obtain ⟨r4, -, rfl⟩ := hr
    rfl
  · rename_i hb
    rw [hr] at hb
    exact hb

theorem closeBurst_leaves {s : State} {u : Nat} {r : Radio} (ha : Ascending s.radios) (hu : tget s.radios u = some r)
    (hne : stateName r.state ≠ .retired) (t : Nat) {r' : Radio} (hr' : tget (closeBurst s u t).radios u = some r') :
    stateName r'.state ≠ .retired := by
  unfold closeBurst at hr'
  split at hr'
  · exact closeWork_leaves ha hu hne t _ hr'
  · rw [hu] at hr'; cases hr'; exact hne

end Sys2Proof.Machine

/-! Site reports, handover answers, site statuses, calls of sites and deadlines as events (chapters 2, 4, 5 and 7). -/

namespace Sys2Proof.Machine

/-! ### Copies of a burst (chapter 2) -/

/-- A change of a record's fields with an update of its hearing list. -/
theorem event_heard {w : Nat → Prop} {s : State} {u : Nat} {f : Radio → Radio} {n q heard openedAt : Nat} (ha : Ascending s.radios)
    (hf : ∀ r, (f r).groups = r.groups ∧ (f r).state = r.state ∧
      (f r).hearing = updateHearing s r.state r.hearing n q heard openedAt)
    (hstate : RecordsOk s → ∀ r, tget s.radios u = some r → stateOk (f r)) : Event w s (modRadio s u f) := by
  refine event_modRadio ha (fun r _ => ⟨(hf r).1, by rw [(hf r).2.1]⟩) fun h r hr => ?_
  obtain ⟨hg, hst, hh⟩ := hf r
  obtain ⟨h1, h2, -⟩ := (recordOk_iff r).1 (h.record hr)
  exact (recordOk_iff _).2 ⟨updateHearing_ok s n q heard openedAt h1 hst hh, by rw [hg]; exact h2, hstate h r hr⟩

/-- A record whose burst is open meets what its state requires, unless it is RETIRED. -/
theorem stateOk_of_burst {r r' : Radio} (hr : recordOk r) (hne : stateName r.state ≠ .retired) (hst : r'.state = r.state)
    (hb : r'.burst ≠ none) : stateOk r' := by
  obtain ⟨-, -, hs⟩ := (recordOk_iff r).1 hr
  unfold stateOk at hs ⊢
  rw [hst]
  cases e : r.state with
  | joining => exact .inl (Option.isSome_iff_ne_none.2 hb)
  | moving a p l c => rw [e] at hs; exact hs
  | retired n y h => rw [e] at hne; exact absurd rfl hne
  | registered | presumed | lost => trivial

theorem event_openBurst {w : Nat → Prop} {s : State} {c : Copy} {r : Radio} (ha : Ascending s.radios)
    (hu : tget s.radios c.unit = some r) (hne : stateName r.state ≠ .retired) : Event w s (openBurst s c) := by
  refine event_heard ha (fun _ => ⟨rfl, rfl, rfl⟩) fun h r' hr' => ?_
  rw [hu] at hr'
  cases hr'
  exact stateOk_of_burst (h.record hu) hne rfl (by simp)

theorem event_copyOpen {w : Nat → Prop} {s : State} {c : Copy} {r : Radio} {b : Burst} (ha : Ascending s.radios)
    (hu : tget s.radios c.unit = some r) (hne : stateName r.state ≠ .retired) : Event w s (copyOpen s c b).1 := by
  unfold copyOpen
  split
  · exact .refl s
  · refine event_heard ha (fun _ => ⟨rfl, rfl, rfl⟩) fun h r' hr' => ?_
    rw [hu] at hr'
    cases hr'
    exact stateOk_of_burst (h.record hu) hne rfl (by simp)

theorem event_copyClosed {w : Nat → Prop} {s : State} {c : Copy} {r : Radio} (ha : Ascending s.radios)
    (hu : tget s.radios c.unit = some r) (hne : stateName r.state ≠ .retired) : Event w s (copyClosed s c r).1 := by
  unfold copyClosed
  split
  · rename_i p _
    split
    · simp only []
      have e1 : Event w s (modRadio s c.unit fun r =>
        { r with prev := some { p with sites := p.sites ++ [c.site] },
                 hearing := updateHearing s r.state r.hearing c.site c.quality p.openedAt p.openedAt }) :=
        event_heard ha (fun _ => ⟨rfl, rfl, rfl⟩) fun h r' hr' => ((recordOk_iff r').1 (h.record hr')).2.2
      refine event_ite (fun _ => e1.trans (event_activateEmergency (e1.steady.radios ha) _ _ fun _ r' hr' => ?_)) fun _ => e1
      rw [modRadio_radios, tget_tmod_self, hu] at hr'
      cases hr'
      exact hne
    · exact .refl s
  · exact .refl s

theorem charge_fresh (s : State) (c : Copy) : charge (freshRecord s c) = 0 := by
  rw [charge_uncounted rfl]; rfl

/-- A new record has the shape of a JOINING one with its first burst open (R3). -/
theorem recordOk_fresh (s : State) (c : Copy) : recordOk (freshRecord s c) :=
  (recordOk_iff _).2 ⟨⟨by simp [freshRecord], by simp [freshRecord], by simp [freshRecord, countedSites, servingSite, pendingSite]⟩,
    ⟨by simp [freshRecord], by simp [freshRecord, groupNumbers]⟩, .inl rfl⟩

/-- The units that a copy may enter in the Directory. -/
def unitOf (u : Nat) : Nat → Prop := fun v => v = u ∧ u ≠ 0

/-- The entry of a new record (R3). -/
theorem core_enter {s : State} {c : Copy} {s' : State} (ha : Ascending s.radios) (hu : tget s.radios c.unit = none) (h0 : c.unit ≠ 0) :
    EventCore (unitOf c.unit) s (putRadio s c.unit (freshRecord s' c)) := by
  refine .of_move (o := some (freshRecord s' c)) (d := 0) (up := 0) ha (booked_putRadio s _ _).steady (booked_putRadio s _ _).calm ?_
    (booked_putRadio s _ _).posted rfl (fun a _ => ⟨0, by simp [hu, chargeAt], by simp [chargeAt, charge_fresh]⟩)
    (fun _ h _ => by simp only [Multiset.count_zero]; omega) (fun _ r e => by cases e; exact recordOk_fresh s' c)
    (fun _ _ => ⟨rfl, h0⟩) fun _ e hf => ?_
  · rintro ⟨-, hle⟩
    refine ⟨ascending_tput _ _ _ ha, ?_⟩
    have : movingCount (putRadio s c.unit (freshRecord s' c)) = movingCount s := by
      unfold movingCount
      rw [putRadio_radios, countP_tput_of_none _ hu]
      simp [freshRecord, isMoving]
    rw [putRadio_outbound]
    omega
  · cases e
    simp [freshRecord, hasFlag] at hf

theorem retired_charge {r : Radio} (h : recordOk r) (hst : stateName r.state = .retired) : charge r = 0 := by
  obtain ⟨-, -, hs⟩ := (recordOk_iff r).1 h
  unfold stateOk at hs
  cases e : r.state <;> simp only [e, stateName, reduceCtorEq] at hst hs
  rw [charge_uncounted (by rw [e]; rfl), flagCharge_of_clear hs.2.2]

/-- The revival of a RETIRED record (R8). -/
theorem event_revive {w : Nat → Prop} {s : State} {c : Copy} {r : Radio} (ha : Ascending s.radios) (hu : tget s.radios c.unit = some r)
    (hst : stateName r.state = .retired) : Event w s (putRadio s c.unit (freshRecord s c)) := by
  have hser : servingSite r.state = none := by cases e : r.state <;> simp_all [stateName, servingSite]
  have hr : (putRadio s c.unit (freshRecord s c)).radios = tput s.radios c.unit (freshRecord s c) := rfl
  refine ⟨.of_move (o := some (freshRecord s c)) (d := 0) (up := 0) ha (booked_putRadio s _ _).steady (booked_putRadio s _ _).calm
    (.of_change hu hr ?_) (booked_putRadio s _ _).posted hr (fun a hcase => ⟨0, ?_, by simp [chargeAt, charge_fresh]⟩)
    (fun _ h _ => by simp only [Multiset.count_zero]; omega) (fun _ r e => by cases e; exact recordOk_fresh s c)
    (fun h _ => by rw [hu] at h; cases h) fun _ e hf => ?_, fun _ hl => ?_⟩
  · simp [freshRecord, isMoving]
  · simp only [hu, chargeAt, Option.map_some, Option.getD_some, Multiset.count_zero, Nat.add_zero]
    rcases hcase with hreg | hok
    · cases a with
      | registered n =>
        have := count_registered_listCharge n (countedSites r.state) r.groups
        simp only [charge, Multiset.count_add, this]
        simp [countedSites, hser, show pendingSite r.state = none by cases e : r.state <;> simp_all [stateName, pendingSite]]
      | members | total | unreached => cases hreg
    · rw [retired_charge (hok r hu) hst, Multiset.count_zero]
  · cases e
    simp [freshRecord, hasFlag] at hf
  · rw [hr, length_tput_of_some ha hu]; exact hl

theorem mem_retirees {s : State} {x : Retiree} (ha : Ascending s.radios) (h : x ∈ retirees s) :
    ∃ r n h, tget s.radios x.unit = some r ∧ r.state = .retired n x.retiredAt h := by
  obtain ⟨⟨u, r⟩, hm, he⟩ := List.mem_filterMap.1 h
  simp only [] at he
  split at he
  · rename_i n y z hs
    cases he
    exact ⟨r, n, z, tget_of_mem ha hm, hs⟩
  · cases he

theorem event_createRecord {s : State} {c : Copy} (ha : Ascending s.radios) (hu : tget s.radios c.unit = none) (h0 : c.unit ≠ 0) :
    Event (unitOf c.unit) s (createRecord s c).1 := by
  unfold createRecord
  split
  · rename_i hlt
    refine ⟨core_enter ha hu h0, fun _ _ => ?_⟩
    exact Nat.le_trans (length_tput_le _ _ _) hlt
  · split
    · rename_i x hx
      obtain ⟨r, n, h, hr, hs⟩ := mem_retirees ha (bestOf_mem hx)
      have e1 : Event (unitOf c.unit) s (freeRecord s x.unit) := event_freeRecord ha hr (by rw [hs]; rfl)
      have hrad := freeRecord_radios s x.unit ha
      have hne : c.unit ≠ x.unit := fun e => by rw [e, hr] at hu; cases hu
      have hu' : tget (freeRecord s x.unit).radios c.unit = none := by rw [hrad, tget_tdel_ne _ hne]; exact hu
      refine ⟨e1.toEventCore.trans (core_enter (e1.steady.radios ha) hu' h0), fun _ hl => ?_⟩
      have h1 := length_tput_le (freeRecord s x.unit).radios c.unit (freshRecord s c)
      have h2 := length_tdel_of_some hr
      rw [hrad] at h1
      simp only [putRadio_radios, hrad]
      omega
    · exact .refl s

theorem event_copyAbsent {s : State} {c : Copy} (ha : Ascending s.radios) (hu : tget s.radios c.unit = none) (h0 : c.unit ≠ 0) :
    Event (unitOf c.unit) s (copyAbsent s c).1 := by
  unfold copyAbsent
  split
  · exact event_createRecord ha hu h0
  · exact .refl s

theorem event_copyRetired {w : Nat → Prop} {s : State} {c : Copy} {r : Radio} (ha : Ascending s.radios)
    (hu : tget s.radios c.unit = some r) (hst : stateName r.state = .retired) : Event w s (copyRetired s c r).1 := by
  unfold copyRetired
  split
  · split
    · exact event_revive ha hu hst
    · split <;> exact .refl s
  · exact .refl s

theorem event_copyNewer {s : State} {c : Copy} {r : Radio} (ha : Ascending s.radios) (hu : tget s.radios c.unit = some r)
    (hne : stateName r.state ≠ .retired) (h0 : c.unit ≠ 0) : Event (unitOf c.unit) s (copyNewer s c).1 := by
  unfold copyNewer
  simp only []
  have e1 : Event (unitOf c.unit) s (closeBurst s c.unit s.partTime) := event_closeBurst ha _ _
  split
  · rename_i r' hr'
    exact e1.trans (event_openBurst (e1.steady.radios ha) hr' (closeBurst_leaves ha hu hne _ hr'))
  · rename_i hn
    exact e1.trans (event_copyAbsent (e1.steady.radios ha) hn h0)

theorem event_takeCopy {s : State} {c : Copy} (ha : Ascending s.radios) : Event (unitOf c.unit) s (takeCopy s c).1 := by
  unfold takeCopy
  split
  · exact .refl s
  · rename_i h0
    split
    · exact event_copyAbsent ha ‹_› h0
    · rename_i r hu
      split
      · rename_i hs
        exact event_copyRetired ha hu (by rw [hs]; rfl)
      · rename_i hs
        have hne : stateName r.state ≠ .retired := by cases e : r.state <;> simp_all [stateName]
        split
        · exact event_copyNewer ha hu hne h0
        · exact .refl s
        · split
          · exact event_copyOpen ha hu hne
          · exact event_copyClosed ha hu hne

/-! ### Deregistration -/

theorem event_deregNewer {w : Nat → Prop} {s : State} (ha : Ascending s.radios) (u seq : Nat) : Event w s (deregNewer s u seq).1 := by
  unfold deregNewer
  simp only []
  have e1 : Event w s (closeBurst s u s.partTime) := event_closeBurst ha _ _
  split
  · rename_i r hr
    have e2 : Event w (closeBurst s u s.partTime) (modRadio (closeBurst s u s.partTime) u fun r => { r with lastSeq := seq }) :=
      event_modFields (e1.steady.radios ha) (fun _ => ⟨rfl, rfl, rfl⟩) fun h r' hr' => ((recordOk_iff r').1 (h.record hr')).2.2
    have h2 : tget (modRadio (closeBurst s u s.partTime) u fun r => { r with lastSeq := seq }).radios u =
        some { r with lastSeq := seq } := by rw [modRadio_radios, tget_tmod_self, hr]; rfl
    split
    · exact e1.trans e2
    · rename_i he
      refine e1.trans (e2.trans (event_deregister (e2.steady.radios (e1.steady.radios ha)) fun r' hr' => ?_))
      rw [h2] at hr'
      cases hr'
      have hb : r.burst = none := closeBurst_burst_none hr
      exact ⟨hb, by simpa using he⟩
  · exact e1

theorem event_takeDereg {w : Nat → Prop} {s : State} (ha : Ascending s.radios) (u seq : Nat) : Event w s (takeDereg s u seq).1 := by
  unfold takeDereg
  split
  · exact .refl s
  · split
    · exact .refl s
    · split
      · exact event_deregNewer ha u seq
      · exact .refl s
      · exact .refl s

/-! ### Receipts -/

theorem event_formReceipt {w : Nat → Prop} {s : State} (ha : Ascending s.radios) (site u seq : Nat) (code : ReceiptCode) (carries : Bool)
    (rep : Option (List Nat)) : Event w s (formReceipt s site u seq code carries rep).1 := by
  unfold formReceipt
  split
  · exact event_clearFlags ha u
  · exact .refl s

theorem event_withAnswer {w : Nat → Prop} {s : State} {f : SiteOut} {act : State → State × SiteOut} (hroom : hasRoom s 1 = true)
    (hact : Event w (pushOut s f) (act (pushOut s f)).1) : Event w s (withAnswer s f act) :=
  (event_pushOut hroom f).trans (hact.trans (event_setOut _ _ _))

theorem event_takeReport {s : State} {c : Copy} (ha : Ascending s.radios) (hroom : hasRoom s 1 = true) :
    Event (unitOf c.unit) s (takeReport s c) := by
  refine event_withAnswer hroom ?_
  split
  · exact .refl _
  · exact (event_takeCopy (s := pushOut s _) ha).trans (event_formReceipt ((event_takeCopy (s := pushOut s _) ha).steady.radios ha) _ _ _ _ _ _)

theorem event_takeDeregReport {w : Nat → Prop} {s : State} (ha : Ascending s.radios) (hroom : hasRoom s 1 = true) (site u seq : Nat) :
    Event w s (takeDeregReport s site u seq) := by
  refine event_withAnswer hroom ?_
  split
  · exact .refl _
  · exact (event_takeDereg (s := pushOut s _) ha u seq).trans
      (event_formReceipt ((event_takeDereg (w := w) (s := pushOut s _) ha u seq).steady.radios ha) _ _ _ _ _ _)

/-! ### Sites going dark and coming up (chapter 5) -/

theorem event_darkenRecord {w : Nat → Prop} (n : Nat) {s : State} (ha : Ascending s.radios) (u : Nat) : Event w s (darkenRecord n s u) := by
  unfold darkenRecord
  split
  · rename_i r hu
    split
    · rename_i a l hs
      exact event_ite (fun _ => event_restate (st := .presumed a .siteDark (presumeFrom s)) ha hu (by rw [hs]; rfl) fun _ => trivial)
        fun _ => .refl s
    · rename_i a p l c hs
      exact event_ite (fun _ => event_seeFlags ha hu hs) fun _ => event_ite (fun _ => event_unwindHandover ha hu hs) fun _ => .refl s
    · exact .refl s
  · exact .refl s

/-- A fold of events, each of which needs the Directory in order. -/
theorem event_foldl_asc {w : Nat → Prop} {β : Type} (f : State → β → State) (h : ∀ s x, Ascending s.radios → Event w s (f s x))
    (l : List β) {s : State} (ha : Ascending s.radios) : Event w s (l.foldl f s) := by
  induction l generalizing s with
  | nil => exact .refl s
  | cons x l ih => exact (h s x ha).trans (ih ((h s x ha).steady.radios ha))

theorem event_loseSiteCalls {w : Nat → Prop} (s : State) (n : Nat) : Event w s (loseSiteCalls s n) := by
  refine event_calls (inner_loseSiteCalls s n).steady rfl rfl rfl (fun m => ?_) (fun _ => rfl) id
  simp only [loseSiteCalls, modSite_sites, tget_tmod]
  split
  · cases tget s.sites m <;> rfl
  · rfl

theorem event_goDark {w : Nat → Prop} {s : State} (ha : Ascending s.radios) (n : Nat) (failing : Bool) : Event w s (goDark s n failing) := by
  have e1 : Event w s (modSite s n fun x => { x with state := .dark }) := event_modSite s n _ (fun _ => rfl) fun _ => rfl
  have e2 : Event w _ _ := event_foldl_asc (darkenRecord n) (fun s u ha => event_darkenRecord n ha u)
    (tkeys (modSite s n fun x => { x with state := .dark }).radios) (e1.steady.radios ha)
  exact e1.trans (e2.trans ((event_loseSiteCalls _ n).trans (event_raise _ _)))

theorem event_restoreRecord {w : Nat → Prop} (n : Nat) {s : State} (ha : Ascending s.radios) (u : Nat) :
    Event w s (restoreRecord n s u) := by
  unfold restoreRecord
  split
  · rename_i r hu
    split
    · rename_i haw
      unfold awaitsSite at haw
      split at haw
      · rename_i a h hs
        have hn : a = n := by simpa using haw
        subst hn
        exact (event_restate (st := .registered a (leaseFrom s s.partTime)) ha hu (by rw [hs]; rfl) fun _ => trivial).trans
          (event_sendOrdinary _ _ _)
      · cases haw
    · exact .refl s
  · exact .refl s

theorem event_comeUp {w : Nat → Prop} {s : State} (ha : Ascending s.radios) (n : Nat) (degraded wasDark : Bool) :
    Event w s (comeUp s n degraded wasDark) := by
  unfold comeUp
  simp only []
  have e1 : Event w s (modSite s n fun x => { x with state := workingState degraded (heartbeatFrom s) }) :=
    event_modSite s n _ (fun _ => rfl) fun _ => rfl
  refine e1.trans (.trans (event_ite (fun _ => ?_) fun _ => .refl _) (event_raise _ _))
  exact event_foldl_asc _ (fun s u ha => event_restoreRecord n ha u) _ (e1.steady.radios ha)

theorem event_statusActs {w : Nat → Prop} {s : State} (ha : Ascending s.radios) (n : Nat) (st : SiteState) (c : Condition) :
    Event w s (statusActs s n st c) := by
  have set : ∀ st', Event w s (modSite s n fun x => { x with state := st' }) := fun st' => event_modSite s n _ (fun _ => rfl) fun _ => rfl
  cases c <;> cases st <;> simp only [statusActs]
  case failing.down | failing.dark => exact .refl s
  case failing.up | failing.degraded => exact event_goDark ha n true
  case good.up | good.degraded | strained.up | strained.degraded => exact set _
  case good.down | good.dark | strained.down | strained.dark => exact event_comeUp ha n _ _

theorem event_takeStatus {w : Nat → Prop} {s : State} (ha : Ascending s.radios) (n condition : Nat) :
    Event w s (takeStatus s n condition) := by
  unfold takeStatus
  split
  · exact .refl s
  · split
    · rename_i x c _ _
      have e1 : Event w s (modSite s n fun y => { y with condition := some c }) := event_modSite s n _ (fun _ => rfl) fun _ => rfl
      exact e1.trans (event_statusActs (e1.steady.radios ha) n _ _)
    · exact .refl s

/-! ### Handover answers (chapter 4) -/

theorem matching_some {s : State} {u tag a p lease : Nat} {c : Handover} (h : matching s u tag = some (a, p, lease, c)) :
    ∃ r, tget s.radios u = some r ∧ r.state = .moving a p lease c ∧ c.tag = tag := by
  unfold matching at h
  split at h
  · rename_i r hr
    split at h
    · rename_i a' p' l' c' hs
      split at h
      · rename_i ht
        cases h
        exact ⟨r, hr, hs, ht⟩
      · cases h
    · cases h
  · cases h

theorem event_takeReady {w : Nat → Prop} {s : State} (ha : Ascending s.radios) (hroom : hasRoom s 1 = true) (n u tag : Nat) :
    Event w s (takeReady s n u tag) := by
  unfold takeReady
  split
  · split
    · rename_i hm
      obtain ⟨r, hr, hs, -⟩ := matching_some hm
      exact event_ite (fun _ => event_seeFlags ha hr hs) fun _ => event_pushOut hroom _
    · exact event_pushOut hroom _
  · exact .refl s

theorem event_takeQuiesced {w : Nat → Prop} {s : State} (ha : Ascending s.radios) (n u tag : Nat) : Event w s (takeQuiesced s n u tag) := by
  unfold takeQuiesced
  split
  · split
    · rename_i hm
      obtain ⟨r, hr, hs, -⟩ := matching_some hm
      exact event_ite (fun _ => event_seeFlags ha hr hs) fun _ => .refl s
    · exact .refl s
  · exact .refl s

theorem event_setBackoff {w : Nat → Prop} {s : State} (ha : Ascending s.radios) (u p : Nat) : Event w s (setBackoff s u p) := by
  refine event_modRadio ha (fun _ _ => ⟨rfl, rfl⟩) fun h r hr => ?_
  obtain ⟨⟨h1, h2, h3⟩, h4, h5⟩ := (recordOk_iff r).1 (h.record hr)
  have hsites : (r.hearing.map fun h => if h.site = p then
      { h with backoff := some (s.partTime + tenths s.params.declineBackoff) } else h).map Hearing.site = r.hearing.map Hearing.site := by
    rw [List.map_map]
    refine List.map_congr_left fun h _ => ?_
    simp only [Function.comp_apply]
    split <;> rfl
  exact (recordOk_iff _).2 ⟨⟨by simpa using h1, by rw [hsites]; exact h2, by rw [hsites]; exact h3⟩, h4, h5⟩

theorem event_takeDecline {w : Nat → Prop} {s : State} (ha : Ascending s.radios) (n u tag : Nat) : Event w s (takeDecline s n u tag) := by
  unfold takeDecline
  split
  · split
    · rename_i a p l c hm
      obtain ⟨r, hr, hs, -⟩ := matching_some hm
      have e1 : Event w s (setBackoff s u p) := event_setBackoff ha u p
      have hr1 : tget (setBackoff s u p).radios u = some { r with hearing := r.hearing.map fun h =>
          if h.site = p then { h with backoff := some (s.partTime + tenths s.params.declineBackoff) } else h } := by
        rw [setBackoff, modRadio_radios, tget_tmod_self, hr]; rfl
      exact event_ite (fun _ => e1.trans (event_unwindHandover (e1.steady.radios ha) hr1 hs)) fun _ => .refl s
    · exact .refl s
  · exact .refl s

/-! ### Calls of sites (chapter 7) -/

theorem event_callEntered {w : Nat → Prop} (s : State) (c g : Nat) (y : Call) (hy : Ascending y.map) : Event w s (callEntered s c g y) := by
  refine event_calls ((steady_putCall s c y hy).trans (steady_setActive _ g _)) rfl rfl rfl (fun _ => rfl) (fun k => ?_) fun h p hp => ?_
  · simp only [callEntered, modGroup_groups, tget_tmod]
    split
    · cases tget s.groups k <;> rfl
    · rfl
  · rcases mem_tmod hp with hp | ⟨x, hx, rfl⟩
    · exact h p hp
    · exact h (g, x) (mem_of_tget hx)

theorem event_createCall {w : Nat → Prop} (s : State) (origin g u : Nat) : Event w s (createCall s origin g u).1 := by
  rw [createCall_fst]
  exact (event_callEntered s _ g _ ascending_nil).trans (event_foldl _ (fun s n => event_arbitrate s _ n) _ _)

theorem event_joinCall {w : Nat → Prop} (s : State) (c origin u : Nat) : Event w s (joinCall s c origin u) :=
  .trans (b := modCall s c fun x => { x with
      talker := u, origin := origin, state := .active, priority := if unitInEmergency s u then .emergency else x.priority })
    (event_calls (steady_modCall s c _ fun _ h => h) rfl rfl rfl (fun _ => rfl) (fun _ => rfl) id) (event_lateEntry _ c origin)

theorem event_dealCallRequest {w : Nat → Prop} (s : State) (origin g u : Nat) : Event w s (dealCallRequest s origin g u).1 := by
  unfold dealCallRequest
  split
  · exact event_joinCall s _ origin u
  · split
    · exact event_createCall s origin g u
    · split
      · split
        · exact (event_endCall s _).trans ((event_raise _ _).trans (event_createCall _ origin g u))
        · exact .refl s
      · exact .refl s

theorem event_takeCallRequest {w : Nat → Prop} {s : State} (hroom : hasRoom s 1 = true) (n g u : Nat) :
    Event w s (takeCallRequest s n g u) := by
  refine event_withAnswer hroom ?_
  split
  · exact .refl _
  · split
    · exact .refl _
    · split
      · exact .refl _
      · split
        · exact .refl _
        · exact event_dealCallRequest _ n g u

theorem event_takeCallEnd {w : Nat → Prop} (s : State) (n c : Nat) : Event w s (takeCallEnd s n c) := by
  unfold takeCallEnd
  refine event_ite (fun _ => ?_) fun _ => .refl s
  split
  · refine event_ite (fun _ => event_ite (fun _ => event_endCall s c) fun _ => ?_) fun _ => .refl s
    exact event_calls (steady_modCall s c _ fun _ h => h) rfl rfl rfl (fun _ => rfl) (fun _ => rfl) id
  · exact .refl s

/-! ### The commands -/

/-- A site frame that is taken is an event that enters at most the frame's own unit. -/
theorem exec_siteFrame_event {c : Instr} (h : takesSiteFrame c = true) {s t : State} (ha : Ascending s.radios) (ht : exec c s = .next t) :
    t = s ∨ ∃ m rest, s.siteIn = m :: rest ∧ Event (unitOf (messageUnit m)) { s with siteIn := rest } t := by
  cases c
  case reg =>
    simp only [exec, execReg] at ht
    split at ht
    · rename_i hm
      split at ht <;> cases ht
      · rename_i hroom
        exact .inr ⟨_, _, hm, Event.mono (event_takeReport (by exact ha) (by exact hroom)) fun _ h => h⟩
      · exact .inl rfl
    · cases ht; exact .inl rfl
  case heard =>
    simp only [exec, execHeard] at ht
    split at ht
    · rename_i hm
      split at ht <;> cases ht
      · rename_i hroom
        exact .inr ⟨_, _, hm, Event.mono (event_takeReport (by exact ha) (by exact hroom)) fun _ h => h⟩
      · exact .inl rfl
    · cases ht; exact .inl rfl
  case emerg =>
    simp only [exec, execEmerg] at ht
    split at ht
    · rename_i hm
      split at ht <;> cases ht
      · rename_i hroom
        exact .inr ⟨_, _, hm, Event.mono (event_takeReport (by exact ha) (by exact hroom)) fun _ h => h⟩
      · exact .inl rfl
    · cases ht; exact .inl rfl
  case dereg =>
    simp only [exec, execDereg] at ht
    split at ht
    · rename_i hm
      split at ht <;> cases ht
      · rename_i hroom
        exact .inr ⟨_, _, hm, event_takeDeregReport (by exact ha) (by exact hroom) _ _ _⟩
      · exact .inl rfl
    · cases ht; exact .inl rfl
  case ready =>
    simp only [exec, execReady] at ht
    split at ht
    · rename_i hm
      split at ht <;> cases ht
      · rename_i hroom
        exact .inr ⟨_, _, hm, event_takeReady (by exact ha) (by exact hroom) _ _ _⟩
      · exact .inl rfl
    · cases ht; exact .inl rfl
  case quiesced =>
    simp only [exec, execQuiesced] at ht
    split at ht
    · rename_i hm
      split at ht <;> cases ht
      · exact .inr ⟨_, _, hm, event_takeQuiesced (by exact ha) _ _ _⟩
      · exact .inl rfl
    · cases ht; exact .inl rfl
  case decline =>
    simp only [exec, execDecline] at ht
    split at ht
    · rename_i hm
      split at ht <;> cases ht
      · exact .inr ⟨_, _, hm, event_takeDecline (by exact ha) _ _ _⟩
      · exact .inl rfl
    · cases ht; exact .inl rfl
  case siteStatus =>
    simp only [exec, execSiteStatus] at ht
    split at ht
    · rename_i hm
      cases ht
      exact .inr ⟨_, _, hm, event_takeStatus (by exact ha) _ _⟩
    · cases ht; exact .inl rfl
  case callRequest =>
    simp only [exec, execCallRequest] at ht
    split at ht
    · rename_i hm
      split at ht <;> cases ht
      · rename_i hroom
        exact .inr ⟨_, _, hm, event_takeCallRequest (by exact hroom) _ _ _⟩
      · exact .inl rfl
    · cases ht; exact .inl rfl
  case callEnd =>
    simp only [exec, execCallEnd] at ht
    split at ht
    · rename_i hm
      cases ht
      exact .inr ⟨_, _, hm, event_takeCallEnd _ _ _⟩
    · cases ht; exact .inl rfl
  all_goals simp [takesSiteFrame] at h

/-- A deadline is an event that enters no unit. -/
theorem exec_expiry_event {w : Nat → Prop} {c : Instr} (h : isExpiry c = true) {s t : State} (ha : Ascending s.radios)
    (ht : exec c s = .next t) : Event w s t := by
  cases c
  case settleExpiry u =>
    simp only [exec, execSettleExpiry] at ht
    split at ht
    · rename_i b hb
      obtain ⟨r, hu, hb⟩ := Option.bind_eq_some_iff.1 hb
      split at ht <;> cases ht
      · exact event_closeWork ha hu (by rw [hb]; simp) _ _
      · exact .refl s
    · cases ht; exact .refl s
  case handoverDeadlineExpiry u =>
    simp only [exec, execHandoverDeadlineExpiry] at ht
    split at ht
    · rename_i hs
      obtain ⟨r, hu, hs⟩ := Option.map_eq_some_iff.1 hs
      split at ht <;> cases ht
      · exact event_unwindHandover ha hu hs
      · exact .refl s
    · cases ht; exact .refl s
  case leaseExpiry u =>
    simp only [exec, execLeaseExpiry] at ht
    split at ht
    · rename_i hs
      obtain ⟨r, hu, hs⟩ := Option.map_eq_some_iff.1 hs
      split at ht <;> cases ht
      · exact event_restate ha hu (by rw [hs]; rfl) fun _ => trivial
      · exact .refl s
    · rename_i hs
      obtain ⟨r, hu, hs⟩ := Option.map_eq_some_iff.1 hs
      split at ht <;> cases ht
      · exact event_abortByLease ha hu hs
      · exact .refl s
    · cases ht; exact .refl s
  case presumeHoldExpiry u =>
    simp only [exec, execPresumeHoldExpiry] at ht
    split at ht
    · rename_i hs
      obtain ⟨r, hu, hs⟩ := Option.map_eq_some_iff.1 hs
      split at ht <;> cases ht
      · exact event_toLost ha hu hs
      · exact .refl s
    · cases ht; exact .refl s
  case retireHoldExpiry u =>
    simp only [exec, execRetireHoldExpiry] at ht
    split at ht
    · rename_i hs
      obtain ⟨r, hu, hs⟩ := Option.map_eq_some_iff.1 hs
      split at ht <;> cases ht
      · exact event_freeRecord ha hu (by rw [hs]; rfl)
      · exact .refl s
    · cases ht; exact .refl s
  case heartbeatExpiry n =>
    simp only [exec, execHeartbeatExpiry] at ht
    split at ht
    · split at ht <;> cases ht
      · exact event_goDark ha n false
      · exact .refl s
    · split at ht <;> cases ht
      · exact event_goDark ha n false
      · exact .refl s
    · cases ht; exact .refl s
  case hangExpiry k =>
    simp only [exec, execHangExpiry] at ht
    split at ht
    · split at ht <;> cases ht
      · exact event_endCall s k
      · exact .refl s
    · cases ht; exact .refl s
  case queueHoldExpiry n k =>
    simp only [exec, execQueueHoldExpiry] at ht
    split at ht
    · split at ht <;> cases ht
      · exact ((callFrame_leaveQueue s n k).trans (callFrame_setStatus _ _ _ _)).event
          ((steady_leaveQueue s n k).trans (steady_setStatus _ _ _ _)) (.of_eq rfl rfl)
      · exact .refl s
    · cases ht; exact .refl s
  all_goals simp [isExpiry] at h

end Sys2Proof.Machine

/-! The requests of dispatch and the Bulk Engine: service requests as events, and what the engine's work keeps (chapters 8 and 9). -/

namespace Sys2Proof.Machine

/-! ### Parameters that name records -/

theorem tget_of_findRadio {s : State} {u : Nat} {r : Radio} (h : findRadio s u = some r) : tget s.radios u = some r := by
  unfold findRadio at h
  split at h
  · exact h
  · cases h

theorem tget_of_findSite {s : State} {n : Nat} {x : Site} (h : findSite s n = some x) : tget s.sites n = some x := by
  unfold findSite at h
  split at h
  · exact h
  · cases h

/-! ### Requests that change records and calls (section 8.3) -/

/-- The requests that start or end an operation of the Bulk Engine, or let one wait. -/
def bulkRequest : Request → Bool
  | .roster .. | .recallGroup .. | .cancelRecall .. | .evacuate .. | .resync .. | .purge .. | .bulkAbort .. => true
  | _ => false

theorem event_modBulk {w : Nat → Prop} (s : State) {f : BulkRun → BulkRun} (hf : ∀ b, (f b).op = b.op ∧ (f b).cursor = b.cursor) :
    Event w s (modBulk s f) := by
  refine .of_still (inner_modBulk s f).steady ⟨fun _ => rfl, ?_⟩ (.of_eq rfl rfl) rfl (.of_groups (fun _ => rfl) rfl)
  simp only [runOf, modBulk, Option.map_map]
  cases s.bulk with
  | none => rfl
  | some b => simp [hf b]

theorem event_doClearEmergency {w : Nat → Prop} {s : State} (ha : Ascending s.radios) (u : Nat) : Event w s (doClearEmergency u s).1 := by
  unfold doClearEmergency
  split
  · rename_i r hr
    have hu := tget_of_findRadio hr
    split
    · exact .refl s
    · simp only []
      split
      · rename_i hj
        exact event_freeAfter (f := fun r => { r with emergency := none }) ha hu (by rw [hj.1]; rfl) rfl
      · rename_i hj
        refine event_modFields ha (fun _ => ⟨rfl, rfl, rfl⟩) fun hok r' hr' => ?_
        rw [hu] at hr'
        cases hr'
        obtain ⟨-, -, hs⟩ := (recordOk_iff r).1 (hok.record hu)
        unfold stateOk at hs ⊢
        cases e : r.state <;> simp_all [Option.isSome_iff_ne_none]
  · exact .refl s

theorem event_doSetGroups {w : Nat → Prop} {s : State} (ha : Ascending s.radios) (u : Nat) (l : List Nat) :
    Event w s (doSetGroups u l s).1 := by
  unfold doSetGroups
  split
  · rename_i r hr
    have hu := tget_of_findRadio hr
    split
    · rename_i a hs
      obtain ⟨hnd, hlen⟩ := trimGroups_spec s l
      have e1 : Event w s (changeGroupList s u (trimGroups s l)) := event_changeGroupList ha hnd hlen fun _ r' hr' => by
        rw [hu] at hr'
        cases hr'
        intro h
        cases e : r.state <;> simp_all [servingSite, stateName]
      have e2 : Event w _ (modRadio (changeGroupList s u (trimGroups s l)) u fun r => { r with regroup := .ordered }) :=
        event_modFields (e1.steady.radios ha) (fun _ => ⟨rfl, rfl, rfl⟩) fun h r hr => ((recordOk_iff r).1 (h.record hr)).2.2
      have e3 := e1.trans (e2.trans (event_sendOrdinary _ a (.regroup a u (trimGroups s l))))
      simp only []
      split
      · exact e3.trans (event_sendOrdinary _ _ _)
      · exact e3
    · exact .refl s
  · exact .refl s

/-- A service request that is none of the Bulk Engine's is an event. -/
theorem event_meaning {w : Nat → Prop} {q : Request} (hs : serviceRequest q = true) (hb : bulkRequest q = false) (partly : Bool)
    {s : State} (ha : Ascending s.radios) : Event w s (meaning partly q s).1 := by
  cases q
  case forceRelease u =>
    simp only [meaning, doForceRelease]
    split
    · exact event_forceRelease ha
    · exact .refl s
  case clearEmergency u => exact event_doClearEmergency ha u
  case clearLost u =>
    simp only [meaning, doClearLost]
    split
    · rename_i r hr
      split
      · rename_i hl
        exact event_freeRecord ha (tget_of_findRadio hr) (by cases e : r.state <;> simp_all [stateName, servingSite])
      · exact .refl s
    · exact .refl s
  case setGroups u l => exact event_doSetGroups ha u l
  case clearRegroup u =>
    simp only [meaning, doClearRegroup]
    split
    · exact event_modFields ha (fun _ => ⟨rfl, rfl, rfl⟩) fun h r hr => ((recordOk_iff r).1 (h.record hr)).2.2
    · exact .refl s
  case forceEnd c =>
    simp only [meaning, doForceEnd]
    split
    · exact event_endCall s c
    · exact .refl s
  case bulkSuspend =>
    simp only [meaning, doBulkSuspend]
    split
    · split
      · exact .refl s
      · exact event_modBulk s fun _ => ⟨rfl, rfl⟩
    · exact .refl s
  case bulkResume =>
    simp only [meaning, doBulkResume]
    split
    · split
      · exact event_modBulk s fun _ => ⟨rfl, rfl⟩
      · exact .refl s
    · exact .refl s
  all_goals simp [serviceRequest, bulkRequest] at hs hb

/-! ### What the Bulk Engine's work keeps -/

/-- What the engine's work keeps: all that an event does but for the recall states and the operation in hand. -/
structure Work (mayEnter : Nat → Prop) (s t : State) : Prop extends Kept mayEnter s t where
  size : Ascending s.radios → s.radios.length ≤ 2048 → t.radios.length ≤ 2048

theorem Event.work {w : Nat → Prop} {s t : State} (h : Event w s t) : Work w s t := ⟨h.toKept, h.size⟩

theorem Work.refl {w : Nat → Prop} (s : State) : Work w s s := (Event.refl s).work

theorem Work.trans {w : Nat → Prop} {a b c : State} (h1 : Work w a b) (h2 : Work w b c) : Work w a c :=
  ⟨h1.toKept.trans h2.toKept, fun ha hl => h2.size (h1.steady.radios ha) (h1.size ha hl)⟩

theorem work_ite {w : Nat → Prop} {s a b : State} {p : Prop} [Decidable p] (ha : p → Work w s a) (hb : ¬p → Work w s b) :
    Work w s (if p then a else b) := by
  split
  · exact ha ‹_›
  · exact hb ‹_›

theorem Work.of_still {w : Nat → Prop} {s t : State} (hs : Steady s t) (hr : t.radios = s.radios) (ho : t.outbound = s.outbound)
    (hp : Posted s t 0 0) : Work w s t := ⟨.of_still hs (.of_eq hr ho) hr hp, fun _ h => by rw [hr]; exact h⟩

/-- The engine's own fields are no part of what its work keeps. -/
theorem work_engine {w : Nat → Prop} (s : State) (b : Option BulkRun) (q : Option BulkOp) (l : Option (BulkAccount × Nat)) :
    Work w s { s with bulk := b, bulkWaiting := q, bulkLast := l } :=
  have h : Inner s { s with bulk := b, bulkWaiting := q, bulkLast := l } := .of_bulk rfl rfl rfl rfl rfl rfl
  .of_still h.steady rfl rfl (.of_groups (fun _ => rfl) rfl)

theorem work_modBulk {w : Nat → Prop} (s : State) (f : BulkRun → BulkRun) : Work w s (modBulk s f) :=
  .of_still (inner_modBulk s f).steady rfl rfl (.of_groups (fun _ => rfl) rfl)

/-- A change of a group's recall state moves no count. -/
theorem posted_recallState (s : State) (g : Nat) (v : RecallState) : Posted s (modGroup s g fun x => { x with recallState := v }) 0 0 := by
  have project : ∀ {β : Type} (f : Group → β), (∀ x : Group, f { x with recallState := v } = f x) → ∀ k,
      (tget (modGroup s g fun x => { x with recallState := v }).groups k).map f = (tget s.groups k).map f := by
    intro β f hf k
    simp only [modGroup_groups, tget_tmod]
    split
    · cases tget s.groups k <;> simp [hf]
    · rfl
  refine .of_balance (fun h p hp => ?_) fun a => ?_
  · rcases mem_tmod hp with hp | ⟨x, hx, rfl⟩
    · exact h p hp
    · exact h (g, x) (mem_of_tget hx)
  · cases a with
    | registered n => rfl
    | members k n => exact project (fun x => (tget x.counts n).getD 0) (fun _ => rfl) k
    | total k => exact project Group.total (fun _ => rfl) k
    | unreached k => exact project Group.unreached (fun _ => rfl) k

theorem work_recallState {w : Nat → Prop} (s : State) (g : Nat) (v : RecallState) :
    Work w s (modGroup s g fun x => { x with recallState := v }) :=
  have h : Inner s (modGroup s g fun x => { x with recallState := v }) := inner_modGroup s g _ (fun _ => rfl) (fun _ => rfl) fun _ h => h
  .of_still h.steady rfl rfl (posted_recallState s g v)

theorem work_modSite {w : Nat → Prop} (s : State) (n : Nat) {f : Site → Site}
    (hf : ∀ x, siteValues (f x) = siteValues x ∧ (f x).queue = x.queue) (hc : ∀ x, (f x).count = x.count) : Work w s (modSite s n f) := by
  refine .of_still (inner_modSite s n f hf).steady rfl rfl (.of_groups (fun m => ?_) rfl)
  simp only [modSite_sites, tget_tmod]
  split
  · cases tget s.sites m <;> simp [hc]
  · rfl

theorem work_startBulk {w : Nat → Prop} (s : State) (op : BulkOp) : Work w s (startBulk s op) := by
  refine (work_engine s (some (freshRun op)) s.bulkWaiting s.bulkLast).trans ?_
  cases op with
  | recallGroup g => exact work_recallState _ g .active
  | cancelRecall g => exact work_recallState _ g .cancelling
  | evacuate n => exact work_modSite _ n (fun _ => ⟨rfl, rfl⟩) fun _ => rfl
  | roster | resync | purge => exact .refl _

theorem work_completionWork {w : Nat → Prop} (s : State) (b : BulkRun) : Work w s (completionWork s b) := by
  unfold completionWork
  split
  · split
    · exact work_ite (fun _ => (event_raise s _).work) fun _ => .refl s
    · exact .refl s
  · exact work_recallState s _ .off
  · exact work_ite (fun _ => .refl s) fun _ => work_modSite s _ (fun _ => ⟨rfl, rfl⟩) fun _ => rfl
  · exact .refl s
  · exact .refl s
  · exact .refl s

theorem work_startWaiting {w : Nat → Prop} (s : State) : Work w s (startWaiting s) := by
  unfold startWaiting
  split
  · exact (work_engine s s.bulk none s.bulkLast).trans (work_startBulk _ _)
  · exact .refl s

/-- The end of an operation before a waiting request starts (R171). -/
def bulkEnded (s : State) (b : BulkRun) (completed : Bool) : State :=
  let s2 := raise (if completed then completionWork s b else s) (.bulkDone (accountOf b completed) (rosterResult b completed))
  { s2 with bulkLast := some (accountOf b completed, s2.partTime), bulk := none }

theorem endBulk_eq (s : State) (b : BulkRun) (completed : Bool) : endBulk s b completed = startWaiting (bulkEnded s b completed) := rfl

theorem work_endBulk {w : Nat → Prop} (s : State) (b : BulkRun) (completed : Bool) : Work w s (endBulk s b completed) := by
  rw [endBulk_eq]
  have h1 : Work w s (if completed then completionWork s b else s) := work_ite (fun _ => work_completionWork s b) fun _ => .refl s
  refine h1.trans ?_
  unfold bulkEnded
  generalize (if completed then completionWork s b else s) = s1
  exact ((event_raise s1 _).work).trans ((work_engine (raise s1 _) none _ _).trans (work_startWaiting _))

/-! ### The flags that sweeps set and clear (R123, R125) -/

/-- The entry of a group whose flag a sweep turns. -/
theorem setFlag_flip {l : List Membership} {g : Nat} {v : Bool} (hnd : (groupNumbers l).Nodup) (h : hasFlag l g (!v) = true) :
    ∃ l₁ l₂, l = l₁ ++ { group := g, pending := !v } :: l₂ ∧ setFlag l g v = l₁ ++ { group := g, pending := v } :: l₂ := by
  simp only [hasFlag, List.any_eq_true, Bool.and_eq_true, beq_iff_eq] at h
  obtain ⟨m, hm, rfl, hp⟩ := h
  obtain ⟨l₁, l₂, rfl⟩ := List.append_of_mem hm
  have hother : ∀ m' ∈ l₁ ++ l₂, m'.group ≠ m.group := by
    intro m' hm' e
    simp only [groupNumbers, List.map_append, List.map_cons] at hnd
    refine (List.nodup_middle.1 hnd).notMem ?_
    rw [← List.map_append, ← e]
    exact List.mem_map_of_mem hm'
  have hkeep : ∀ k : List Membership, (∀ m' ∈ k, m' ∈ l₁ ++ l₂) → setFlag k m.group v = k := by
    intro k hk
    calc setFlag k m.group v = k.map id := List.map_congr_left fun m' hm' => if_neg (hother m' (hk m' hm'))
      _ = k := List.map_id k
  refine ⟨l₁, l₂, ?_, ?_⟩
  · rw [← hp]
  · have h1 := hkeep l₁ fun _ h => List.mem_append_left _ h
    have h2 := hkeep l₂ fun _ h => List.mem_append_right _ h
    unfold setFlag at h1 h2 ⊢
    rw [List.map_append, List.map_cons, h1, h2, if_pos rfl]

@[simp] theorem groupNumbers_setFlag (l : List Membership) (g : Nat) (v : Bool) : groupNumbers (setFlag l g v) = groupNumbers l := by
  simp only [groupNumbers, setFlag, List.map_map]
  refine List.map_congr_left fun m _ => ?_
  simp only [Function.comp_apply]
  split <;> rfl

theorem hasFlag_setFlag_ne (l : List Membership) {g k : Nat} (v p : Bool) (h : k ≠ g) : hasFlag (setFlag l g v) k p = hasFlag l k p := by
  simp only [hasFlag, setFlag, List.any_map]
  refine congrArg (fun f => l.any f) (funext fun m => ?_)
  simp only [Function.comp_apply]
  split
  · rename_i e
    have : (m.group == k) = false := by simp [e, h.symm]
    simp [this]
  · rfl

theorem hasFlag_setFlag_self (l : List Membership) (g : Nat) (v : Bool) : hasFlag (setFlag l g v) g (!v) = false := by
  simp only [hasFlag, setFlag, List.any_map, List.any_eq_false]
  intro m _
  simp only [Function.comp_apply]
  split
  · simp
  · rename_i e
    simp [e]

theorem listCharge_append (at_ : List Nat) (l k : List Membership) : listCharge at_ (l ++ k) = listCharge at_ l + listCharge at_ k := by
  simp [listCharge]

theorem listCharge_cons (at_ : List Nat) (m : Membership) (l : List Membership) :
    listCharge at_ (m :: l) = entryCharge at_ m + listCharge at_ l := by
  simp [listCharge]

theorem entryCharge_pending (at_ : List Nat) (g : Nat) :
    entryCharge at_ { group := g, pending := true } = entryCharge at_ { group := g, pending := false } + {.unreached g} := by
  simp [entryCharge]

/-- A flag set charges one unreached count more. -/
theorem listCharge_flagged (at_ : List Nat) {l : List Membership} {g : Nat} {v : Bool} (hnd : (groupNumbers l).Nodup)
    (h : hasFlag l g (!v) = true) : if v then listCharge at_ (setFlag l g v) = listCharge at_ l + {.unreached g}
      else listCharge at_ l = listCharge at_ (setFlag l g v) + {.unreached g} := by
  obtain ⟨l₁, l₂, e1, e2⟩ := setFlag_flip hnd h
  rw [e2, e1]
  cases v <;> simp only [Bool.false_eq_true, if_false, if_true, listCharge_append, listCharge_cons, Bool.not_true, Bool.not_false,
    entryCharge_pending] <;> abel

theorem recordOk_setFlag {r : Radio} (h : recordOk r) (g : Nat) (v : Bool) (hv : v = true → stateName r.state ≠ .retired) :
    recordOk { r with groups := setFlag r.groups g v } := by
  obtain ⟨h1, ⟨h2, h3⟩, h4⟩ := (recordOk_iff r).1 h
  refine (recordOk_iff _).2 ⟨h1, ⟨by simpa [setFlag] using h2, by rw [groupNumbers_setFlag]; exact h3⟩, ?_⟩
  unfold stateOk at h4 ⊢
  cases e : r.state with
  | retired n y z =>
    rw [e] at h4 hv
    obtain ⟨hb, he, hp⟩ := h4
    have hf : v = false := by
      cases v with
      | false => rfl
      | true => exact absurd rfl (hv rfl)
    refine ⟨hb, he, fun m hm => ?_⟩
    obtain ⟨m', hm', rfl⟩ := List.mem_map.1 hm
    split
    · exact hf
    · exact hp m' hm'
  | joining | moving => rw [e] at h4; exact h4
  | registered | presumed | lost => trivial

/-- A sweep's turn of one flag, with the unreached count that follows it. -/
theorem kept_setFlag {w : Nat → Prop} {s t : State} {u g : Nat} {v : Bool} {r : Radio} (ha : Ascending s.radios)
    (hu : tget s.radios u = some r) (hflag : hasFlag r.groups g (!v) = true) (hv : v = true → stateName r.state ≠ .retired)
    (hst : Steady s t) (ho : t.outbound = s.outbound)
    (hp : Posted s t (if v then 0 else {.unreached g}) (if v then {.unreached g} else 0))
    (hr : t.radios = tput s.radios u { r with groups := setFlag r.groups g v }) : Work w s t := by
  refine ⟨.of_move (o := some { r with groups := setFlag r.groups g v }) ha hst (.of_change hu hr (by rw [ho])) hp hr (fun a hcase => ?_)
    (fun _ h _ => by split <;> simp <;> omega) (fun h x e => by cases e; exact recordOk_setFlag (h.record hu) g v hv)
    (fun h _ => by rw [hu] at h; cases h), fun _ hl => by rw [hr, length_tput_of_some ha hu]; exact hl⟩
  simp only [hu, chargeAt, Option.map_some, Option.getD_some]
  rcases hcase with hreg | hok
  · cases a with
    | registered n =>
      refine ⟨((countedSites r.state).map fun n => ({.registered n} : Multiset Account)).sum.count (.registered n), ?_, ?_⟩ <;>
        simp only [charge, Multiset.count_add, count_registered_listCharge] <;> split <;> simp
    | members | total | unreached => cases hreg
  · obtain ⟨-, ⟨-, hnd⟩, -⟩ := (recordOk_iff r).1 (hok r hu)
    have hl := listCharge_flagged (countedSites r.state) hnd hflag
    cases v with
    | true =>
      simp only [if_true] at hl ⊢
      exact ⟨(charge r).count a, by simp, by simp only [charge, hl, Multiset.count_add]; omega⟩
    | false =>
      simp only [Bool.false_eq_true, if_false] at hl ⊢
      exact ⟨(charge { r with groups := setFlag r.groups g false }).count a,
        by simp only [charge, hl, Multiset.count_add]; omega, by simp⟩

/-! ### Visits -/

theorem work_visitRecall {w : Nat → Prop} {s : State} {u : Nat} {r : Radio} (ha : Ascending s.radios) (hu : tget s.radios u = some r)
    (g : Nat) : Work w s (visitRecall s g u r) := by
  unfold visitRecall
  split
  · rename_i h
    rw [Bool.and_eq_true] at h
    refine .trans ?_ (work_modBulk _ _)
    refine kept_setFlag (v := true) ha hu h.2 (fun _ => by cases e : r.state <;> simp_all [recallVisits, stateName])
      ((inner_modRadio s u _).trans (inner_raiseUnreached _ g)).steady rfl ?_ (tmod_of_some _ _ hu)
    simpa using (posted_modRadio s u _).trans (posted_raiseUnreached _ g)
  · exact .refl s

theorem work_visitCancel {w : Nat → Prop} {s : State} {u : Nat} {r : Radio} (ha : Ascending s.radios) (hu : tget s.radios u = some r)
    (g : Nat) : Work w s (visitCancel s g u r) := by
  unfold visitCancel
  split
  · rename_i h
    have hf := groupFrame_lowerUnreached (modRadio s u fun r => { r with groups := setFlag r.groups g false }) g
    refine .trans ?_ (work_modBulk _ _)
    refine kept_setFlag (v := false) ha hu h (fun h => nomatch h) ((inner_modRadio s u _).trans (inner_lowerUnreached _ g)).steady
      hf.outbound ?_ (by rw [hf.radios]; exact tmod_of_some _ _ hu)
    simpa using (posted_modRadio s u _).trans (posted_lowerUnreached _ g)
  · exact .refl s

theorem evacuationChoice_target {s : State} {a p : Nat} {l : List Hearing} (h : evacuationChoice s a l = some p) :
    p ∈ l.map Hearing.site ∧ a ≠ p ∧ ∀ x, tget s.sites p = some x → x.count < x.capacity := by
  obtain ⟨b, hb, rfl⟩ := Option.map_eq_some_iff.1 h
  obtain ⟨e, he, y, hs, hy, ⟨hne, -, -, -, -, hcap⟩, -⟩ := mem_eligibleTargets.1 (bestOf_mem hb)
  refine ⟨hs ▸ List.mem_map_of_mem he, fun e => hne (hs.trans e.symm), fun z hz => ?_⟩
  rw [hy] at hz
  cases hz
  exact hcap

/-- The counters of an operation are no part of its course. -/
theorem event_count {w : Nat → Prop} (s : State) : Event w s (modBulk s count1) ∧ Event w s (modBulk s count2) ∧
    Event w s (modBulk s count3) ∧ Event w s (modBulk s count4) :=
  ⟨event_modBulk s fun _ => ⟨rfl, rfl⟩, event_modBulk s fun _ => ⟨rfl, rfl⟩, event_modBulk s fun _ => ⟨rfl, rfl⟩,
    event_modBulk s fun _ => ⟨rfl, rfl⟩⟩

theorem event_visitEvacuate {w : Nat → Prop} {s : State} {u : Nat} {r : Radio} (ha : Ascending s.radios) (hu : tget s.radios u = some r)
    (n : Nat) : Event w s (visitEvacuate s n u r) := by
  obtain ⟨-, h2, h3, h4⟩ := event_count (w := w) s
  unfold visitEvacuate
  split
  · rename_i a lease hs
    refine event_ite (fun _ => ?_) fun _ => .refl s
    split
    · rename_i p hp
      obtain ⟨hin, hne, hcap⟩ := evacuationChoice_target hp
      exact event_ite (fun hroom => (event_startHandover ha hu hs hroom hin hne hcap).trans (event_count _).1) fun _ => h2
    · exact h3
  · exact event_ite (fun _ => h4) fun _ => .refl s
  · exact .refl s

/-- A RESYNC's visit comes only while an ordinary directive has room (R176). -/
theorem event_visitResync {w : Nat → Prop} {s : State} (u n : Nat) (r : Radio) (hroom : hasRoom s 1 = true) :
    Event w s (visitResync s n u r) := by
  have adopt : Event w s (resyncAdopt s n u r) :=
    event_ite (fun _ => (event_pushOut hroom _).trans (event_count _).1) fun _ => event_modBulk s fun _ => ⟨rfl, rfl⟩
  unfold visitResync
  split
  · exact event_ite (fun _ => adopt) fun _ => .refl s
  · exact event_ite (fun _ => adopt) fun _ => .refl s
  · exact event_ite (fun _ => (event_count s).2.2.1) fun _ => .refl s
  · exact .refl s

theorem event_visitPurge {w : Nat → Prop} {s : State} {u : Nat} {r : Radio} (ha : Ascending s.radios) (hu : tget s.radios u = some r) :
    Event w s (visitPurge s u r) := by
  unfold visitPurge
  split
  · rename_i hs
    exact (event_freeRecord ha hu (by rw [hs]; rfl)).trans (event_count _).1
  · exact .refl s

theorem work_visit {w : Nat → Prop} {s : State} {op : BulkOp} {u : Nat} {r : Radio} (ha : Ascending s.radios)
    (hu : tget s.radios u = some r) (hroom : isResync op = true → hasRoom s 1 = true) : Work w s (visit s op u r) := by
  cases op with
  | roster f start limit =>
    simp only [visit, visitRoster]
    refine work_ite (fun _ => work_ite (fun _ => work_modBulk s _) fun _ => ?_) fun _ => .refl s
    split
    · exact work_ite (fun _ => work_modBulk s _) fun _ =>
        (work_engine s _ s.bulkWaiting s.bulkLast).trans (work_endBulk _ _ _)
    · exact .refl s
  | recallGroup g => exact work_visitRecall ha hu g
  | cancelRecall g => exact work_visitCancel ha hu g
  | evacuate n => exact (event_visitEvacuate ha hu n).work
  | resync n => exact (event_visitResync u n r (hroom rfl)).work
  | purge => exact (event_visitPurge ha hu).work

theorem work_stepBulk {w : Nat → Prop} {s : State} (ha : Ascending s.radios) : Work w s (stepBulk s) := by
  unfold stepBulk
  split
  · rename_i b hb
    refine work_ite (fun _ => .refl s) fun _ => work_ite (fun _ => work_modBulk s _) fun hheld => ?_
    unfold advance
    simp only []
    split
    · rename_i u _
      have e1 : ∀ b1, Work w s { s with bulk := b1 } := fun b1 => work_engine s b1 s.bulkWaiting s.bulkLast
      split
      · rename_i r hu
        refine (e1 _).trans (work_visit (s := { s with bulk := some _ }) ha hu fun hres => ?_)
        rw [hres, Bool.true_and, Bool.not_eq_true', Bool.not_eq_false] at hheld
        exact hasRoom_of_ordinary hheld
      · exact e1 _
    · exact (work_engine s _ s.bulkWaiting s.bulkLast).trans (work_endBulk _ _ _)
  · exact .refl s

theorem work_admitBulk {w : Nat → Prop} (s : State) (op : BulkOp) (wait clamped : Bool) : Work w s (admitBulk s op wait clamped).1 := by
  unfold admitBulk
  split
  · exact work_startBulk s op
  · split
    · exact work_engine s s.bulk (some op) s.bulkLast
    · exact .refl s

theorem work_bulkRequest {w : Nat → Prop} {q : Request} (hb : bulkRequest q = true) (partly : Bool) (s : State) :
    Work w s (meaning partly q s).1 := by
  cases q
  case roster wait form value start limit =>
    simp only [meaning, doRoster]
    split
    · exact work_admitBulk s _ _ _
    · exact .refl s
  case recallGroup wait g =>
    simp only [meaning, doRecall]
    split
    · exact work_admitBulk s _ _ _
    · exact .refl s
  case cancelRecall wait g =>
    simp only [meaning, doCancelRecall]
    split
    · exact work_admitBulk s _ _ _
    · exact .refl s
  case evacuate wait n =>
    simp only [meaning, doEvacuate]
    split
    · exact work_admitBulk s _ _ _
    · exact .refl s
  case resync wait n =>
    simp only [meaning, doResync]
    split
    · exact work_admitBulk s _ _ _
    · exact .refl s
  case purge wait => exact work_admitBulk s _ _ _
  case bulkAbort scope kind =>
    simp only [meaning, doBulkAbort]
    split
    · unfold abortCurrent
      split
      · split
        · exact work_endBulk s _ false
        · exact .refl s
      · exact .refl s
    · unfold abortWaiting
      split
      · split
        · exact work_engine s s.bulk none s.bulkLast
        · exact .refl s
      · exact .refl s
    · exact .refl s
  all_goals simp [bulkRequest] at hb

/-! ### All commands but those of configuration and of the ports -/

theorem exec_inside_work {w : Nat → Prop} {c : Instr} (h : isExpiry c = true ∨ c = .bulkStep) {s t : State} (ha : Ascending s.radios)
    (ht : exec c s = .next t) : Work w s t := by
  rcases h with h | rfl
  · exact (exec_expiry_event h ha ht).work
  · cases ht
    exact work_stepBulk ha

theorem work_service {w : Nat → Prop} {q : Request} (hs : serviceRequest q = true) (partly : Bool) {s : State} (ha : Ascending s.radios) :
    Work w s (meaning partly q s).1 := by
  cases hb : bulkRequest q with
  | true => exact work_bulkRequest hb partly s
  | false => exact (event_meaning hs hb partly ha).work

end Sys2Proof.Machine

/-! The invariants of the records and the books over every command: what configuration leaves of sites and groups, and the step lemmas of
the Directory (R1), the outbound queue (R184), the registration counts (R97), the record shapes (R2, R39, R118) and the member counts
(R114). -/

namespace Sys2Proof.Machine

/-! ### What configuration leaves of sites -/

/-- Each site's registration count and capacity after a request of configuration: as they were, or 0 where no record is, and in range. -/
structure SitesKept (s t : State) : Prop where
  ascend : Ascending s.sites → Ascending t.sites
  count : ∀ {n y}, tget t.sites n = some y → (t.radios = [] ∧ y.count = 0) ∨ (tget s.sites n).map Site.count = some y.count
  capacity : ∀ {n y}, tget t.sites n = some y → y.capacity ≤ 255 ∨ (tget s.sites n).map Site.capacity = some y.capacity

theorem SitesKept.of_sites {s t : State} (h : t.sites = s.sites) : SitesKept s t :=
  ⟨by rw [h]; exact id, by rw [h]; exact fun h => .inr (by rw [h]; rfl), by rw [h]; exact fun h => .inr (by rw [h]; rfl)⟩

/-- A change of one site that keeps its count, and its capacity or the range of that. -/
theorem SitesKept.modSite (s : State) (n : Nat) {f : Site → Site} (hc : ∀ x, (f x).count = x.count)
    (hk : ∀ x, (f x).capacity ≤ 255 ∨ (f x).capacity = x.capacity) : SitesKept s (modSite s n f) := by
  refine ⟨ascending_tmod _ _ _, fun {m y} hy => .inr ?_, fun {m y} hy => ?_⟩ <;> simp only [modSite_sites, tget_tmod] at hy <;> split at hy
  · obtain ⟨x, hx, rfl⟩ := Option.map_eq_some_iff.1 hy
    rw [hx, hc]; rfl
  · rw [hy]; rfl
  · obtain ⟨x, hx, rfl⟩ := Option.map_eq_some_iff.1 hy
    exact (hk x).imp_right fun e => by rw [hx, e]; rfl
  · exact .inr (by rw [hy]; rfl)

theorem SitesKept.after {a b c : State} (h1 : SitesKept a b) (hasc : Ascending b.sites → Ascending c.sites)
    (hr : c.radios = b.radios) (h : ∀ m, (tget c.sites m).map (fun x => (x.count, x.capacity)) =
      (tget b.sites m).map fun x => (x.count, x.capacity)) : SitesKept a c := by
  have from_ : ∀ {m y}, tget c.sites m = some y → ∃ x, tget b.sites m = some x ∧ x.count = y.count ∧ x.capacity = y.capacity := by
    intro m y hy
    have := h m
    rw [hy, Option.map_some, eq_comm, Option.map_eq_some_iff] at this
    obtain ⟨x, hx, e⟩ := this
    simp only [Prod.mk.injEq] at e
    exact ⟨x, hx, e.1, e.2⟩
  refine ⟨hasc ∘ h1.ascend, fun hy => ?_, fun hy => ?_⟩ <;> obtain ⟨x, hx, e1, e2⟩ := from_ hy
  · rw [hr, ← e1]; exact h1.count hx
  · rw [← e2]; exact h1.capacity hx

theorem clearOver_values (x : Site) : ((clearOver x).count, (clearOver x).capacity) = (x.count, x.capacity) := by
  unfold clearOver
  split <;> rfl

theorem settleOver_values (s : State) (n m : Nat) : (tget (settleOver s n).sites m).map (fun x => (x.count, x.capacity)) =
    (tget s.sites m).map fun x => (x.count, x.capacity) := by
  have mod : ∀ f : Site → Site, (∀ x, ((f x).count, (f x).capacity) = (x.count, x.capacity)) →
      (tget (tmod s.sites n f) m).map (fun x => (x.count, x.capacity)) = (tget s.sites m).map fun x => (x.count, x.capacity) := by
    intro f hf
    rw [tget_tmod]
    split
    · cases tget s.sites m
      · rfl
      · exact congrArg some (hf _)
    · rfl
  rcases settleOver_cases s n with h | h | h <;> rw [h]
  · rcases setOver_cases s n with h | ⟨b, h⟩ <;> rw [h]
    rw [raise_sites]
    exact mod _ fun _ => rfl
  · exact mod _ clearOver_values

theorem settleOver_radios (s : State) (n : Nat) : (settleOver s n).radios = s.radios := by
  rcases settleOver_cases s n with h | h | h <;> rw [h]
  · exact (sendFrame_setOver s n).radios
  · rfl

theorem clampCapacity_le (c : Nat) : clampCapacity c ≤ 255 := Nat.min_le_left ..

theorem meaning_sitesKept {q : Request} {partly : Bool} {s : State} (hs : serviceRequest q = false) (hq : ConfigQuiet s)
    (ha : allowed (phasesOf q) s.phase = true) (hasc : Ascending s.sites) : SitesKept s (meaning partly q s).1 := by
  have config : phasesOf q = .configOnly → s.radios = [] := fun hc => by
    have hp : s.phase = .config := by cases e : s.phase <;> simp [hc, allowed, e] at ha ⊢
    exact (hq hp).1
  cases q
  case defineSite n c v b hy i o =>
    simp only [meaning, doDefineSite]
    split
    · refine ⟨ascending_tput _ _ _, fun {m y} hy => ?_, fun {m y} hy => ?_⟩ <;> rw [tget_tput] at hy <;> split at hy
      · rename_i e
        subst e
        cases hn : tget s.sites m with
        | none => rw [hn] at hy; cases hy; exact .inl ⟨config rfl, rfl⟩
        | some x => rw [hn] at hy; cases hy; exact .inr rfl
      · exact .inr (by rw [hy]; rfl)
      · cases hn : tget s.sites n <;> rw [hn] at hy <;> cases hy <;> exact .inl (clampCapacity_le _)
      · exact .inr (by rw [hy]; rfl)
    · exact .of_sites rfl
  case setSite n c v b hy i o =>
    simp only [meaning, doSetSite]
    split
    · split
      · exact .of_sites rfl
      · simp only []
        refine .after ?_ (inner_settleOver _ n).steady.sites (settleOver_radios _ n) (settleOver_values _ n)
        refine .modSite s n (fun _ => rfl) fun x => ?_
        cases c with
        | none => exact .inr rfl
        | some k => exact .inl (clampCapacity_le k)
    · exact .of_sites rfl
  case setNeighbours n l =>
    simp only [meaning, doSetNeighbours]
    split
    · exact .modSite s n (fun _ => rfl) fun _ => .inr rfl
    · exact .of_sites rfl
  case undefineSite n =>
    simp only [meaning, doUndefineSite]
    split
    · refine ⟨fun h => ascending_map (tdel s.sites n) (fun x => { x with neighbours := x.neighbours.filter (· != n) }) (ascending_tdel _ _ h),
        fun {m y} hy => ?_, fun {m y} hy => ?_⟩ <;>
        simp only [tget_map (tdel s.sites n) (fun x => { x with neighbours := x.neighbours.filter (· != n) }) m,
          Option.map_eq_some_iff] at hy <;> obtain ⟨x, hx, rfl⟩ := hy <;>
        have hx' := tget_of_mem hasc (mem_tdel (mem_of_tget hx))
      · exact .inr (by rw [hx']; rfl)
      · exact .inr (by rw [hx']; rfl)
    · exact .of_sites rfl
  case restart =>
    refine ⟨ascending_map s.sites restartSite, fun {m y} hy => .inl ⟨rfl, ?_⟩, fun {m y} hy => .inr ?_⟩ <;>
      simp only [meaning, doRestart, tget_map s.sites restartSite m, Option.map_eq_some_iff] at hy <;> obtain ⟨x, hx, rfl⟩ := hy
    · rfl
    · rw [hx]; rfl
  case defineGroup g p l => simp only [meaning, doDefineGroup]; split <;> exact .of_sites rfl
  case setGroup g p l => simp only [meaning, doSetGroup]; split <;> exact .of_sites rfl
  case undefineGroup g => simp only [meaning, doUndefineGroup]; split <;> exact .of_sites rfl
  case setParameter n v => simp only [meaning, doSetParameter]; split <;> exact .of_sites rfl
  case openService => simp only [meaning, doOpen]; split <;> exact .of_sites rfl
  case locate u => simp only [meaning, doLocate]; split <;> exact .of_sites rfl
  case siteQuery n => simp only [meaning, doSiteQuery]; split <;> exact .of_sites rfl
  case groupQuery g => simp only [meaning, doGroupQuery]; split <;> exact .of_sites rfl
  case callQuery c => simp only [meaning, doCallQuery]; split <;> exact .of_sites rfl
  case bulkStatus => exact .of_sites rfl
  case nextNotice => simp only [meaning, doNextNotice]; split <;> exact .of_sites rfl
  case portStatus => exact .of_sites rfl
  all_goals simp [serviceRequest] at hs

/-! ### What configuration leaves of groups -/

/-- What a group record holds of its members and its recall. -/
def groupBooks (x : Group) : Table Nat × Nat × Nat × RecallState := (x.counts, x.total, x.unreached, x.recallState)

/-- Each group's books after a request of configuration: as they were, or clear where no record is. -/
structure GroupsKept (s t : State) : Prop where
  ascend : Ascending s.groups → Ascending t.groups
  books : ∀ {g y}, tget t.groups g = some y → (t.radios = [] ∧ t.bulk = none ∧ groupBooks y = ([], 0, 0, .off)) ∨
    (tget s.groups g).map groupBooks = some (groupBooks y)

theorem GroupsKept.of_groups {s t : State} (h : t.groups = s.groups) : GroupsKept s t :=
  ⟨by rw [h]; exact id, by rw [h]; exact fun h => .inr (by rw [h]; rfl)⟩

theorem meaning_groupsKept {q : Request} {partly : Bool} {s : State} (hs : serviceRequest q = false) (hq : ConfigQuiet s)
    (ha : allowed (phasesOf q) s.phase = true) (hasc : Ascending s.groups) : GroupsKept s (meaning partly q s).1 := by
  have config : phasesOf q = .configOnly → s.radios = [] ∧ s.bulk = none := fun hc => by
    have hp : s.phase = .config := by cases e : s.phase <;> simp [hc, allowed, e] at ha ⊢
    obtain ⟨h1, -, h2, -⟩ := hq hp
    exact ⟨h1, h2⟩
  cases q
  case defineGroup g p l =>
    simp only [meaning, doDefineGroup]
    split
    · refine ⟨ascending_tput _ _ _, fun {m y} hy => ?_⟩
      rw [tget_tput] at hy
      split at hy
      · rename_i e
        subst e
        cases hn : tget s.groups m with
        | none =>
          rw [hn] at hy
          cases hy
          obtain ⟨h1, h2⟩ := config rfl
          exact .inl ⟨h1, h2, rfl⟩
        | some x => rw [hn] at hy; cases hy; exact .inr rfl
      · exact .inr (by rw [hy]; rfl)
    · exact .of_groups rfl
  case setGroup g p l =>
    simp only [meaning, doSetGroup]
    split
    · refine ⟨ascending_tmod _ _ _, fun {m y} hy => .inr ?_⟩
      simp only [modGroup_groups, tget_tmod] at hy
      split at hy
      · obtain ⟨x, hx, rfl⟩ := Option.map_eq_some_iff.1 hy
        rw [hx]; rfl
      · rw [hy]; rfl
    · exact .of_groups rfl
  case undefineGroup g =>
    simp only [meaning, doUndefineGroup]
    split
    · exact ⟨ascending_tdel _ _, fun {m y} hy => .inr (by rw [tget_of_mem hasc (mem_tdel (mem_of_tget hy))]; rfl)⟩
    · exact .of_groups rfl
  case undefineSite n =>
    simp only [meaning, doUndefineSite]
    split
    · refine ⟨ascending_map s.groups (fun x => { x with fixed := x.fixed.filter (· != n) }), fun {m y} hy => .inr ?_⟩
      simp only [tget_map s.groups (fun x => { x with fixed := x.fixed.filter (· != n) }) m, Option.map_eq_some_iff] at hy
      obtain ⟨x, hx, rfl⟩ := hy
      rw [hx]; rfl
    · exact .of_groups rfl
  case restart =>
    refine ⟨ascending_map s.groups restartGroup, fun {m y} hy => .inl ⟨rfl, rfl, ?_⟩⟩
    simp only [meaning, doRestart, tget_map s.groups restartGroup m, Option.map_eq_some_iff] at hy
    obtain ⟨x, -, rfl⟩ := hy
    rfl
  case defineSite n c v b hy i o => simp only [meaning, doDefineSite]; split <;> exact .of_groups rfl
  case setSite n c v b hy i o =>
    simp only [meaning, doSetSite]
    split
    · split
      · exact .of_groups rfl
      · simp only []
        refine .of_groups ?_
        rcases settleOver_cases (modSite s n _) n with h | h | h <;> rw [h]
        · exact (sendFrame_setOver _ n).groups
        · rfl
        · rfl
    · exact .of_groups rfl
  case setNeighbours n l => simp only [meaning, doSetNeighbours]; split <;> exact .of_groups rfl
  case setParameter n v => simp only [meaning, doSetParameter]; split <;> exact .of_groups rfl
  case openService => simp only [meaning, doOpen]; split <;> exact .of_groups rfl
  case locate u => simp only [meaning, doLocate]; split <;> exact .of_groups rfl
  case siteQuery n => simp only [meaning, doSiteQuery]; split <;> exact .of_groups rfl
  case groupQuery g => simp only [meaning, doGroupQuery]; split <;> exact .of_groups rfl
  case callQuery c => simp only [meaning, doCallQuery]; split <;> exact .of_groups rfl
  case bulkStatus => exact .of_groups rfl
  case nextNotice => simp only [meaning, doNextNotice]; split <;> exact .of_groups rfl
  case portStatus => exact .of_groups rfl
  all_goals simp [serviceRequest] at hs

/-- A request of configuration leaves the records and the outbound queue, or RESTART empties them. -/
theorem meaning_config_records {q : Request} (hs : serviceRequest q = false) (partly : Bool) (s : State) :
    ((meaning partly q s).1.radios = s.radios ∧ (meaning partly q s).1.outbound = s.outbound ∧ (meaning partly q s).1.bulk = s.bulk) ∨
      ((meaning partly q s).1.radios = [] ∧ (meaning partly q s).1.outbound = [] ∧ (meaning partly q s).1.bulk = none) := by
  by_cases hr : q = .restart
  · subst hr; exact .inr ⟨rfl, rfl, rfl⟩
  · have h := meaning_recordsStay hs hr partly s
    exact .inl ⟨h.radios, h.outbound, h.bulk⟩

/-! ### Every command -/

/-- A property that events, the Bulk Engine's work, the ports and configuration keep is kept by every command. -/
theorem exec_keeps_of_events {P : State → Prop} {c : Instr} {s t : State} (hasc : Ascending s.radios)
    (hreset : ∀ z, z.radios = [] → z.sites = [] → z.groups = [] → z.outbound = [] → z.bulk = none → P z)
    (hstay : ∀ a b, b.radios = a.radios → b.sites = a.sites → b.groups = a.groups → b.outbound.length ≤ a.outbound.length →
      b.bulk = a.bulk → P a → P b)
    (hevent : ∀ a b, Event (· ≠ 0) a b → P a → P b)
    (hbulkStep : P s → P (stepBulk s))
    (hbulk : ∀ q partly a, bulkRequest q = true → a.radios = s.radios → P a → P (meaning partly q a).1)
    (hconfig : ∀ q partly rest, serviceRequest q = false → allowed (phasesOf q) s.phase = true →
      P (meaning partly q { s with requests := rest }).1) (h : P s) (ht : exec c s = .next t) : P t := by
  rcases command_cases c with hc | hc | hc | rfl | hc
  · obtain ⟨t', ht', ⟨-, rfl⟩ | ⟨rx, more, out, residue, sent, drx, reqs, ans, dsent, lost, rfl, hout, -⟩⟩ :=
      exec_ofPorts hc s <;> rw [ht] at ht' <;> cases ht'
    · exact hreset _ rfl rfl rfl rfl rfl
    · exact hstay s _ rfl rfl rfl hout rfl h
  · rcases exec_siteFrame_event hc hasc ht with rfl | ⟨m, rest, -, he⟩
    · exact h
    · refine hevent _ _ (he.mono fun u hu => ?_) (hstay s _ rfl rfl rfl (Nat.le_refl _) rfl h)
      rw [hu.1]
      exact hu.2
  · rcases hc with hc | rfl
    · exact hevent s t (exec_expiry_event hc hasc ht) h
    · cases ht
      exact hbulkStep h
  · obtain ⟨t', ht', rfl | ⟨e, rest, -, -, rfl⟩⟩ := exec_rejected s <;> rw [ht] at ht' <;> cases ht'
    · exact h
    · exact hstay s _ rfl rfl rfl (Nat.le_refl _) rfl h
  · obtain ⟨t', ht', rfl | ⟨partly, q, -, e, rest, -, -, -, ⟨-, rfl⟩ | ⟨hall, rfl⟩⟩⟩ := exec_request hc s <;>
      rw [ht] at ht' <;> cases ht'
    · exact h
    · exact hstay s _ rfl rfl rfl (Nat.le_refl _) rfl h
    · refine hstay (meaning partly q { s with requests := rest }).1 _ rfl rfl rfl (Nat.le_refl _) rfl ?_
      have h1 : P { s with requests := rest } := hstay s _ rfl rfl rfl (Nat.le_refl _) rfl h
      cases hs : serviceRequest q with
      | false => exact hconfig q partly rest hs hall
      | true =>
        cases hb : bulkRequest q with
        | true => exact hbulk q partly _ hb rfl h1
        | false => exact hevent { s with requests := rest } _ (event_meaning hs hb partly hasc) h1

/-- A property that the work of the blocks, the ports and configuration keep is kept by every command. -/
theorem exec_keeps {P : State → Prop} {c : Instr} {s t : State} (hasc : Ascending s.radios)
    (hreset : ∀ z, z.radios = [] → z.sites = [] → z.groups = [] → z.outbound = [] → P z)
    (hstay : ∀ a b, b.radios = a.radios → b.sites = a.sites → b.groups = a.groups → b.outbound.length ≤ a.outbound.length → P a → P b)
    (hwork : ∀ a b, Work (fun _ => True) a b → P a → P b)
    (hconfig : ∀ q partly rest, serviceRequest q = false → allowed (phasesOf q) s.phase = true →
      P (meaning partly q { s with requests := rest }).1) (h : P s) (ht : exec c s = .next t) : P t :=
  exec_keeps_of_events hasc (fun z hr hs hg ho _ => hreset z hr hs hg ho) (fun a b hr hs hg ho _ => hstay a b hr hs hg ho)
    (fun a b he => hwork a b (he.mono fun _ _ => trivial).work) (hwork _ _ (work_stepBulk hasc))
    (fun _ partly a hb _ => hwork a _ (work_bulkRequest hb partly a)) hconfig h ht

/-! ### The outbound queue (R184) and the record shapes (R2, R39, R118) -/

theorem OutboundOk.of_fewer {s t : State} (hr : t.radios = s.radios) (ho : t.outbound.length ≤ s.outbound.length) (h : OutboundOk s) :
    OutboundOk t := by
  obtain ⟨ha, hle⟩ := h
  refine ⟨by rw [hr]; exact ha, ?_⟩
  rw [movingCount_of_radios hr]
  omega

theorem outboundOk_of_none {t : State} (hr : t.radios = []) (ho : t.outbound = []) : OutboundOk t :=
  ⟨by simp [hr], by simp [movingCount, hr, ho]⟩

/-- Settles O8: every directive finds its room, a handover that starts reserves two places, and one that ends gives them up. -/
theorem stepKeepsOutboundLimit : Obligations.StepKeepsOutboundLimit := fun _ _ h ht => by
  refine step_keeps (P := OutboundOk) (fun _ _ _ h => h) (fun _ _ _ h => h) (fun c s t h ht => ?_) h ht
  refine exec_keeps h.1 (fun z hr _ _ ho => outboundOk_of_none hr ho) (fun a b hr _ _ ho h => h.of_fewer hr ho)
    (fun a b hw h => hw.outbound h) (fun q partly rest hs _ => ?_) h ht
  rcases meaning_config_records hs partly { s with requests := rest } with ⟨hr, ho, -⟩ | ⟨hr, ho, -⟩
  · exact OutboundOk.of_fewer (s := s) hr (by rw [ho]) h
  · exact outboundOk_of_none hr ho

theorem RecordsOk.of_radios {s t : State} (hr : t.radios = s.radios) (h : RecordsOk s) : RecordsOk t := by
  unfold RecordsOk
  rw [hr]
  exact h

theorem recordsOk_of_none {t : State} (hr : t.radios = []) : RecordsOk t := ⟨by simp [hr], by simp [hr]⟩

theorem exec_keeps_records {c : Instr} {s t : State} (h : RecordsOk s) (ht : exec c s = .next t) : RecordsOk t := by
  refine exec_keeps h.1 (fun z hr _ _ _ => recordsOk_of_none hr) (fun a b hr _ _ _ h => h.of_radios hr)
    (fun a b hw h => hw.shapes h) (fun q partly rest hs _ => ?_) h ht
  rcases meaning_config_records hs partly { s with requests := rest } with ⟨hr, -⟩ | ⟨hr, -⟩
  · exact RecordsOk.of_radios (s := s) hr h
  · exact recordsOk_of_none hr

/-- Settles O10: each transition of a record gives it the shape of its state. -/
theorem stepKeepsRecordShapes : Obligations.StepKeepsRecordShapes := fun _ _ h ht =>
  step_keeps (P := RecordsOk) (fun _ _ _ h => h) (fun _ _ _ h => h) (fun _ _ _ => exec_keeps_records) h ht

/-! ### The Directory (R1) -/

theorem num24_le (a b c : Byte) : num24 a b c ≤ 16777215 := by
  have := a.isLt
  have := b.isLt
  have := c.isLt
  unfold num24
  omega

/-- The unit number of a frame has three bytes. -/
theorem messageUnit_le {kind : Byte} {body : List Byte} {m : SiteMsg} (h : siteMessage kind body = some m) :
    messageUnit m ≤ 16777215 := by
  unfold siteMessage at h
  split at h <;> (try split at h) <;> cases h <;> simp only [messageUnit, num24_le, Nat.zero_le]

/-- The Directory but for the frames that wait: ascending, of a size in range, and with units that satisfy p. -/
def directoryKept (p : Nat → Prop) (s : State) : Prop := Ascending s.radios ∧ s.radios.length ≤ 2048 ∧ ∀ u ∈ tkeys s.radios, p u

theorem directoryKept_of_work {p : Nat → Prop} {s t : State} (hw : Work p s t) (h : directoryKept p s) : directoryKept p t := by
  obtain ⟨ha, hl, hu⟩ := h
  refine ⟨hw.steady.radios ha, hw.size ha hl, fun u hm => ?_⟩
  obtain ⟨r, hr⟩ := (mem_tkeys_iff (hw.steady.radios ha) u).1 hm
  rcases hw.units hr with h | ⟨r0, h0⟩
  · exact h
  · exact hu u ((mem_tkeys_iff ha u).2 ⟨r0, h0⟩)

/-- A unit number that a record may have (R1). -/
def unitInRange (u : Nat) : Prop := 1 ≤ u ∧ u ≤ 16777215

theorem directoryOk_iff (s : State) : DirectoryOk s ↔ directoryKept unitInRange s ∧ ∀ m ∈ s.siteIn, messageUnit m ≤ 16777215 :=
  ⟨fun ⟨h1, h2, h3, h4⟩ => ⟨⟨h1, h2, h3⟩, h4⟩, fun ⟨⟨h1, h2, h3⟩, h4⟩ => ⟨h1, h2, h3, h4⟩⟩

theorem directoryKept_of_radios {p : Nat → Prop} {s t : State} (hr : t.radios = s.radios) (h : directoryKept p s) : directoryKept p t := by
  unfold directoryKept
  rw [hr]
  exact h

theorem exec_keeps_directory {c : Instr} {s t : State} (h : DirectoryOk s) (ht : exec c s = .next t) : DirectoryOk t := by
  obtain ⟨hd, hin⟩ := (directoryOk_iff s).1 h
  refine (directoryOk_iff t).2 ?_
  rcases command_cases c with hc | hc | hc | rfl | hc
  · obtain ⟨t', ht', ⟨-, rfl⟩ | ⟨rx, more, out, residue, sent, drx, reqs, ans, dsent, lost, rfl, -, -, hm, -⟩⟩ :=
      exec_ofPorts hc s <;> rw [ht] at ht' <;> cases ht'
    · exact ⟨⟨ascending_nil, Nat.zero_le _, fun u hu => nomatch hu⟩, fun m hm => nomatch hm⟩
    · refine ⟨hd, fun m hmem => ?_⟩
      rcases List.mem_append.1 hmem with hmem | hmem
      · exact hin m hmem
      · obtain ⟨kind, body, hb⟩ := hm m hmem
        exact messageUnit_le hb
  · rcases exec_siteFrame_event hc hd.1 ht with rfl | ⟨m, rest, hm, he⟩
    · exact ⟨hd, hin⟩
    · rw [hm] at hin
      obtain ⟨hunit, hrest⟩ := List.forall_mem_cons.1 hin
      have hw := (he.mono (w' := unitInRange) fun u hu => ⟨by rw [hu.1]; exact Nat.pos_of_ne_zero hu.2, by rw [hu.1]; exact hunit⟩).work
      refine ⟨directoryKept_of_work hw hd, ?_⟩
      rw [show t.siteIn = rest from congrArg Outer.siteIn hw.steady.outer]
      exact hrest
  · have hw := exec_inside_work (w := unitInRange) hc hd.1 ht
    refine ⟨directoryKept_of_work hw hd, ?_⟩
    rw [show t.siteIn = s.siteIn from congrArg Outer.siteIn hw.steady.outer]
    exact hin
  · obtain ⟨t', ht', rfl | ⟨e, rest, -, -, rfl⟩⟩ := exec_rejected s <;> rw [ht] at ht' <;> cases ht' <;> exact ⟨hd, hin⟩
  · obtain ⟨t', ht', rfl | ⟨partly, q, -, e, rest, -, -, -, ⟨-, rfl⟩ | ⟨hall, rfl⟩⟩⟩ := exec_request hc s <;>
      rw [ht] at ht' <;> cases ht'
    · exact ⟨hd, hin⟩
    · exact ⟨hd, hin⟩
    · have hsite : (meaning partly q { s with requests := rest }).1.siteIn = s.siteIn := by
        by_cases hr : q = .restart
        · subst hr; rfl
        · exact congrArg Outer.siteIn (meaning_outerStay hr partly { s with requests := rest }).outer
      refine ⟨?_, by rw [show (finished e (meaning partly q { s with requests := rest })).siteIn = s.siteIn from hsite]; exact hin⟩
      refine directoryKept_of_radios (s := (meaning partly q { s with requests := rest }).1) rfl ?_
      cases hs : serviceRequest q with
      | true => exact directoryKept_of_work (s := { s with requests := rest }) (work_service hs partly hd.1) hd
      | false =>
        rcases meaning_config_records hs partly { s with requests := rest } with ⟨hr, -⟩ | ⟨hr, -⟩
        · exact directoryKept_of_radios (s := s) hr hd
        · unfold directoryKept
          rw [hr]
          exact ⟨ascending_nil, Nat.zero_le _, fun u hu => nomatch hu⟩

/-- Settles O7: a record enters only for the unit of an admitted copy, whose number is in range, where the Directory has room. -/
theorem stepKeepsDirectory : Obligations.StepKeepsDirectory := fun _ _ h ht =>
  step_keeps (P := DirectoryOk) (fun _ _ _ h => h) (fun _ _ _ h => h) (fun _ _ _ => exec_keeps_directory) h ht

/-! ### Registration counts (R97) -/

theorem count_owed (a : Account) (s : State) {f : Nat × Radio → Nat} (h : ∀ p ∈ s.radios, (charge p.2).count a = f p) :
    (owed s).count a = (s.radios.map f).sum := by
  unfold owed
  generalize s.radios = l at h
  induction l with
  | nil => rfl
  | cons p l ih =>
    obtain ⟨h1, h2⟩ := List.forall_mem_cons.1 h
    simp only [List.map_cons, List.sum_cons, Multiset.count_add, h1, ih h2]

theorem sum_indicators {α : Type} (l : List α) (p q : α → Bool) :
    (l.map fun x => (if p x then 1 else 0) + if q x then 1 else 0).sum = l.countP p + l.countP q := by
  induction l with
  | nil => rfl
  | cons x l ih => simp only [List.map_cons, List.sum_cons, ih, List.countP_cons]; omega

theorem count_sum_counted (st : RecordState) (n : Nat) (f : Nat → Account) (hf : ∀ m, f m = f n ↔ m = n) :
    ((countedSites st).map fun m => ({f m} : Multiset Account)).sum.count (f n) =
      (if servingSite st == some n then 1 else 0) + if pendingSite st == some n then 1 else 0 := by
  have hone : ∀ m, ({f m} : Multiset Account).count (f n) = if m = n then 1 else 0 := by
    intro m
    rw [Multiset.count_singleton]
    simp only [eq_comm (a := f n), hf]
  unfold countedSites
  rw [List.map_append, List.sum_append, Multiset.count_add]
  cases servingSite st <;> cases pendingSite st <;> simp [hone]

theorem count_owed_registered (s : State) (n : Nat) : (owed s).count (.registered n) = registrationsAt s n := by
  rw [registrationsAt, ← sum_indicators]
  refine count_owed _ s fun p _ => ?_
  rw [charge, Multiset.count_add, count_registered_listCharge, Nat.add_zero]
  exact count_sum_counted p.2.state n .registered fun m => by simp

theorem countsAgree_iff (s : State) : CountsAgree s ↔ RegistrationsOk s ∧ Ascending s.sites ∧ ConfigQuiet s := by
  constructor
  · rintro ⟨h1, h2, h3, h4⟩
    refine ⟨⟨h1, fun n x hx => ?_, fun {n x} hx => ?_⟩, h2, h3⟩
    · obtain ⟨y, hy, rfl⟩ := Option.map_eq_some_iff.1 hx
      rw [count_owed_registered]
      exact (h4 _ (mem_of_tget hy)).1
    · exact (h4 _ (mem_of_tget hx)).2
  · rintro ⟨h, h2, h3⟩
    refine ⟨h.radios, h2, h3, fun p hp => ?_⟩
    have hx := tget_of_mem h2 hp
    exact ⟨by rw [← count_owed_registered]; exact h.agree p.1 p.2.count (by simp [balance, hx]), h.bounds hx⟩

theorem owed_of_none {t : State} (hr : t.radios = []) : owed t = 0 := by simp [owed, hr]

theorem RegistrationsOk.of_sitesKept {s t : State} (h : RegistrationsOk s) (hk : SitesKept s t)
    (hr : t.radios = s.radios ∨ t.radios = []) (hq : t.radios = [] → s.radios ≠ [] → ∀ {n y}, tget t.sites n = some y → y.count = 0) :
    RegistrationsOk t := by
  have hcount : ∀ {n y}, tget t.sites n = some y → y.count = (owed t).count (.registered n) ∧ y.count ≤ 255 := by
    intro n y hy
    by_cases hno : t.radios = []
    · rw [owed_of_none hno]
      by_cases hs : s.radios = []
      · rcases hk.count hy with ⟨-, h0⟩ | hx
        · simp [h0]
        · obtain ⟨x, hx, e⟩ := Option.map_eq_some_iff.1 hx
          have := h.agree n x.count (by simp [balance, hx])
          rw [owed_of_none hs] at this
          simp only [Multiset.count_zero] at this ⊢
          omega
      · simp [hq hno hs hy]
    · have hsame := hr.resolve_right hno
      rcases hk.count hy with ⟨h0, -⟩ | hx
      · exact absurd h0 hno
      · obtain ⟨x, hx, e⟩ := Option.map_eq_some_iff.1 hx
        have := h.agree n x.count (by simp [balance, hx])
        have ho : owed t = owed s := by simp [owed, hsame]
        rw [ho, ← e]
        exact ⟨this, (h.bounds hx).1⟩
  refine ⟨?_, fun n x hx => ?_, fun {n y} hy => ⟨(hcount hy).2, ?_⟩⟩
  · rcases hr with hr | hr <;> rw [hr]
    · exact h.radios
    · exact ascending_nil
  · obtain ⟨y, hy, rfl⟩ := Option.map_eq_some_iff.1 hx
    exact (hcount hy).1
  · rcases hk.capacity hy with h1 | hx
    · exact h1
    · obtain ⟨x, hx, e⟩ := Option.map_eq_some_iff.1 hx
      rw [← e]
      exact (h.bounds hx).2

theorem restart_counts (s : State) (partly : Bool) {n : Nat} {y : Site} (hy : tget (meaning partly .restart s).1.sites n = some y) :
    y.count = 0 := by
  simp only [meaning, doRestart, tget_map s.sites restartSite n, Option.map_eq_some_iff] at hy
  obtain ⟨x, -, rfl⟩ := hy
  rfl

/-- Settles O9: each change of a record's counted sites posts to the registration counts what it moves. -/
theorem stepKeepsRegistrationCounts : Obligations.StepKeepsRegistrationCounts := fun _ _ h ht => by
  refine step_keeps (P := CountsAgree) (fun _ _ _ h => h) (fun _ _ _ h => h) (fun c s t h ht => ?_) h ht
  obtain ⟨hreg, hasc, hq⟩ := (countsAgree_iff s).1 h
  have hkeep : RegistrationsOk t ∧ Ascending t.sites := by
    refine exec_keeps (P := fun z => RegistrationsOk z ∧ Ascending z.sites) hreg.radios (fun z hr hs _ _ => ?_) (fun a b hr hs _ _ h => ?_)
      (fun a b hw h => ⟨hw.registrations h.1, hw.steady.sites h.2⟩) (fun q partly rest hser hall => ?_) ⟨hreg, hasc⟩ ht
    · exact ⟨⟨by simp [hr], fun n x hx => by simp [balance, hs] at hx, fun hy => by simp [hs] at hy⟩, by simp [hs]⟩
    · refine ⟨⟨by rw [hr]; exact h.1.radios, fun n x hx => ?_, fun hy => h.1.bounds (hs ▸ hy)⟩, by rw [hs]; exact h.2⟩
      have ho : owed b = owed a := by simp [owed, hr]
      rw [ho]
      exact h.1.agree n x (by simpa [balance, hs] using hx)
    · have hk := meaning_sitesKept (partly := partly) (s := { s with requests := rest }) hser hq hall hasc
      refine ⟨RegistrationsOk.of_sitesKept (s := { s with requests := rest }) ⟨hreg.radios, hreg.agree, hreg.bounds⟩ hk
        ((meaning_config_records hser partly { s with requests := rest }).imp (·.1) (·.1)) (fun hnone hne {n y} hy => ?_), hk.ascend hasc⟩
      by_cases hr : q = .restart
      · subst hr; exact restart_counts _ partly hy
      · rw [(meaning_recordsStay hser hr partly { s with requests := rest }).radios] at hnone
        exact absurd hnone hne
  exact (countsAgree_iff t).2 ⟨hkeep.1, hkeep.2, exec_keeps_quiet hq ht⟩

/-! ### Member counts and totals (R114) -/

theorem count_listCharge {at_ : List Nat} (a : Account) (l : List Membership) :
    (listCharge at_ l).count a = (l.map fun m => (entryCharge at_ m).count a).sum := by
  induction l with
  | nil => rfl
  | cons m l ih => rw [listCharge_cons, Multiset.count_add, ih]; rfl

/-- A charge to one group is that of its one entry. -/
theorem sum_entries_of_group {l : List Membership} (hnd : (groupNumbers l).Nodup) {g : Nat} {f : Membership → Nat} {v : Bool → Nat}
    (hself : ∀ p, f { group := g, pending := p } = v p) (hother : ∀ m, m.group ≠ g → f m = 0) :
    (l.map f).sum = (if hasFlag l g true then v true else 0) + if hasFlag l g false then v false else 0 := by
  induction l with
  | nil => rfl
  | cons m l ih =>
    simp only [groupNumbers, List.map_cons, List.nodup_cons] at hnd
    have ih := ih hnd.2
    simp only [List.map_cons, List.sum_cons, ih]
    by_cases hm : m.group = g
    · subst hm
      have hno : ∀ p, hasFlag l m.group p = false := fun p => by
        simp only [hasFlag, List.any_eq_false, Bool.and_eq_true, beq_iff_eq, not_and]
        intro m' hm' e
        exact absurd (e ▸ List.mem_map_of_mem hm') hnd.1
      have hf : f m = v m.pending := hself m.pending
      have hcons : ∀ p, hasFlag (m :: l) m.group p = (m.pending == p) := fun p => by
        have := hno p
        simp only [hasFlag, List.any_cons, beq_self_eq_true, Bool.true_and] at this ⊢
        rw [this, Bool.or_false]
      rw [hno, hno, hf, hcons, hcons]
      cases m.pending <;> simp
    · have hcons : ∀ p, hasFlag (m :: l) g p = hasFlag l g p := fun p => by simp [hasFlag, hm]
      rw [hother m hm, hcons, hcons, Nat.zero_add]

theorem contains_iff_flag (l : List Membership) (g : Nat) : (groupNumbers l).contains g = (hasFlag l g true || hasFlag l g false) := by
  induction l with
  | nil => rfl
  | cons m l ih =>
    simp only [groupNumbers, List.map_cons, List.contains_cons, hasFlag, List.any_cons] at ih ⊢
    rw [ih, show (g == m.group) = (m.group == g) from Bool.beq_comm]
    cases m.group == g <;> cases m.pending <;> simp

theorem not_both_flags {l : List Membership} (hnd : (groupNumbers l).Nodup) (g : Nat) : ¬(hasFlag l g true = true ∧ hasFlag l g false = true) := by
  rintro ⟨h1, h2⟩
  simp only [hasFlag, List.any_eq_true, Bool.and_eq_true, beq_iff_eq] at h1 h2
  obtain ⟨m, hm, e1, p1⟩ := h1
  obtain ⟨m', hm', e2, p2⟩ := h2
  have := List.inj_on_of_nodup_map hnd hm hm' (e1.trans e2.symm)
  subst this
  rw [p1] at p2
  cases p2

/-- A charge to one group, the same for either flag, is made once where the list holds it. -/
theorem sum_entries_of_member {l : List Membership} (hnd : (groupNumbers l).Nodup) {g v : Nat} {f : Membership → Nat}
    (hself : ∀ p, f { group := g, pending := p } = v) (hother : ∀ m, m.group ≠ g → f m = 0) :
    (l.map f).sum = if (groupNumbers l).contains g then v else 0 := by
  rw [sum_entries_of_group hnd (v := fun _ => v) hself hother, contains_iff_flag]
  have := not_both_flags hnd g
  cases h1 : hasFlag l g true <;> cases h2 : hasFlag l g false <;> simp_all

theorem count_charge_members {r : Radio} (hnd : (groupNumbers r.groups).Nodup) (g n : Nat) : (charge r).count (.members g n) =
    (if servingSite r.state == some n && (groupNumbers r.groups).contains g then 1 else 0) +
      if pendingSite r.state == some n && (groupNumbers r.groups).contains g then 1 else 0 := by
  have hreg : ((countedSites r.state).map fun m => ({.registered m} : Multiset Account)).sum.count (.members g n) = 0 := by
    unfold countedSites
    cases servingSite r.state <;> cases pendingSite r.state <;> simp
  rw [charge, Multiset.count_add, hreg, Nat.zero_add, count_listCharge,
    sum_entries_of_member hnd (g := g) (v := ((countedSites r.state).map fun m => ({.members g m} : Multiset Account)).sum.count (.members g n))
      (fun p => ?_) fun m hm => ?_]
  · rw [count_sum_counted r.state n (.members g) fun m => by simp]
    cases (groupNumbers r.groups).contains g <;> simp
  · have hpend : ∀ b : Bool, (if b then ({.unreached g} : Multiset Account) else 0).count (.members g n) = 0 := fun b => by cases b <;> simp
    have htot : ∀ b : Bool, (if b then (0 : Multiset Account) else {.total g}).count (.members g n) = 0 := fun b => by cases b <;> simp
    simp only [entryCharge, Multiset.count_add, hpend, htot, Nat.add_zero]
  · have hpend : ∀ b : Bool, (if b then ({.unreached m.group} : Multiset Account) else 0).count (.members g n) = 0 :=
      fun b => by cases b <;> simp
    have htot : ∀ b : Bool, (if b then (0 : Multiset Account) else {.total m.group}).count (.members g n) = 0 := fun b => by cases b <;> simp
    have hmem : ((countedSites r.state).map fun k => ({.members m.group k} : Multiset Account)).sum.count (.members g n) = 0 := by
      unfold countedSites
      cases servingSite r.state <;> cases pendingSite r.state <;> simp [Ne.symm hm]
    simp only [entryCharge, Multiset.count_add, hpend, htot, hmem]

theorem count_charge_total {r : Radio} (hnd : (groupNumbers r.groups).Nodup) (g : Nat) : (charge r).count (.total g) =
    if (servingSite r.state).isSome && (groupNumbers r.groups).contains g then 1 else 0 := by
  have hsum : ∀ (f : Nat → Account), (∀ m, f m ≠ .total g) →
      ((countedSites r.state).map fun m => ({f m} : Multiset Account)).sum.count (.total g) = 0 := by
    intro f hf
    unfold countedSites
    cases servingSite r.state <;> cases pendingSite r.state <;> simp [Ne.symm (hf _)]
  have hempty : (countedSites r.state).isEmpty = !(servingSite r.state).isSome := by cases r.state <;> rfl
  rw [charge, Multiset.count_add, hsum _ (fun _ => by simp), Nat.zero_add, count_listCharge,
    sum_entries_of_member hnd (g := g) (v := if (servingSite r.state).isSome then 1 else 0) (fun p => ?_) fun m hm => ?_]
  · cases (servingSite r.state).isSome <;> cases (groupNumbers r.groups).contains g <;> rfl
  · have hpend : ∀ b : Bool, (if b then ({.unreached g} : Multiset Account) else 0).count (.total g) = 0 := fun b => by cases b <;> simp
    simp only [entryCharge, Multiset.count_add, hpend, hempty, hsum (fun k => .members g k) (fun _ => by simp)]
    cases (servingSite r.state).isSome <;> simp
  · have hpend : ∀ b : Bool, (if b then ({.unreached m.group} : Multiset Account) else 0).count (.total g) = 0 :=
      fun b => by cases b <;> simp
    have htot : ∀ b : Bool, (if b then (0 : Multiset Account) else {.total m.group}).count (.total g) = 0 :=
      fun b => by cases b <;> simp [Ne.symm hm]
    simp only [entryCharge, Multiset.count_add, hpend, htot, hsum (fun k => .members m.group k) (fun _ => by simp)]

theorem count_charge_unreached {r : Radio} (hnd : (groupNumbers r.groups).Nodup) (g : Nat) : (charge r).count (.unreached g) =
    if hasFlag r.groups g true then 1 else 0 := by
  have hsum : ∀ (f : Nat → Account), (∀ m, f m ≠ .unreached g) →
      ((countedSites r.state).map fun m => ({f m} : Multiset Account)).sum.count (.unreached g) = 0 := by
    intro f hf
    unfold countedSites
    cases servingSite r.state <;> cases pendingSite r.state <;> simp [Ne.symm (hf _)]
  have htot : ∀ (b : Bool) k, (if b then (0 : Multiset Account) else {.total k}).count (.unreached g) = 0 := fun b k => by cases b <;> simp
  rw [charge, Multiset.count_add, hsum _ (fun _ => by simp), Nat.zero_add, count_listCharge,
    sum_entries_of_group hnd (g := g) (v := fun p => if p then 1 else 0) (fun p => ?_) fun m hm => ?_]
  · simp
  · simp only [entryCharge, Multiset.count_add, htot, hsum (fun k => .members g k) (fun _ => by simp)]
    cases p <;> simp
  · simp only [entryCharge, Multiset.count_add, htot, hsum (fun k => .members m.group k) (fun _ => by simp)]
    cases m.pending <;> simp [Ne.symm hm]

theorem sum_indicator {α : Type} (l : List α) (p : α → Bool) : (l.map fun x => if p x then 1 else 0).sum = l.countP p := by
  induction l with
  | nil => rfl
  | cons x l ih => simp only [List.map_cons, List.sum_cons, ih, List.countP_cons]; omega

theorem RecordsOk.nodup {s : State} (h : RecordsOk s) {p : Nat × Radio} (hp : p ∈ s.radios) : (groupNumbers p.2.groups).Nodup :=
  ((recordOk_iff p.2).1 (h.2 p hp)).2.1.2

theorem count_owed_members {s : State} (h : RecordsOk s) (g n : Nat) : (owed s).count (.members g n) = membersAt s g n := by
  rw [membersAt, ← sum_indicators]
  exact count_owed _ s fun p hp => count_charge_members (h.nodup hp) g n

theorem count_owed_total {s : State} (h : RecordsOk s) (g : Nat) : (owed s).count (.total g) = membersOf s g := by
  rw [membersOf, ← sum_indicator]
  exact count_owed _ s fun p hp => count_charge_total (h.nodup hp) g

theorem count_owed_unreached {s : State} (h : RecordsOk s) (g : Nat) : (owed s).count (.unreached g) = flaggedFor s g := by
  rw [flaggedFor, ← sum_indicator]
  exact count_owed _ s fun p hp => count_charge_unreached (h.nodup hp) g

theorem membersAgree_iff (s : State) : MembersAgree s ↔
    RecordsOk s ∧ Ascending s.groups ∧ ConfigQuiet s ∧ countsAscend s ∧ MembersOk s := by
  constructor
  · rintro ⟨h1, h2, h3, h4⟩
    refine ⟨h1, h2, h3, fun p hp => (h4 p hp).1, fun g => ⟨fun n x hx => ?_, fun x hx => ?_⟩⟩ <;>
      obtain ⟨y, hy, rfl⟩ := Option.map_eq_some_iff.1 hx <;> obtain ⟨-, ht, hm⟩ := h4 _ (mem_of_tget hy)
    · rw [count_owed_members h1, ← hm n, memberCount, hy]
    · rw [count_owed_total h1]; exact ht
  · rintro ⟨h1, h2, h3, h4, h5⟩
    refine ⟨h1, h2, h3, fun p hp => ⟨h4 p hp, ?_, fun n => ?_⟩⟩ <;> have hx := tget_of_mem h2 hp
    · rw [← count_owed_total h1]
      exact (h5 p.1).2 p.2.total (by simp [balance, hx])
    · rw [← count_owed_members h1, memberCount, hx]
      exact (h5 p.1).1 n _ (by simp [balance, hx])

/-- Books of groups that configuration leaves agree with the records that it leaves. -/
theorem balanced_of_groupsKept {s t : State} {a : Account} {g : Nat} (hg : a.group = some g) (h : balanced s a) (hk : GroupsKept s t)
    (hr : t.radios = s.radios ∨ t.radios = []) (hq : t.radios = [] → s.radios ≠ [] → ∀ {k y}, tget t.groups k = some y →
      groupBooks y = ([], 0, 0, .off)) : balanced t a := by
  have hbal : ∀ (z z' : State) (y x : Group), tget z.groups g = some y → tget z'.groups g = some x → groupBooks y = groupBooks x →
      balance z a = balance z' a := by
    intro z z' y x hy hx e
    simp only [groupBooks, Prod.mk.injEq] at e
    obtain ⟨e1, e2, e3, -⟩ := e
    cases a <;> simp only [Account.group, Option.some.injEq, reduceCtorEq] at hg <;> subst hg <;>
      simp only [balance, hy, hx, Option.map_some, e1, e2, e3]
  have hzero : ∀ y, tget t.groups g = some y → groupBooks y = ([], 0, 0, .off) → ∀ x, balance t a = some x → x = 0 := by
    intro y hy e x hx
    simp only [groupBooks, Prod.mk.injEq] at e
    obtain ⟨e1, e2, e3, -⟩ := e
    cases a <;> simp only [Account.group, Option.some.injEq, reduceCtorEq] at hg <;> subst hg <;>
      simp only [balance, hy, Option.map_some, e1, e2, e3, Option.some.injEq] at hx <;> simp [← hx, tget]
  intro v hv
  cases hy : tget t.groups g with
  | none => cases a <;> simp_all [Account.group, balance]
  | some y =>
    by_cases hno : t.radios = []
    · rw [owed_of_none hno, Multiset.count_zero]
      by_cases hs : s.radios = []
      · rcases hk.books hy with ⟨-, -, e⟩ | hx
        · exact hzero y hy e v hv
        · obtain ⟨x, hx, e⟩ := Option.map_eq_some_iff.1 hx
          have := h v (by rw [← hv]; exact (hbal t s y x hy hx e.symm).symm)
          rwa [owed_of_none hs, Multiset.count_zero] at this
      · exact hzero y hy (hq hno hs hy) v hv
    · have ho : owed t = owed s := by simp [owed, hr.resolve_right hno]
      rcases hk.books hy with ⟨h0, -⟩ | hx
      · exact absurd h0 hno
      · obtain ⟨x, hx, e⟩ := Option.map_eq_some_iff.1 hx
        rw [ho]
        exact h v (by rw [← hv]; exact (hbal t s y x hy hx e.symm).symm)

theorem restart_books (s : State) (partly : Bool) {g : Nat} {y : Group} (hy : tget (meaning partly .restart s).1.groups g = some y) :
    groupBooks y = ([], 0, 0, .off) := by
  simp only [meaning, doRestart, tget_map s.groups restartGroup g, Option.map_eq_some_iff] at hy
  obtain ⟨x, -, rfl⟩ := hy
  rfl

/-- Where configuration empties the Directory, it clears the books of the groups. -/
theorem meaning_clears {q : Request} {partly : Bool} {s : State} (hs : serviceRequest q = false)
    (hnone : (meaning partly q s).1.radios = []) (hne : s.radios ≠ []) {g : Nat} {y : Group}
    (hy : tget (meaning partly q s).1.groups g = some y) : groupBooks y = ([], 0, 0, .off) := by
  by_cases hr : q = .restart
  · subst hr; exact restart_books _ partly hy
  · rw [(meaning_recordsStay hs hr partly s).radios] at hnone
    exact absurd hnone hne

theorem countsAscend_of_groupsKept {s t : State} (h : countsAscend s) (hk : GroupsKept s t) (hasc : Ascending t.groups) :
    countsAscend t := by
  intro p hp
  rcases hk.books (tget_of_mem hasc hp) with ⟨-, -, e⟩ | hx
  · rw [show p.2.counts = [] from congrArg Prod.fst e]; exact ascending_nil
  · obtain ⟨x, hx, e⟩ := Option.map_eq_some_iff.1 hx
    rw [show p.2.counts = x.counts from (congrArg Prod.fst e).symm]
    exact h (p.1, x) (mem_of_tget hx)

/-- What the member counts need of a state. -/
def membersKept (s : State) : Prop := RecordsOk s ∧ Ascending s.groups ∧ countsAscend s ∧ MembersOk s

theorem membersKept_of_stay {s t : State} (hr : t.radios = s.radios) (hg : t.groups = s.groups) (h : membersKept s) : membersKept t := by
  obtain ⟨h1, h2, h3, h4⟩ := h
  have ho : owed t = owed s := by simp [owed, hr]
  refine ⟨h1.of_radios hr, by rw [hg]; exact h2, by simpa [countsAscend, hg] using h3, fun g => ⟨fun n x hx => ?_, fun x hx => ?_⟩⟩ <;>
    rw [ho]
  · exact (h4 g).1 n x (by simpa [balance, hg] using hx)
  · exact (h4 g).2 x (by simpa [balance, hg] using hx)

/-- Settles O11: each change of a record's sites or list posts to the member counts and totals what it moves. -/
theorem stepKeepsMemberCounts : Obligations.StepKeepsMemberCounts := fun _ _ h ht => by
  refine step_keeps (P := MembersAgree) (fun _ _ _ h => h) (fun _ _ _ h => h) (fun c s t h ht => ?_) h ht
  obtain ⟨h1, h2, hq, h3, h4⟩ := (membersAgree_iff s).1 h
  have hkeep : membersKept t := by
    refine exec_keeps (P := membersKept) h1.1 (fun z hr _ hg _ => ?_) (fun a b hr _ hg _ h => membersKept_of_stay hr hg h)
      (fun a b hw h => ?_) (fun q partly rest hser hall => ?_) ⟨h1, h2, h3, h4⟩ ht
    · exact ⟨recordsOk_of_none hr, by simp [hg], by simp [countsAscend, hg],
        fun g => ⟨fun n x hx => by simp [balance, hg] at hx, fun x hx => by simp [balance, hg] at hx⟩⟩
    · obtain ⟨h1, h2, h3, h4⟩ := h
      exact ⟨hw.shapes h1, hw.steady.groups h2, hw.steady.counts h3, hw.members h1 h3 h4⟩
    · have hk := meaning_groupsKept (partly := partly) (s := { s with requests := rest }) hser hq hall h2
      have hr := (meaning_config_records hser partly { s with requests := rest }).imp (·.1) (·.1)
      refine ⟨?_, hk.ascend h2, countsAscend_of_groupsKept (s := { s with requests := rest }) h3 hk (hk.ascend h2),
        fun g => ⟨fun n => ?_, ?_⟩⟩
      · rcases hr with hr | hr
        · exact RecordsOk.of_radios (s := s) hr h1
        · exact recordsOk_of_none hr
      · exact balanced_of_groupsKept (s := { s with requests := rest }) rfl ((h4 g).1 n) hk hr fun hn hne _ _ hy => meaning_clears hser hn hne hy
      · exact balanced_of_groupsKept (s := { s with requests := rest }) rfl (h4 g).2 hk hr fun hn hne _ _ hy => meaning_clears hser hn hne hy
  obtain ⟨k1, k2, k3, k4⟩ := hkeep
  exact (membersAgree_iff t).2 ⟨k1, k2, exec_keeps_quiet hq ht, k3, k4⟩

end Sys2Proof.Machine

/-! The step lemma of the unreached counts (R122): with the flags and counts of every event, the course of a sweep. A RECALL flags only
while its group is ACTIVE (R123), and a CANCEL-RECALL leaves no flag behind its cursor (R125), so that none is left when it ends. -/

namespace Sys2Proof.Machine

/-! ### The cursor of a sweep (R167) -/

/-- No number of an ascending table lies between a number and the next one above it. -/
theorem tnext_eq_some {α : Type} {t : Table α} (h : Ascending t) {k u : Nat} (e : tnext t k = some u) :
    k < u ∧ ∀ {v : Nat} {x : α}, tget t v = some x → v ≤ k ∨ u ≤ v := by
  induction t with
  | nil => cases e
  | cons p rest ih =>
    obtain ⟨n, y⟩ := p
    simp only [tnext] at e
    have hhead : ∀ m ∈ tkeys rest, n < m := (List.pairwise_cons.1 h).1
    split at e
    · rename_i hk
      cases e
      refine ⟨hk, fun {v x} hv => ?_⟩
      rcases List.mem_cons.1 (mem_of_tget hv) with hm | hm
      · cases hm; exact .inr (Nat.le_refl _)
      · exact .inr (Nat.le_of_lt (hhead v (List.mem_map_of_mem hm)))
    · rename_i hk
      obtain ⟨h1, h2⟩ := ih (List.pairwise_cons.1 h).2 e
      refine ⟨h1, fun {v x} hv => ?_⟩
      rw [tget] at hv
      split at hv
      · rename_i hnv
        have : v = n := by simpa using hnv
        exact .inl (by omega)
      · exact h2 hv

/-- With none next, every number of the table has been passed. -/
theorem tnext_eq_none {α : Type} {t : Table α} {k : Nat} (e : tnext t k = none) {v : Nat} {x : α} (hv : tget t v = some x) : v ≤ k := by
  induction t with
  | nil => cases hv
  | cons p rest ih =>
    obtain ⟨n, y⟩ := p
    simp only [tnext] at e
    split at e
    · cases e
    · rw [tget] at hv
      split at hv
      · rename_i hnv
        have : v = n := by simpa using hnv
        omega
      · exact ih e hv

/-! ### Flags and recall states -/

/-- No flag is set for a group whose recall state is OFF (R122). -/
def offUnflagged (s : State) : Prop := ∀ ⦃g x⦄, tget s.groups g = some x → x.recallState = .off → ∀ u, ¬flaggedAt s u g

/-- No unit up to the cursor has its flag for g set. -/
def clearUpTo (s : State) (g cursor : Nat) : Prop := ∀ u, u ≤ cursor → ¬flaggedAt s u g

/-- A RECALL in hand has its group ACTIVE (R123). -/
def recallRuns (s : State) : Prop :=
  ∀ ⦃g k⦄, runOf s = some (.recallGroup g, k) → ∀ ⦃x⦄, tget s.groups g = some x → x.recallState = .active

/-- A CANCEL-RECALL in hand has its group not ACTIVE and no flag behind its cursor (R125). -/
def cancelRuns (s : State) : Prop :=
  ∀ ⦃g k⦄, runOf s = some (.cancelRecall g, k) → (∀ ⦃x⦄, tget s.groups g = some x → x.recallState ≠ .active) ∧ clearUpTo s g k

/-- What the recalls need of a state beside the books. -/
structure RecallsFit (s : State) : Prop where
  off : offUnflagged s
  running : recallRuns s
  cancelling : cancelRuns s

theorem flaggedAt_of_radios {s t : State} (h : t.radios = s.radios) (u g : Nat) : flaggedAt t u g ↔ flaggedAt s u g := by
  unfold flaggedAt
  rw [h]

theorem offUnflagged.of_eq {s t : State} (hr : t.radios = s.radios) (hg : t.groups = s.groups) (h : offUnflagged s) : offUnflagged t := by
  intro g x hx hoff u
  rw [hg] at hx
  rw [flaggedAt_of_radios hr]
  exact h hx hoff u

/-- Records, groups and the course of the operation are all that the recalls read. -/
theorem RecallsFit.of_eq {s t : State} (hr : t.radios = s.radios) (hg : t.groups = s.groups) (hrun : runOf t = runOf s)
    (h : RecallsFit s) : RecallsFit t := by
  refine ⟨h.off.of_eq hr hg, fun g k e x hx => ?_, fun g k e => ⟨fun x hx => ?_, fun u hu => ?_⟩⟩ <;> rw [hrun] at e
  · rw [hg] at hx; exact h.running e hx
  · rw [hg] at hx; exact (h.cancelling e).1 hx
  · rw [flaggedAt_of_radios hr]; exact (h.cancelling e).2 u hu

/-- With no operation in hand only the groups that are OFF matter. -/
theorem RecallsFit.of_idle {s : State} (hb : runOf s = none) (h : offUnflagged s) : RecallsFit s :=
  ⟨h, fun _ _ e => (nomatch hb.symm.trans e), fun _ _ e => (nomatch hb.symm.trans e)⟩

/-- Nor do they with an operation of another kind. -/
theorem RecallsFit.of_other {s : State} (hrec : ∀ g k, runOf s ≠ some (.recallGroup g, k))
    (hcan : ∀ g k, runOf s ≠ some (.cancelRecall g, k)) (h : offUnflagged s) : RecallsFit s :=
  ⟨h, fun _ _ e => absurd e (hrec _ _), fun _ _ e => absurd e (hcan _ _)⟩

theorem recallStateOf_of_tget {s : State} {g : Nat} {x : Group} (h : tget s.groups g = some x) : recallStateOf s g = x.recallState := by
  unfold recallStateOf
  rw [h]

/-- A group of the state after a calm step has the recall state that it had. -/
theorem Calm.back {s t : State} (h : Calm s t) {g : Nat} {y : Group} (hy : tget t.groups g = some y) :
    ∃ x, tget s.groups g = some x ∧ x.recallState = y.recallState := by
  have := h.recalls g
  rw [hy, Option.map_some, eq_comm, Option.map_eq_some_iff] at this
  exact this

/-- Events leave the recall states and the operation in hand, and flag only for ACTIVE groups. -/
theorem RecallsFit.event {w : Nat → Prop} {s t : State} (he : Event w s t) (h : RecallsFit s) : RecallsFit t := by
  have back : ∀ {g u}, recallStateOf s g ≠ .active → flaggedAt t u g → flaggedAt s u g := fun hg hf => he.flagged hg hf
  refine ⟨fun g y hy hoff u hf => ?_, fun g k e y hy => ?_, fun g k e => ⟨fun y hy => ?_, fun u hu hf => ?_⟩⟩
  · obtain ⟨x, hx, e⟩ := he.calm.back hy
    refine h.off hx (e.trans hoff) u (back ?_ hf)
    rw [recallStateOf_of_tget hx, e, hoff]
    exact fun h => nomatch h
  · rw [he.calm.run] at e
    obtain ⟨x, hx, e2⟩ := he.calm.back hy
    rw [← e2]
    exact h.running e hx
  · rw [he.calm.run] at e
    obtain ⟨x, hx, e2⟩ := he.calm.back hy
    rw [← e2]
    exact (h.cancelling e).1 hx
  · rw [he.calm.run] at e
    refine (h.cancelling e).2 u hu (back ?_ hf)
    unfold recallStateOf
    split
    · exact (h.cancelling e).1 ‹_›
    · exact fun h => nomatch h

/-! ### Start and end of an operation (R166, R171) -/

theorem runOf_modBulk (s : State) {f : BulkRun → BulkRun} (hf : ∀ b, (f b).op = b.op ∧ (f b).cursor = b.cursor) :
    runOf (modBulk s f) = runOf s := (event_modBulk (w := fun _ => True) s hf).calm.run

theorem tget_recallState {s : State} {g k : Nat} {v : RecallState} {y : Group}
    (h : tget (modGroup s g fun x => { x with recallState := v }).groups k = some y) :
    (k = g ∧ y.recallState = v) ∨ (k ≠ g ∧ tget s.groups k = some y) := by
  simp only [modGroup_groups, tget_tmod] at h
  split at h
  · obtain ⟨x, -, rfl⟩ := Option.map_eq_some_iff.1 h
    exact .inl ⟨‹_›, rfl⟩
  · exact .inr ⟨‹_›, h⟩

/-- A recall state other than OFF may be set at any time. -/
theorem offUnflagged.recallState {s : State} {g : Nat} {v : RecallState} (hv : v ≠ .off) (h : offUnflagged s) :
    offUnflagged (modGroup s g fun x => { x with recallState := v }) := by
  intro k y hy hoff u
  rcases tget_recallState hy with ⟨-, e⟩ | ⟨-, hx⟩
  · exact absurd (e.symm.trans hoff) hv
  · exact h hx hoff u

theorem recallsFit_startBulk {s : State} (hzero : tget s.radios 0 = none) (h : offUnflagged s) (op : BulkOp) :
    RecallsFit (startBulk s op) := by
  have hfresh : ∀ b : State, b = { s with bulk := some (freshRun op) } → offUnflagged b := fun b e => by
    subst e
    exact offUnflagged.of_eq (s := s) rfl rfl h
  unfold startBulk
  generalize hs : ({ s with bulk := some (freshRun op) } : State) = s1
  have h1 := hfresh s1 hs.symm
  have hrun : runOf s1 = some (op, startCursor op) := by rw [← hs]; rfl
  cases op with
  | recallGroup g =>
    refine ⟨h1.recallState (fun e => nomatch e), fun k c e x hx => ?_, fun k c e => ?_⟩ <;>
      rw [show runOf (startEffects s1 (.recallGroup g)) = runOf s1 from rfl, hrun] at e <;> cases e
    rcases tget_recallState hx with ⟨-, e⟩ | ⟨hne, -⟩
    · exact e
    · exact absurd rfl hne
  | cancelRecall g =>
    refine ⟨h1.recallState (fun e => nomatch e), fun k c e x hx => ?_, fun k c e => ?_⟩ <;>
      rw [show runOf (startEffects s1 (.cancelRecall g)) = runOf s1 from rfl, hrun] at e <;> cases e
    refine ⟨fun x hx => ?_, fun u hu hf => ?_⟩
    · rcases tget_recallState hx with ⟨-, e⟩ | ⟨hne, -⟩
      · rw [e]; exact fun h => nomatch h
      · exact absurd rfl hne
    · obtain ⟨r, hr, -⟩ := hf
      rw [Nat.le_zero.1 hu] at hr
      rw [← hs] at hr
      exact absurd (hr.symm.trans hzero) (fun e => nomatch e)
  | evacuate n | roster f k l | resync n | purge =>
    refine .of_other (fun g k e => ?_) (fun g k e => ?_) (offUnflagged.of_eq (s := s1) rfl rfl h1) <;> rw [← hs] at e <;> cases e

theorem recallsFit_startWaiting {s : State} (hzero : tget s.radios 0 = none) (hb : s.bulk = none) (h : offUnflagged s) :
    RecallsFit (startWaiting s) := by
  unfold startWaiting
  split
  · exact recallsFit_startBulk (s := { s with bulkWaiting := none }) hzero (offUnflagged.of_eq (s := s) rfl rfl h) _
  · exact .of_idle (by rw [runOf, hb]; rfl) h

/-- The completion of a CANCEL-RECALL finds no flag of its group left. -/
theorem offUnflagged_completionWork {s : State} {b : BulkRun} (h : offUnflagged s)
    (hdone : ∀ g, b.op = .cancelRecall g → ∀ u, ¬flaggedAt s u g) :
    offUnflagged (completionWork s b) ∧ (completionWork s b).radios = s.radios := by
  unfold completionWork
  split
  · split
    · split
      · exact ⟨h.of_eq (raise_radios ..) (raise_groups ..), raise_radios ..⟩
      · exact ⟨h, rfl⟩
    · exact ⟨h, rfl⟩
  · rename_i g hop
    refine ⟨fun k y hy hoff u => ?_, rfl⟩
    rcases tget_recallState hy with ⟨rfl, -⟩ | ⟨-, hx⟩
    · exact hdone _ hop u
    · exact h hx hoff u
  · split
    · exact ⟨h, rfl⟩
    · exact ⟨h.of_eq rfl rfl, rfl⟩
  · exact ⟨h, rfl⟩
  · exact ⟨h, rfl⟩
  · exact ⟨h, rfl⟩

theorem recallsFit_endBulk {s : State} {b : BulkRun} {completed : Bool} (hzero : tget s.radios 0 = none) (h : offUnflagged s)
    (hdone : completed = true → ∀ g, b.op = .cancelRecall g → ∀ u, ¬flaggedAt s u g) : RecallsFit (endBulk s b completed) := by
  rw [endBulk_eq]
  have h1 : offUnflagged (if completed then completionWork s b else s) ∧
      (if completed then completionWork s b else s).radios = s.radios := by
    cases completed with
    | true => exact offUnflagged_completionWork h (hdone rfl)
    | false => exact ⟨h, rfl⟩
  unfold bulkEnded
  generalize (if completed then completionWork s b else s) = s1 at h1
  obtain ⟨h1, hr⟩ := h1
  refine recallsFit_startWaiting ?_ rfl (h1.of_eq (raise_radios ..) (raise_groups ..))
  simp only [raise_radios, hr]
  exact hzero

/-! ### The visits of the recalls (R123, R125) -/

/-- Where a visit turned the flags of one group in one record, a flag is one that stood before, or that group's. -/
theorem flaggedAt_setFlag {s t : State} {u v g k : Nat} {on : Bool} {r : Radio} (hu : tget s.radios u = some r)
    (hr : t.radios = tput s.radios u { r with groups := setFlag r.groups g on }) (hf : flaggedAt t v k) :
    (k = g ∧ v = u ∧ hasFlag (setFlag r.groups g on) g true = true) ∨ flaggedAt s v k := by
  obtain ⟨r', hv, hflag⟩ := hf
  rw [hr, tget_tput] at hv
  split at hv
  · rename_i e
    cases hv
    by_cases hk : k = g
    · subst hk
      exact .inl ⟨rfl, e, hflag⟩
    · rw [hasFlag_setFlag_ne _ _ _ hk] at hflag
      exact .inr ⟨r, e ▸ hu, hflag⟩
  · exact .inr ⟨r', hv, hflag⟩

theorem recallsFit_visitRecall {s : State} {u g k : Nat} {r : Radio} (hu : tget s.radios u = some r)
    (hrun : runOf s = some (.recallGroup g, k)) (h : RecallsFit s) : RecallsFit (visitRecall s g u r) := by
  unfold visitRecall
  split
  · have hf := groupFrame_raiseUnreached (modRadio s u fun r => { r with groups := setFlag r.groups g true }) g
    have hcalm : Calm s (modBulk (raiseUnreached (modRadio s u fun r => { r with groups := setFlag r.groups g true }) g) count1) :=
      (calm_modRadio s u _).trans (hf.calm.trans (event_count (w := fun _ => True) _).1.calm)
    have hr : (modBulk (raiseUnreached (modRadio s u fun r => { r with groups := setFlag r.groups g true }) g) count1).radios =
        tput s.radios u { r with groups := setFlag r.groups g true } := hf.radios.trans (tmod_of_some _ _ hu)
    refine ⟨fun m y hy hoff v hv => ?_, fun m c e y hy => ?_, fun m c e => ?_⟩
    · obtain ⟨x, hx, e⟩ := hcalm.back hy
      rcases flaggedAt_setFlag hu hr hv with ⟨rfl, -, -⟩ | hv
      · exact absurd ((h.running hrun hx).symm.trans (e.trans hoff)) (fun e => nomatch e)
      · exact h.off hx (e.trans hoff) v hv
    · rw [hcalm.run] at e
      obtain ⟨x, hx, e2⟩ := hcalm.back hy
      rw [← e2]
      exact h.running e hx
    · rw [hcalm.run, hrun] at e
      cases e
  · exact h

/-- The visit of a CANCEL-RECALL leaves no flag of its group at the unit visited. -/
theorem visitCancel_effect {s : State} {u g : Nat} {r : Radio} (hu : tget s.radios u = some r) :
    Calm s (visitCancel s g u r) ∧ (∀ v k, flaggedAt (visitCancel s g u r) v k → flaggedAt s v k) ∧
      ¬flaggedAt (visitCancel s g u r) u g := by
  unfold visitCancel
  split
  · have hf := groupFrame_lowerUnreached (modRadio s u fun r => { r with groups := setFlag r.groups g false }) g
    have hr : (modBulk (lowerUnreached (modRadio s u fun r => { r with groups := setFlag r.groups g false }) g) count1).radios =
        tput s.radios u { r with groups := setFlag r.groups g false } := hf.radios.trans (tmod_of_some _ _ hu)
    have hclear : hasFlag (setFlag r.groups g false) g true = false := hasFlag_setFlag_self r.groups g false
    refine ⟨(calm_modRadio s u _).trans (hf.calm.trans (event_count (w := fun _ => True) _).1.calm), fun v k hv => ?_, fun hv => ?_⟩
    · rcases flaggedAt_setFlag hu hr hv with ⟨-, -, h⟩ | h
      · rw [hclear] at h; cases h
      · exact h
    · obtain ⟨r', hr', hfl⟩ := hv
      rw [hr, tget_tput, if_pos rfl] at hr'
      cases hr'
      rw [hclear] at hfl
      cases hfl
  · rename_i h
    refine ⟨.refl s, fun _ _ h => h, fun hv => ?_⟩
    obtain ⟨r', hr', hfl⟩ := hv
    rw [hu] at hr'
    cases hr'
    exact h hfl

/-! ### The step and the requests of the engine -/

/-- A visit keeps what the recalls need; a CANCEL-RECALL's finds the units before its cursor clear and leaves its own unit clear too. -/
theorem recallsFit_visit {s : State} {op : BulkOp} {u : Nat} {r : Radio} (ha : Ascending s.radios) (hzero : tget s.radios 0 = none)
    (hu : tget s.radios u = some r) (hroom : isResync op = true → hasRoom s 1 = true) (hrun : runOf s = some (op, u))
    (hoff : offUnflagged s) (hrec : recallRuns s)
    (hcan : ∀ g, op = .cancelRecall g → (∀ ⦃x⦄, tget s.groups g = some x → x.recallState ≠ .active) ∧
      ∀ v, v < u → ¬flaggedAt s v g) : RecallsFit (visit s op u r) := by
  have hother : (∀ g, op ≠ .cancelRecall g) → RecallsFit s := fun hne =>
    ⟨hoff, hrec, fun g k e => absurd (congrArg Prod.fst (Option.some.inj (hrun.symm.trans e))) (hne g)⟩
  cases op with
  | roster f start limit =>
    have hs : RecallsFit s := hother fun g e => nomatch e
    simp only [visit, visitRoster]
    split
    · split
      · exact hs.event (event_count (w := fun _ => True) s).2.1
      · split
        · split
          · exact hs.event (event_modBulk (w := fun _ => True) s fun _ => ⟨rfl, rfl⟩)
          · rename_i b hb _
            refine recallsFit_endBulk hzero (offUnflagged.of_eq (s := s) rfl rfl hoff) fun _ g e => ?_
            have : runOf s = some (b.op, b.cursor) := by rw [runOf, hb]; rfl
            rw [hrun] at this
            cases (congrArg Prod.fst (Option.some.inj this)).trans e
        · exact hs
    · exact hs
  | recallGroup g => exact recallsFit_visitRecall hu hrun (hother fun g e => nomatch e)
  | cancelRecall g =>
    obtain ⟨hcalm, hflags, hself⟩ := visitCancel_effect (s := s) (g := g) hu
    obtain ⟨hnot, hclear⟩ := hcan g rfl
    refine ⟨fun k y hy hoff' v hv => ?_, fun k c e y hy => ?_, fun k c e => ?_⟩
    · obtain ⟨x, hx, e⟩ := hcalm.back hy
      exact hoff hx (e.trans hoff') v (hflags v k hv)
    · rw [visit, hcalm.run, hrun] at e
      cases e
    · rw [visit, hcalm.run, hrun] at e
      cases e
      refine ⟨fun y hy => ?_, fun v hv hf => ?_⟩
      · obtain ⟨x, hx, e⟩ := hcalm.back hy
        rw [← e]
        exact hnot hx
      · rcases Nat.lt_or_eq_of_le hv with hlt | rfl
        · exact hclear v hlt (hflags v g hf)
        · exact hself hf
  | evacuate n => exact (hother fun g e => nomatch e).event (event_visitEvacuate (w := fun _ => True) ha hu n)
  | resync n => exact (hother fun g e => nomatch e).event (event_visitResync (w := fun _ => True) u n r (hroom rfl))
  | purge => exact (hother fun g e => nomatch e).event (event_visitPurge (w := fun _ => True) ha hu)

theorem recallsFit_stepBulk {s : State} (ha : Ascending s.radios) (hzero : tget s.radios 0 = none) (h : RecallsFit s) :
    RecallsFit (stepBulk s) := by
  unfold stepBulk
  split
  · rename_i b hb
    have hrun : runOf s = some (b.op, b.cursor) := by rw [runOf, hb]; rfl
    split
    · exact h
    · split
      · exact h.event (event_modBulk (w := fun _ => True) s fun _ => ⟨rfl, rfl⟩)
      · rename_i hheld
        unfold advance
        simp only []
        split
        · rename_i u hnext
          obtain ⟨hlt, hbetween⟩ := tnext_eq_some ha hnext
          have hcan : ∀ g, b.op = .cancelRecall g → (∀ ⦃x⦄, tget s.groups g = some x → x.recallState ≠ .active) ∧
              ∀ v, v < u → ¬flaggedAt s v g := fun g hop => by
            obtain ⟨hnot, hclear⟩ := h.cancelling (hop ▸ hrun)
            refine ⟨hnot, fun v hv hf => ?_⟩
            obtain ⟨r, hr, -⟩ := id hf
            exact hclear v ((hbetween hr).resolve_right (by omega)) hf
          split
          · rename_i r hu
            refine recallsFit_visit (s := { s with bulk := some _ }) ha hzero hu (fun hres => ?_) rfl
              (offUnflagged.of_eq (s := s) rfl rfl h.off) (fun g k e x hx => ?_) hcan
            · rw [hres, Bool.true_and, Bool.not_eq_true', Bool.not_eq_false] at hheld
              exact hasRoom_of_ordinary hheld
            · have hop : b.op = .recallGroup g := congrArg Prod.fst (Option.some.inj e)
              exact h.running (hop ▸ hrun) hx
          · rename_i hu
            refine ⟨offUnflagged.of_eq (s := s) rfl rfl h.off, fun g k e x hx => ?_, fun g k e => ?_⟩
            · have hop : b.op = .recallGroup g := congrArg Prod.fst (Option.some.inj e)
              exact h.running (hop ▸ hrun) hx
            · have hop : b.op = .cancelRecall g := congrArg Prod.fst (Option.some.inj e)
              have hk : u = k := congrArg Prod.snd (Option.some.inj e)
              obtain ⟨hnot, hclear⟩ := hcan g hop
              refine ⟨hnot, fun v hv hf => ?_⟩
              rcases Nat.lt_or_eq_of_le hv with hv | hv
              · exact hclear v (hk ▸ hv) hf
              · obtain ⟨r, hr, -⟩ := hf
                rw [hv, ← hk] at hr
                exact absurd (hr.symm.trans hu) (fun e => nomatch e)
        · rename_i hnext
          refine recallsFit_endBulk hzero (offUnflagged.of_eq (s := s) rfl rfl h.off) fun _ g hop u hf => ?_
          obtain ⟨r, hr, -⟩ := id hf
          exact (h.cancelling (hop ▸ hrun)).2 u (tnext_eq_none hnext hr) hf
  · exact h

theorem recallsFit_admitBulk {s : State} (hzero : tget s.radios 0 = none) (h : RecallsFit s) (op : BulkOp) (wait clamped : Bool) :
    RecallsFit (admitBulk s op wait clamped).1 := by
  unfold admitBulk
  split
  · exact recallsFit_startBulk hzero h.off op
  · split
    · exact RecallsFit.of_eq (s := s) rfl rfl rfl h
    · exact h

theorem recallsFit_bulkRequest {q : Request} (hb : bulkRequest q = true) (partly : Bool) {s : State} (hzero : tget s.radios 0 = none)
    (h : RecallsFit s) : RecallsFit (meaning partly q s).1 := by
  cases q
  case roster wait form value start limit =>
    simp only [meaning, doRoster]
    split
    · exact recallsFit_admitBulk hzero h _ _ _
    · exact h
  case recallGroup wait g =>
    simp only [meaning, doRecall]
    split
    · exact recallsFit_admitBulk hzero h _ _ _
    · exact h
  case cancelRecall wait g =>
    simp only [meaning, doCancelRecall]
    split
    · exact recallsFit_admitBulk hzero h _ _ _
    · exact h
  case evacuate wait n =>
    simp only [meaning, doEvacuate]
    split
    · exact recallsFit_admitBulk hzero h _ _ _
    · exact h
  case resync wait n =>
    simp only [meaning, doResync]
    split
    · exact recallsFit_admitBulk hzero h _ _ _
    · exact h
  case purge wait => exact recallsFit_admitBulk hzero h _ _ _
  case bulkAbort scope kind =>
    simp only [meaning, doBulkAbort]
    split
    · unfold abortCurrent
      split
      · split
        · exact recallsFit_endBulk hzero h.off fun e => nomatch e
        · exact h
      · exact h
    · unfold abortWaiting
      split
      · split
        · exact RecallsFit.of_eq (s := s) rfl rfl rfl h
        · exact h
      · exact h
    · exact h
  all_goals simp [bulkRequest] at hb

/-! ### Every command -/

/-- What the unreached counts need of a state. -/
def recallsKept (s : State) : Prop := RecordsOk s ∧ Ascending s.groups ∧ FlagsOk s ∧ tget s.radios 0 = none ∧ RecallsFit s

theorem recallsKept_of_work {s t : State} (hw : Work (· ≠ 0) s t) (hfit : RecallsFit t) (h : recallsKept s) : recallsKept t := by
  obtain ⟨h1, h2, h3, h4, -⟩ := h
  refine ⟨hw.shapes h1, hw.steady.groups h2, hw.flags h1 h3, ?_, hfit⟩
  cases e : tget t.radios 0 with
  | none => rfl
  | some r =>
    rcases hw.units e with h | ⟨r0, h0⟩
    · exact absurd rfl h
    · rw [h4] at h0; cases h0

theorem recallsKept_of_stay {s t : State} (hr : t.radios = s.radios) (hg : t.groups = s.groups) (hb : t.bulk = s.bulk)
    (h : recallsKept s) : recallsKept t := by
  obtain ⟨h1, h2, h3, h4, h5⟩ := h
  refine ⟨h1.of_radios hr, by rw [hg]; exact h2, fun g x hx => ?_, by rw [hr]; exact h4, h5.of_eq hr hg (by rw [runOf, runOf, hb])⟩
  rw [show owed t = owed s by simp [owed, hr]]
  exact h3 g x (by simpa [balance, hg] using hx)

theorem recallsKept_of_none {t : State} (hr : t.radios = []) (hg : Ascending t.groups) (hf : FlagsOk t) (hb : t.bulk = none) :
    recallsKept t :=
  ⟨recordsOk_of_none hr, hg, hf, by rw [hr]; rfl, .of_idle (by rw [runOf, hb]; rfl) fun g x _ _ u ⟨r, h, _⟩ => by rw [hr] at h; cases h⟩

theorem exec_keeps_recalls {c : Instr} {s t : State} (hq : ConfigQuiet s) (h : recallsKept s) (ht : exec c s = .next t) :
    recallsKept t := by
  obtain ⟨h1, h2, h3, h4, h5⟩ := id h
  refine exec_keeps_of_events (P := recallsKept) h1.1 (fun z hr _ hg _ hb => ?_) (fun a b hr _ hg _ hb => recallsKept_of_stay hr hg hb)
    (fun a b he h => recallsKept_of_work he.work (h.2.2.2.2.event he) h)
    (fun h => recallsKept_of_work (work_stepBulk h1.1) (recallsFit_stepBulk h1.1 h4 h5) h)
    (fun q partly a hb _ h => recallsKept_of_work (work_bulkRequest hb partly a) (recallsFit_bulkRequest hb partly h.2.2.2.1 h.2.2.2.2) h)
    (fun q partly rest hs hall => ?_) h ht
  · exact recallsKept_of_none hr (by simp [hg]) (fun g x hx => by simp [balance, hg] at hx) hb
  · have hk := meaning_groupsKept (partly := partly) (s := { s with requests := rest }) hs hq hall h2
    have hr := meaning_config_records hs partly { s with requests := rest }
    have hflags : FlagsOk (meaning partly q { s with requests := rest }).1 := fun g =>
      balanced_of_groupsKept (s := { s with requests := rest }) rfl (h3 g) hk (hr.imp (·.1) (·.1))
        fun hn hne _ _ hy => meaning_clears hs hn hne hy
    rcases hr with ⟨hr, -, hb⟩ | ⟨hr, -, hb⟩
    · generalize (meaning partly q { s with requests := rest }).1 = t at *
      have back : ∀ {g y}, tget t.groups g = some y → (t.radios = [] ∧ t.bulk = none) ∨
          ∃ x, tget s.groups g = some x ∧ x.recallState = y.recallState := fun hy => by
        rcases hk.books hy with ⟨hn, hb, -⟩ | hx
        · exact .inl ⟨hn, hb⟩
        · obtain ⟨x, hx, e⟩ := Option.map_eq_some_iff.1 hx
          exact .inr ⟨x, hx, congrArg (·.2.2.2) e⟩
      have hrun : runOf t = runOf s := by rw [runOf, runOf, hb]
      refine ⟨RecordsOk.of_radios (s := s) hr h1, hk.ascend h2, hflags, by rw [hr]; exact h4,
        ⟨fun g y hy hoff u hf => ?_, fun g k e y hy => ?_, fun g k e => ⟨fun y hy => ?_, fun u hu => ?_⟩⟩⟩
      · rcases back hy with ⟨hn, -⟩ | ⟨x, hx, ex⟩
        · obtain ⟨r, hr', -⟩ := hf
          rw [hn] at hr'
          cases hr'
        · exact h5.off hx (ex.trans hoff) u ((flaggedAt_of_radios (s := s) hr u g).1 hf)
      · rcases back hy with ⟨-, hn⟩ | ⟨x, hx, ex⟩
        · rw [runOf, hn] at e; cases e
        · rw [← ex]; exact h5.running (hrun ▸ e) hx
      · rcases back hy with ⟨-, hn⟩ | ⟨x, hx, ex⟩
        · rw [runOf, hn] at e; cases e
        · rw [← ex]; exact (h5.cancelling (hrun ▸ e)).1 hx
      · rw [flaggedAt_of_radios (s := s) hr]
        exact (h5.cancelling (hrun ▸ e)).2 u hu
    · exact recallsKept_of_none hr (hk.ascend h2) hflags hb

theorem flaggedFor_eq_zero_iff {s : State} (ha : Ascending s.radios) (g : Nat) : flaggedFor s g = 0 ↔ ∀ u, ¬flaggedAt s u g := by
  rw [flaggedFor, List.countP_eq_zero]
  constructor
  · rintro h u ⟨r, hr, hf⟩
    exact h (u, r) (mem_of_tget hr) hf
  · intro h p hp hf
    exact h p.1 ⟨p.2, tget_of_mem ha hp, hf⟩

theorem recallsAgree_iff (s : State) : RecallsAgree s ↔ DirectoryOk s ∧ ConfigQuiet s ∧ recallsKept s := by
  have hunread : ∀ {g x}, tget s.groups g = some x → RecordsOk s → (balanced s (.unreached g) ↔ x.unreached = flaggedFor s g) := by
    intro g x hx h
    rw [← count_owed_unreached h]
    exact ⟨fun hb => hb _ (by simp [balance, hx]), fun e y hy => by simp only [balance, hx, Option.map_some, Option.some.injEq] at hy; rw [← hy, e]⟩
  constructor
  · rintro ⟨h1, h2, h3, h4, h5, h6, h7⟩
    refine ⟨h1, h4, h2, h3, fun g => ?_, ?_, ⟨fun g x hx hoff => ?_, fun g k e x hx => ?_, fun g k e => ⟨fun x hx => ?_, ?_⟩⟩⟩
    · cases hx : tget s.groups g with
      | none => exact fun x h => by simp [balance, hx] at h
      | some x => exact (hunread hx h2).2 (h5 (g, x) (mem_of_tget hx)).1
    · cases e : tget s.radios 0 with
      | none => rfl
      | some r => exact absurd (h1.2.2.1 0 ((mem_tkeys_iff h2.1 0).2 ⟨r, e⟩)).1 (by decide)
    · obtain ⟨e1, e2⟩ := h5 (g, x) (mem_of_tget hx)
      exact (flaggedFor_eq_zero_iff h2.1 g).1 (e1.symm.trans (e2 hoff))
    · obtain ⟨b, hb, e⟩ := Option.map_eq_some_iff.1 e
      exact h6 b g hb (congrArg Prod.fst e) x hx
    · obtain ⟨b, hb, e⟩ := Option.map_eq_some_iff.1 e
      exact (h7 b g hb (congrArg Prod.fst e)).1 x hx
    · obtain ⟨b, hb, e⟩ := Option.map_eq_some_iff.1 e
      rintro u hu ⟨r, hr, hf⟩
      have := (h7 b g hb (congrArg Prod.fst e)).2 (u, r) (mem_of_tget hr) (by rw [show b.cursor = k from congrArg Prod.snd e]; exact hu)
      rw [hf] at this
      cases this
  · rintro ⟨h1, h2, h3, h4, h5, h6, h7⟩
    refine ⟨h1, h3, h4, h2, fun p hp => ?_, fun b g hb hop x hx => ?_, fun b g hb hop => ⟨fun x hx => ?_, fun p hp hle => ?_⟩⟩
    · have hx := tget_of_mem h4 hp
      have e := (hunread hx h3).1 (h5 p.1)
      exact ⟨e, fun hoff => e.trans ((flaggedFor_eq_zero_iff h3.1 p.1).2 (h7.off hx hoff))⟩
    · exact h7.running (k := b.cursor) (by rw [runOf, hb, Option.map_some, hop]) hx
    · exact (h7.cancelling (k := b.cursor) (by rw [runOf, hb, Option.map_some, hop])).1 hx
    · exact Bool.eq_false_iff.2 fun hf =>
        (h7.cancelling (by rw [runOf, hb, Option.map_some, hop])).2 p.1 hle ⟨p.2, tget_of_mem h3.1 hp, hf⟩

/-- Settles O12: every flag that is set or cleared is posted to its group's unreached count, and none is left when a recall goes OFF. -/
theorem stepKeepsUnreachedCounts : Obligations.StepKeepsUnreachedCounts := fun _ _ h ht => by
  refine step_keeps (P := RecallsAgree) (fun _ _ _ h => h) (fun _ _ _ h => h) (fun c s t h ht => ?_) h ht
  obtain ⟨hd, hq, hk⟩ := (recallsAgree_iff s).1 h
  exact (recallsAgree_iff t).2 ⟨exec_keeps_directory hd ht, exec_keeps_quiet hq ht, exec_keeps_recalls hq hk ht⟩

end Sys2Proof.Machine

/-! Configuration and its answers (sections 5.8, 6.2 and 10.7): what each request of site, group and parameter configuration makes of the
state, and RESTART. -/

namespace Sys2Proof.Machine

/-! ### Numbers that name records -/

theorem findSite_of_tget {s : State} {n : Nat} {x : Site} (h1 : 1 ≤ n) (h2 : n ≤ 48) (hx : tget s.sites n = some x) :
    findSite s n = some x := (if_pos ((wfSite_iff n).2 ⟨h1, h2⟩)).trans hx

theorem findSite_of_absent {s : State} {n : Nat} (h : n = 0 ∨ 48 < n ∨ tget s.sites n = none) : findSite s n = none := by
  unfold findSite
  split
  · rename_i hw
    rw [wfSite_iff] at hw
    exact h.elim (by omega) fun h => h.resolve_left (by omega)
  · rfl

theorem siteConfigured_of_tget {s : State} {n : Nat} {x : Site} (h1 : 1 ≤ n) (h2 : n ≤ 48) (hx : tget s.sites n = some x) :
    siteConfigured s n = true := by
  rw [siteConfigured, findSite_of_tget h1 h2 hx]
  rfl

theorem siteConfigured_of_absent {s : State} {n : Nat} (h : n = 0 ∨ 48 < n ∨ tget s.sites n = none) : siteConfigured s n = false := by
  rw [siteConfigured, findSite_of_absent h]
  rfl

theorem findGroup_of_tget {s : State} {g : Nat} {x : Group} (h1 : 1 ≤ g) (h2 : g ≤ 128) (hx : tget s.groups g = some x) :
    findGroup s g = some x := (if_pos ((wfGroup_iff g).2 ⟨h1, h2⟩)).trans hx

theorem findGroup_of_absent {s : State} {g : Nat} (h : g = 0 ∨ 128 < g ∨ tget s.groups g = none) : findGroup s g = none := by
  unfold findGroup
  split
  · rename_i hw
    rw [wfGroup_iff] at hw
    exact h.elim (by omega) fun h => h.resolve_left (by omega)
  · rfl

theorem groupConfigured_of_tget {s : State} {g : Nat} {x : Group} (h1 : 1 ≤ g) (h2 : g ≤ 128) (hx : tget s.groups g = some x) :
    groupConfigured s g = true := by
  rw [groupConfigured, findGroup_of_tget h1 h2 hx]
  rfl

theorem groupConfigured_of_absent {s : State} {g : Nat} (h : g = 0 ∨ 128 < g ∨ tget s.groups g = none) : groupConfigured s g = false := by
  rw [groupConfigured, findGroup_of_absent h]
  rfl

theorem findRadio_of_tget {s : State} {u : Nat} {r : Radio} (h1 : 1 ≤ u) (h2 : u ≤ 16777215) (hr : tget s.radios u = some r) :
    findRadio s u = some r := (if_pos ((wfUnit_iff u).2 ⟨h1, h2⟩)).trans hr

theorem findRadio_of_absent {s : State} {u : Nat} (h : u = 0 ∨ 16777215 < u ∨ tget s.radios u = none) : findRadio s u = none := by
  unfold findRadio
  split
  · rename_i hw
    rw [wfUnit_iff] at hw
    exact h.elim (by omega) fun h => h.resolve_left (by omega)
  · rfl

theorem findCall_of_tget {s : State} {c : Nat} {x : Call} (h1 : 1 ≤ c) (h2 : c ≤ 32) (hx : tget s.calls c = some x) :
    findCall s c = some x := (if_pos ((wfCall_iff c).2 ⟨h1, h2⟩)).trans hx

theorem findCall_of_absent {s : State} {c : Nat} (h : c = 0 ∨ 32 < c ∨ tget s.calls c = none) : findCall s c = none := by
  unfold findCall
  split
  · rename_i hw
    rw [wfCall_iff] at hw
    exact h.elim (by omega) fun h => h.resolve_left (by omega)
  · rfl

/-! ### Values in range (R103, R110) -/

theorem doneCode_eq {b : Bool} {p : Prop} [Decidable p] (h : b = true ↔ p) : doneCode b = if p then .done else .doneClamped := by
  unfold doneCode
  split <;> split <;> simp_all

theorem clampNat_eq_self {lo hi v : Nat} (h : lo ≤ hi) : clampNat lo hi v = v ↔ lo ≤ v ∧ v ≤ hi := by
  unfold clampNat
  omega

theorem clampNat_zero (hi v : Nat) : clampNat 0 hi v = min hi v := by simp [clampNat]

theorem clampBias_eq_self (b : Int) : clampBias b = b ↔ -8 ≤ b ∧ b ≤ 7 := by
  unfold clampBias clampInt
  omega

theorem inRange_iff {α : Type} [DecidableEq α] (clamp : α → α) (o : Option α) :
    inRange clamp o = true ↔ ∀ y, o = some y → clamp y = y := by
  cases o <;> simp [inRange]

/-- None of a site request's values is clamped exactly where each one present lies in its range (R103). -/
theorem siteValuesInRange_iff (c v : Option Nat) (b : Option Int) (h : Option Nat) : siteValuesInRange c v b h = true ↔
    (∀ y, c = some y → 1 ≤ y ∧ y ≤ 255) ∧ (∀ y, v = some y → 1 ≤ y ∧ y ≤ 16) ∧ (∀ y, b = some y → -8 ≤ y ∧ y ≤ 7) ∧
      ∀ y, h = some y → y ≤ 15 := by
  simp only [siteValuesInRange, Bool.and_eq_true, inRange_iff, and_assoc, clampCapacity, clampVoice, clampBias_eq_self, clampHysteresis,
    clampNat_eq_self (show 1 ≤ 255 by omega), clampNat_eq_self (show 1 ≤ 16 by omega), clampNat_eq_self (show 0 ≤ 15 by omega), Nat.zero_le,
    true_and]

theorem siteCode_eq (c v : Option Nat) (b : Option Int) (h : Option Nat)
    [Decidable ((∀ y, c = some y → 1 ≤ y ∧ y ≤ 255) ∧ (∀ y, v = some y → 1 ≤ y ∧ y ≤ 16) ∧ (∀ y, b = some y → -8 ≤ y ∧ y ≤ 7) ∧
      ∀ y, h = some y → y ≤ 15)] : doneCode (siteValuesInRange c v b h) =
    if (∀ y, c = some y → 1 ≤ y ∧ y ≤ 255) ∧ (∀ y, v = some y → 1 ≤ y ∧ y ≤ 16) ∧ (∀ y, b = some y → -8 ≤ y ∧ y ≤ 7) ∧
      ∀ y, h = some y → y ≤ 15 then .done else .doneClamped := doneCode_eq (siteValuesInRange_iff c v b h)

/-! ### DEFINE-SITE and UNDEFINE-SITE (R104, R107) -/

theorem doDefineSite_of_absent {s : State} {n : Nat} (hn : wfSite n = true) (hx : tget s.sites n = none) (c v : Option Nat)
    (b : Option Int) (h : Option Nat) (i o : Bool) : doDefineSite n c v b h i o s =
      ({ s with sites := tput s.sites n {
          state := .down, condition := none, capacity := clampCapacity (c.getD 64), count := 0, voice := clampVoice (v.getD 4),
          bias := clampBias (b.getD 0), hysteresis := clampHysteresis (h.getD 4), neighbours := [], acceptIn := i, releaseOut := o,
          overFlag := false, syncLost := false, queue := [] } }, doneCode (siteValuesInRange c v b h), .none) := by
  simp only [doDefineSite, hn, hx, if_true]

theorem doDefineSite_of_configured {s : State} {n : Nat} {x : Site} (hn : wfSite n = true) (hx : tget s.sites n = some x)
    (c v : Option Nat) (b : Option Int) (h : Option Nat) (i o : Bool) : doDefineSite n c v b h i o s =
      ({ s with sites := tput s.sites n { x with
          capacity := clampCapacity (c.getD 64), voice := clampVoice (v.getD 4), bias := clampBias (b.getD 0),
          hysteresis := clampHysteresis (h.getD 4), acceptIn := i, releaseOut := o } },
        doneCode (siteValuesInRange c v b h), .none) := by
  simp only [doDefineSite, hn, hx, if_true]

theorem doDefineSite_of_out_of_range {n : Nat} (hn : wfSite n = false) (c v : Option Nat) (b : Option Int) (h : Option Nat)
    (i o : Bool) (s : State) : doDefineSite n c v b h i o s = (s, .noSuch, .none) := by
  simp [doDefineSite, hn]

theorem wfSite_eq_false_iff (n : Nat) : wfSite n = false ↔ n = 0 ∨ 48 < n := by
  rw [← Bool.not_eq_true, wfSite_iff]
  omega

/-- Settles O48: the record that each of the two requests leaves, by whether the site is configured. -/
theorem sitesAreDefinedAndUndefined : Obligations.SitesAreDefinedAndUndefined := by
  intro s e rest n hp
  refine ⟨fun c v h b i o hr => ⟨fun h1 h48 hx => ?_, fun x h1 h48 hx => ?_, fun hn => ?_⟩,
    fun hr => ⟨fun h1 h48 hx => ?_, fun hn => ?_⟩⟩
  · rw [exec_defineSite_ready hr hp, doDefineSite_of_absent ((wfSite_iff n).2 ⟨h1, h48⟩) (by exact hx), siteCode_eq]
    simp only [clampHysteresis, clampNat_zero]
    rfl
  · rw [exec_defineSite_ready hr hp, doDefineSite_of_configured ((wfSite_iff n).2 ⟨h1, h48⟩) (by exact hx), siteCode_eq]
    simp only [clampHysteresis, clampNat_zero]
    rfl
  · rw [exec_defineSite_ready hr hp, doDefineSite_of_out_of_range ((wfSite_eq_false_iff n).2 hn)]
    rfl
  · exact exec_undefineSite_done hr hp ((siteConfigured_iff s n).2 ⟨(wfSite_iff n).2 ⟨h1, h48⟩, hx⟩)
  · have hc : siteConfigured { s with requests := rest } n = false := siteConfigured_of_absent hn
    rw [exec_undefineSite_ready hr hp, doUndefineSite, hc]
    rfl

/-! ### SET-SITE and SET-NEIGHBOURS (R105, R106) -/

/-- A site with the values that a SET-SITE carries. -/
def siteChanged (x : Site) (c v : Option Nat) (b : Option Int) (h : Option Nat) (i o : Option Bool) : Site :=
  { x with
    capacity := (c.map clampCapacity).getD x.capacity, voice := (v.map clampVoice).getD x.voice
    bias := (b.map clampBias).getD x.bias, hysteresis := (h.map clampHysteresis).getD x.hysteresis
    acceptIn := i.getD x.acceptIn, releaseOut := o.getD x.releaseOut }

theorem doSetSite_of_refused {s : State} {n : Nat} {x : Site} {v : Option Nat} (hx : findSite s n = some x)
    (hv : voiceRefused s x v = true) (c : Option Nat) (b : Option Int) (h : Option Nat) (i o : Option Bool) :
    doSetSite n c v b h i o s = (s, .wrongPhase, .none) := by
  simp only [doSetSite, hx, hv, if_true]

theorem doSetSite_of_found {s : State} {n : Nat} {x : Site} {v : Option Nat} (hx : findSite s n = some x)
    (hv : voiceRefused s x v = false) (c : Option Nat) (b : Option Int) (h : Option Nat) (i o : Option Bool) :
    doSetSite n c v b h i o s =
      (settleOver { s with sites := tput s.sites n (siteChanged x c v b h i o) } n, doneCode (siteValuesInRange c v b h), .none) := by
  simp only [doSetSite, hx, hv, modSite, tmod_of_some _ _ (tget_of_findSite hx)]
  rfl

theorem voiceRefused_eq_false {s : State} {x : Site} {v : Option Nat}
    (h : ∀ w, v = some w → s.phase = .config ∨ min 16 (max 1 w) = x.voice) : voiceRefused s x v = false := by
  unfold voiceRefused
  split
  · rename_i w hp
    rcases h w rfl with h | h
    · rw [h] at hp; cases hp
    · exact bne_eq_false_iff_eq.2 h
  · rfl

/-- The over flag after SET-SITE, by how the count stands to the capacity (R98). -/
theorem settleOver_below {s : State} {n : Nat} {x : Site} (hx : tget s.sites n = some x) (h : x.count < x.capacity) :
    settleOver s n = { s with sites := tput s.sites n { x with overFlag := false } } := by
  have hle : ¬x.capacity < x.count := by omega
  simp only [settleOver, hx, hle, if_false, modSite, tmod_of_some _ _ hx, clearOver, h, if_true]

theorem settleOver_at {s : State} {n : Nat} {x : Site} (hx : tget s.sites n = some x) (h : x.count = x.capacity) :
    settleOver s n = { s with sites := tput s.sites n x } := by
  have hle : ¬x.capacity < x.count := by omega
  have hge : ¬x.count < x.capacity := by omega
  simp only [settleOver, hx, hle, if_false, modSite, tmod_of_some _ _ hx, clearOver, hge]

theorem settleOver_above_set {s : State} {n : Nat} {x : Site} (hx : tget s.sites n = some x) (h : x.capacity < x.count)
    (hf : x.overFlag = true) : settleOver s n = s := by
  simp only [settleOver, hx, h, if_true, setOver, hf]

theorem settleOver_above_clear {s : State} {n : Nat} {x : Site} (hx : tget s.sites n = some x) (h : x.capacity < x.count)
    (hf : x.overFlag = false) (hroom : s.notices.length < 64) :
    settleOver s n = { s with
      sites := tput s.sites n { x with overFlag := true }
      notices := s.notices ++ [{ time := s.partTime, body := .siteOver n x.count x.capacity }] } := by
  rw [settleOver, hx]
  simp only [h, if_true, setOver, hx, hf, Bool.false_eq_true, if_false]
  rw [raise_of_room (by exact hroom), modSite, tmod_of_some _ _ hx]

theorem settleOver_tput_below {s : State} {n : Nat} {y : Site} (h : y.count < y.capacity) :
    settleOver { s with sites := tput s.sites n y } n = { s with sites := tput s.sites n { y with overFlag := false } } := by
  rw [settleOver_below (s := { s with sites := tput s.sites n y }) (tget_tput_self ..) h, tput_tput]

theorem settleOver_tput_at {s : State} {n : Nat} {y : Site} (h : y.count = y.capacity) :
    settleOver { s with sites := tput s.sites n y } n = { s with sites := tput s.sites n y } := by
  rw [settleOver_at (s := { s with sites := tput s.sites n y }) (tget_tput_self ..) h, tput_tput]

theorem settleOver_tput_above_set {s : State} {n : Nat} {y : Site} (h : y.capacity < y.count) (hf : y.overFlag = true) :
    settleOver { s with sites := tput s.sites n y } n = { s with sites := tput s.sites n y } :=
  settleOver_above_set (s := { s with sites := tput s.sites n y }) (tget_tput_self ..) h hf

theorem settleOver_tput_above_clear {s : State} {n : Nat} {y : Site} (h : y.capacity < y.count) (hf : y.overFlag = false)
    (hroom : s.notices.length < 64) : settleOver { s with sites := tput s.sites n y } n =
      { s with
        sites := tput s.sites n { y with overFlag := true }
        notices := s.notices ++ [{ time := s.partTime, body := .siteOver n y.count y.capacity }] } := by
  rw [settleOver_above_clear (s := { s with sites := tput s.sites n y }) (tget_tput_self ..) h hf hroom, tput_tput]

section
variable {s : State} {e : RequestEntry} {rest : List RequestEntry} {n : Nat} {x : Site} {c v : Option Nat} {b : Option Int}
  {h : Option Nat} {i o : Option Bool}

/-- SET-SITE's whole effect and answer, where the voice channels do not refuse it. -/
theorem exec_setSite_done (hr : requestReady s e rest (.setSite n c v b h i o)) (h1 : 1 ≤ n) (h48 : n ≤ 48)
    (hx : tget s.sites n = some x) (hv : ∀ w, v = some w → s.phase = .config ∨ min 16 (max 1 w) = x.voice) :
    exec .setSite s = .next (finished e (settleOver { s with requests := rest, sites := tput s.sites n (siteChanged x c v b h i o) } n,
      doneCode (siteValuesInRange c v b h), .none)) := by
  rw [exec_setSite_ready hr, doSetSite_of_found (findSite_of_tget h1 h48 (by exact hx)) (voiceRefused_eq_false (by exact hv))]

theorem exec_setSite_below (hr : requestReady s e rest (.setSite n c v b h i o)) (h1 : 1 ≤ n) (h48 : n ≤ 48)
    (hx : tget s.sites n = some x) (hv : ∀ w, v = some w → s.phase = .config ∨ min 16 (max 1 w) = x.voice)
    (hlt : x.count < (siteChanged x c v b h i o).capacity) :
    exec .setSite s = .next { answered s e rest (doneCode (siteValuesInRange c v b h)) .none with
      sites := tput s.sites n { siteChanged x c v b h i o with overFlag := false } } := by
  rw [exec_setSite_done hr h1 h48 hx hv, settleOver_tput_below (s := { s with requests := rest }) hlt]
  rfl

theorem exec_setSite_same (hr : requestReady s e rest (.setSite n c v b h i o)) (h1 : 1 ≤ n) (h48 : n ≤ 48)
    (hx : tget s.sites n = some x) (hv : ∀ w, v = some w → s.phase = .config ∨ min 16 (max 1 w) = x.voice)
    (hsame : x.count = (siteChanged x c v b h i o).capacity ∨ ((siteChanged x c v b h i o).capacity < x.count ∧ x.overFlag = true)) :
    exec .setSite s = .next { answered s e rest (doneCode (siteValuesInRange c v b h)) .none with
      sites := tput s.sites n (siteChanged x c v b h i o) } := by
  rw [exec_setSite_done hr h1 h48 hx hv]
  rcases hsame with heq | ⟨hlt, hf⟩
  · rw [settleOver_tput_at (s := { s with requests := rest }) heq]
    rfl
  · rw [settleOver_tput_above_set (s := { s with requests := rest }) hlt hf]
    rfl

theorem exec_setSite_raised (hr : requestReady s e rest (.setSite n c v b h i o)) (h1 : 1 ≤ n) (h48 : n ≤ 48)
    (hx : tget s.sites n = some x) (hv : ∀ w, v = some w → s.phase = .config ∨ min 16 (max 1 w) = x.voice)
    (hlt : (siteChanged x c v b h i o).capacity < x.count) (hf : x.overFlag = false) (hroom : s.notices.length < 64) :
    exec .setSite s = .next { answered s e rest (doneCode (siteValuesInRange c v b h)) .none with
      sites := tput s.sites n { siteChanged x c v b h i o with overFlag := true }
      notices := s.notices ++ [{ time := s.partTime, body := .siteOver n x.count (siteChanged x c v b h i o).capacity }] } := by
  rw [exec_setSite_done hr h1 h48 hx hv, settleOver_tput_above_clear (s := { s with requests := rest }) hlt hf hroom]
  rfl

theorem siteChanged_eq (x : Site) (c v : Option Nat) (b : Option Int) (h : Option Nat) (i o : Option Bool) : siteChanged x c v b h i o =
    { x with
      capacity := (c.map fun y => min 255 (max 1 y)).getD x.capacity, voice := (v.map fun y => min 16 (max 1 y)).getD x.voice
      bias := (b.map fun y => min 7 (max (-8) y)).getD x.bias, hysteresis := (h.map fun y => min 15 y).getD x.hysteresis
      acceptIn := i.getD x.acceptIn, releaseOut := o.getD x.releaseOut } := by
  have hh : clampHysteresis = fun y => min 15 y := funext fun y => clampNat_zero 15 y
  rw [siteChanged, hh]
  rfl

/-- SET-SITE of a capacity alone. -/
theorem siteChanged_capacity (x : Site) {c : Nat} (h1 : 1 ≤ c) (h255 : c ≤ 255) :
    siteChanged x (some c) none none none none none = { x with capacity := c } := by
  have : clampCapacity c = c := (clampNat_eq_self (by omega)).2 ⟨h1, h255⟩
  simp only [siteChanged, Option.map_some, Option.map_none, Option.getD_some, Option.getD_none, this]

theorem siteValuesInRange_capacity {c : Nat} (h1 : 1 ≤ c) (h255 : c ≤ 255) : siteValuesInRange (some c) none none none = true := by
  rw [siteValuesInRange_iff]
  simp [h1, h255]

/-- What a filtered neighbour list holds (R106). -/
theorem filterNeighbours_spec (s : State) (n : Nat) (l : List Nat) :
    (filterNeighbours s n l).Sublist l ∧ (filterNeighbours s n l).Nodup ∧ (filterNeighbours s n l).length ≤ 6 ∧
      (∀ m ∈ filterNeighbours s n l, m ≠ n ∧ wfSite m = true ∧ tget s.sites m ≠ none) ∧
      ((filterNeighbours s n l).length < 6 → ∀ m ∈ l, m ≠ n → wfSite m = true → tget s.sites m ≠ none → m ∈ filterNeighbours s n l) := by
  obtain ⟨hsub, hnd, hlen, hall, hfull⟩ := keepFirst_nil_spec (fun m => siteConfigured s m && m != n) Config.maxNeighbours l
  simp only [Bool.and_eq_true, siteConfigured_iff, bne_iff_ne] at hall hfull
  exact ⟨hsub, hnd, hlen, fun m hm => ⟨(hall m hm).2, (hall m hm).1⟩, fun hlt m hm hne hw hc => hfull hlt m hm ⟨⟨hw, hc⟩, hne⟩⟩

end

/-- Settles O49: the changed record, the over flag by the three places of the count, and the filtered neighbour list. -/
theorem sitesAreChanged : Obligations.SitesAreChanged := by
  refine ⟨fun s e rest n => ⟨fun c v h b i o hr => ⟨fun hn => ?_, fun x h1 h48 hx hv => ?_⟩, fun list hr hn => ?_⟩,
    fun s e rest n x h1 h48 hx => ⟨fun c hc1 hc255 hr => ?_, fun c h v b i o hr hp hv => ?_, fun b h i o hb1 hb7 hh heq hr => ?_,
      fun list hr => ?_⟩⟩
  · have hf : findSite { s with requests := rest } n = none := findSite_of_absent hn
    rw [exec_setSite_ready hr, doSetSite, hf]
    rfl
  · have hcap : (siteChanged x c v b h i o).capacity = (c.map fun y => min 255 (max 1 y)).getD x.capacity := by rw [siteChanged_eq]
    intro cap code changed
    refine ⟨fun hlt => ?_, fun heq => ?_, fun hlt hf => ?_, fun hlt hf hroom => ?_⟩
    · rw [exec_setSite_below hr h1 h48 hx hv (by rw [hcap]; exact hlt), siteChanged_eq, siteCode_eq]
    · rw [exec_setSite_same hr h1 h48 hx hv (.inl (by rw [hcap]; exact heq)), siteChanged_eq, siteCode_eq]
    · rw [exec_setSite_same hr h1 h48 hx hv (.inr ⟨by rw [hcap]; exact hlt, hf⟩), siteChanged_eq, siteCode_eq, ← hf]
    · rw [exec_setSite_raised hr h1 h48 hx hv (by rw [hcap]; exact hlt) hf hroom, siteChanged_eq, siteCode_eq]
      rfl
  · have hc : siteConfigured { s with requests := rest } n = false := siteConfigured_of_absent hn
    rw [exec_setNeighbours_ready hr, doSetNeighbours, hc]
    rfl
  · have hvoice : ∀ w, (none : Option Nat) = some w → s.phase = .config ∨ min 16 (max 1 w) = x.voice := fun _ e => nomatch e
    have hcode : doneCode (siteValuesInRange (some c) none none none) = .done := by rw [siteValuesInRange_capacity hc1 hc255]; rfl
    have hsite := siteChanged_capacity x hc1 hc255
    refine ⟨fun hlt => ?_, fun heq => ?_, fun hlt hf => ?_, fun hlt hf hroom => ?_⟩
    · rw [exec_setSite_below hr h1 h48 hx hvoice (by rw [hsite]; exact hlt), hsite, hcode]
    · rw [exec_setSite_same hr h1 h48 hx hvoice (.inl (by rw [hsite]; exact heq)), hsite, hcode]
    · rw [exec_setSite_same hr h1 h48 hx hvoice (.inr ⟨by rw [hsite]; exact hlt, hf⟩), hsite, hcode]
    · rw [exec_setSite_raised hr h1 h48 hx hvoice (by rw [hsite]; exact hlt) hf hroom, hsite, hcode]
  · have href : voiceRefused { s with requests := rest } x (some v) = true := by
      simp only [voiceRefused, hp]
      exact bne_iff_ne.2 hv
    rw [exec_setSite_ready hr, doSetSite_of_refused (findSite_of_tget h1 h48 (by exact hx)) href]
    rfl
  · have hsite : siteChanged x none none (some b) (some h) (some i) (some o) =
        { x with bias := b, hysteresis := h, acceptIn := i, releaseOut := o } := by
      have hb : clampBias b = b := (clampBias_eq_self b).2 ⟨hb1, hb7⟩
      have hh' : clampHysteresis h = h := (clampNat_eq_self (by omega)).2 ⟨Nat.zero_le _, hh⟩
      simp only [siteChanged, Option.map_some, Option.map_none, Option.getD_some, Option.getD_none, hb, hh']
    have hin : siteValuesInRange none none (some b) (some h) = true := (siteValuesInRange_iff ..).2
      (by simp [hb1, hb7, hh])
    rw [exec_setSite_same hr h1 h48 hx (fun _ e => nomatch e) (.inl (by rw [hsite]; exact heq)), hsite, hin]
    rfl
  · have hc : siteConfigured { s with requests := rest } n = true := siteConfigured_of_tget h1 h48 hx
    obtain ⟨hsub, hnd, hlen, hall, hfull⟩ := filterNeighbours_spec { s with requests := rest } n list
    refine ⟨filterNeighbours { s with requests := rest } n list, _, ?_, hsub, hnd, hlen, hall, hfull, rfl⟩
    rw [exec_setNeighbours_ready hr, doSetNeighbours, hc, if_pos rfl]
    simp only [modSite, tmod_of_some _ _ hx, kept_eq_iff hsub, doneCode, decide_eq_true_eq]
    rfl

/-! ### DEFINE-GROUP and SET-GROUP (R111, R112) -/

theorem groupPriority_eq (p : Nat) : groupPriority p = if p = 1 then .routine else if p = 2 then .tactical else .command := by
  unfold groupPriority
  split <;> simp_all

theorem priorityAsGiven_iff (p : Nat) : priorityAsGiven p = true ↔ 1 ≤ p ∧ p ≤ 3 := by simp [priorityAsGiven]

/-- A list of distinct configured sites that fills its size holds every site number. -/
theorem mem_of_all_sites {l : List Nat} (hnd : l.Nodup) (hall : ∀ n ∈ l, wfSite n = true) (hlen : 48 ≤ l.length) {n : Nat}
    (hn : wfSite n = true) : n ∈ l := by
  have hsub : l.toFinset ⊆ Finset.Icc 1 48 := fun m hm => by
    rw [List.mem_toFinset] at hm
    exact Finset.mem_Icc.2 ((wfSite_iff m).1 (hall m hm))
  have heq : l.toFinset = Finset.Icc 1 48 := Finset.eq_of_subset_of_card_le hsub (by
    rw [List.toFinset_card_of_nodup hnd]
    simpa using hlen)
  rw [← List.mem_toFinset, heq]
  exact Finset.mem_Icc.2 ((wfSite_iff n).1 hn)

/-- A filtered fixed site set keeps exactly the configured sites of the list (R110). -/
theorem filterFixed_spec (s : State) (l : List Nat) : (filterFixed s l).Sublist l ∧ (filterFixed s l).Nodup ∧
    ∀ n, n ∈ filterFixed s l ↔ n ∈ l ∧ wfSite n = true ∧ tget s.sites n ≠ none := by
  obtain ⟨hsub, hnd, hlen, hall, hfull⟩ := keepFirst_nil_spec (siteConfigured s) Config.maxSite l
  refine ⟨hsub, hnd, fun n => ⟨fun hn => ⟨hsub.subset hn, (siteConfigured_iff s n).1 (hall n hn)⟩, fun ⟨hl, hc⟩ => ?_⟩⟩
  by_cases hlt : (keepFirst (siteConfigured s) Config.maxSite [] l).length < 48
  · exact hfull hlt n hl ((siteConfigured_iff s n).2 hc)
  · exact mem_of_all_sites hnd (fun m hm => ((siteConfigured_iff s m).1 (hall m hm)).1) (by omega) hc.1

theorem doDefineGroup_of_absent {s : State} {g : Nat} (hg : wfGroup g = true) (hx : tget s.groups g = none) (p : Nat) (l : List Nat) :
    doDefineGroup g p l s = ({ s with groups := tput s.groups g {
      priority := groupPriority p, fixed := filterFixed s l, counts := [], total := 0, recallState := .off, unreached := 0,
      activeCall := none } }, doneCode (priorityAsGiven p && (filterFixed s l).length == l.length), .none) := by
  simp only [doDefineGroup, hg, hx, if_true]

theorem doDefineGroup_of_configured {s : State} {g : Nat} {x : Group} (hg : wfGroup g = true) (hx : tget s.groups g = some x)
    (p : Nat) (l : List Nat) : doDefineGroup g p l s =
      ({ s with groups := tput s.groups g { x with priority := groupPriority p, fixed := filterFixed s l } },
        doneCode (priorityAsGiven p && (filterFixed s l).length == l.length), .none) := by
  simp only [doDefineGroup, hg, hx, if_true]

theorem doSetGroup_of_configured {s : State} {g : Nat} {x : Group} (hc : groupConfigured s g = true) (hx : tget s.groups g = some x)
    (p : Option Nat) (l : Option (List Nat)) : doSetGroup g p l s =
      ({ s with groups := tput s.groups g { x with
          priority := (p.map groupPriority).getD x.priority, fixed := (l.map (filterFixed s)).getD x.fixed } },
        doneCode ((p.map priorityAsGiven).getD true && (l.map (filterFixed s)).map List.length == l.map List.length), .none) := by
  simp only [doSetGroup, hc, if_true, modGroup, tmod_of_some _ _ hx]

theorem setGroup_given_iff (s : State) (p : Option Nat) (l : Option (List Nat)) (fixed : List Nat) :
    ((p.map priorityAsGiven).getD true && (l.map (filterFixed s)).map List.length == l.map List.length) = true ↔
      (∀ q, p = some q → 1 ≤ q ∧ q ≤ 3) ∧ ∀ k, l = some k → (l.map (filterFixed s)).getD fixed = k := by
  rw [Bool.and_eq_true]
  refine and_congr ?_ ?_
  · cases p <;> simp [priorityAsGiven_iff]
  · cases l with
    | none => simp
    | some k =>
      obtain ⟨hsub, -, -⟩ := filterFixed_spec s k
      have := kept_eq_iff hsub
      simp only [Option.map_some, Option.getD_some, Option.some.injEq, forall_eq', beq_iff_eq] at this ⊢
      exact ⟨fun e => hsub.eq_of_length e, fun e => by rw [e]⟩

/-- Settles O51: the record that each of the two requests leaves, and the filtered fixed set. -/
theorem groupsAreDefinedAndChanged : Obligations.GroupsAreDefinedAndChanged := by
  have setDone : ∀ {s : State} {e : RequestEntry} {rest : List RequestEntry} {g : Nat} {p : Option Nat} {l : Option (List Nat)} {x : Group},
      requestReady s e rest (.setGroup g p l) → 1 ≤ g → g ≤ 128 → tget s.groups g = some x →
      exec .setGroup s = .next { answered s e rest (doneCode ((p.map priorityAsGiven).getD true &&
          (l.map (filterFixed s)).map List.length == l.map List.length)) .none with
        groups := tput s.groups g { x with
          priority := (p.map groupPriority).getD x.priority, fixed := (l.map (filterFixed s)).getD x.fixed } } := by
    intro s e rest g p l x hr h1 h128 hx
    rw [exec_setGroup_ready hr, doSetGroup_of_configured (s := { s with requests := rest }) (groupConfigured_of_tget h1 h128 hx) hx]
    rfl
  refine ⟨fun s e rest g => ⟨fun p l hp hr hg => ?_, fun p l hr => ⟨fun hg => ?_, fun x h1 h128 hx => ?_⟩⟩,
    fun s e rest g h1 h128 => ⟨fun p l hp hr => ?_, fun x p hx hr => ?_, fun x hx hr => ?_⟩⟩
  · have hf : wfGroup g = false := by rw [← Bool.not_eq_true, wfGroup_iff]; omega
    rw [exec_defineGroup_ready hr hp, doDefineGroup, hf]
    rfl
  · have hc : groupConfigured { s with requests := rest } g = false := groupConfigured_of_absent hg
    rw [exec_setGroup_ready hr, doSetGroup, hc]
    rfl
  · refine ⟨(l.map (filterFixed s)).getD x.fixed, _, ?_, fun e => by rw [e]; rfl, fun k e => ?_, rfl⟩
    · rw [setDone hr h1 h128 hx, doneCode_eq (setGroup_given_iff s p l x.fixed)]
      cases p with
      | none => rfl
      | some q => simp only [Option.map_some, Option.getD_some, groupPriority_eq]
    · rw [e]
      exact filterFixed_spec s k
  · obtain ⟨hsub, hnd, hmem⟩ := filterFixed_spec { s with requests := rest } l
    have hw : wfGroup g = true := (wfGroup_iff g).2 ⟨h1, h128⟩
    have hcode := doneCode_eq (b := priorityAsGiven p && (filterFixed { s with requests := rest } l).length == l.length)
      (p := (1 ≤ p ∧ p ≤ 3) ∧ filterFixed { s with requests := rest } l = l)
      (by rw [Bool.and_eq_true, priorityAsGiven_iff, kept_eq_iff hsub, decide_eq_true_eq])
    refine ⟨filterFixed { s with requests := rest } l, _, hsub, hnd, hmem, rfl, fun hx => ?_, fun x hx => ?_⟩
    · rw [exec_defineGroup_ready hr hp, doDefineGroup_of_absent hw (by exact hx), hcode, groupPriority_eq]
      rfl
    · rw [exec_defineGroup_ready hr hp, doDefineGroup_of_configured hw (by exact hx), hcode, groupPriority_eq]
      rfl
  · rw [setDone hr h1 h128 hx, doneCode_eq (p := 1 ≤ p ∧ p ≤ 3) (by simp [priorityAsGiven_iff])]
    simp only [Option.map_some, Option.getD_some, groupPriority_eq]
    rfl
  · exact setDone hr h1 h128 hx

/-! ### Parameters, OPEN and RESTART (R188, R189, R191) -/

/-- SET-PARAMETER of one of the ten: the value in force is the value clamped to the range. -/
theorem exec_setParameter_done {s : State} {e : RequestEntry} {rest : List RequestEntry} {k v lo hi : Nat}
    (hr : requestReady s e rest (.setParameter k v)) (hk : paramRange k = some (lo, hi)) (hle : lo ≤ hi) :
    exec .setParameter s = .next { answered s e rest (if lo ≤ v ∧ v ≤ hi then .done else .doneClamped) (.value (clampNat lo hi v)) with
      params := setParam s.params k (clampNat lo hi v) } := by
  have hcode : doneCode (clampNat lo hi v == v) = if lo ≤ v ∧ v ≤ hi then .done else .doneClamped :=
    doneCode_eq (by rw [beq_iff_eq]; exact clampNat_eq_self hle)
  rw [← hcode, exec_setParameter_ready hr, doSetParameter, hk]
  rfl

/-- SET-PARAMETER of a parameter whose range begins at 0. -/
theorem exec_setParameter_from_zero {s : State} {e : RequestEntry} {rest : List RequestEntry} {k v hi : Nat}
    (hr : requestReady s e rest (.setParameter k v)) (hk : paramRange k = some (0, hi)) :
    exec .setParameter s = .next { answered s e rest (if v ≤ hi then .done else .doneClamped) (.value (min hi v)) with
      params := setParam s.params k (min hi v) } := by
  rw [exec_setParameter_done hr hk (Nat.zero_le _), clampNat_zero]
  simp only [Nat.zero_le, true_and]

theorem paramRange_of_none {k : Nat} (h : k = 0 ∨ 10 < k) : paramRange k = none := by
  unfold paramRange
  split <;> simp at h ⊢

/-- Settles O52: each of the ten parameters by its range in R188's table, and OPEN by whether a site is configured. -/
theorem parametersAreSetAndServiceOpens : Obligations.ParametersAreSetAndServiceOpens := by
  intro s e rest
  refine ⟨fun k v hr => ⟨?_, ?_, ?_, ?_, ?_, ?_, ?_, ?_, ?_, ?_, fun hk => ?_⟩, fun hr hp => ⟨fun hs => ?_, fun hs => ?_⟩⟩
  case refine_6 => rintro rfl; exact exec_setParameter_from_zero hr rfl
  case refine_9 => rintro rfl; exact exec_setParameter_from_zero hr rfl
  case refine_11 =>
    rw [exec_setParameter_ready hr, doSetParameter, paramRange_of_none hk]
    rfl
  case refine_12 =>
    have he : s.sites.isEmpty = false := by simpa using hs
    rw [exec_openService_ready hr hp]
    simp only [doOpen, he]
    rfl
  case refine_13 =>
    have he : s.sites.isEmpty = true := by rw [hs]; rfl
    rw [exec_openService_ready hr hp]
    simp only [doOpen, he]
    rfl
  all_goals rintro rfl; exact exec_setParameter_done hr rfl (by decide)

/-- Settles O53: RESTART's state field by field. -/
theorem restartKeepsOnlyDefinitions : Obligations.RestartKeepsOnlyDefinitions := by
  intro s e rest partly hr
  rw [exec_restart_ready hr]
  have hres : residueAfter { s with requests := rest } partly =
      if s.siteResidue.isSome then s.siteResidue else if partly then s.outbound.head? else none := by
    unfold residueAfter
    cases s.siteResidue <;> rfl
  simp only [doRestart, hres]
  rfl

end Sys2Proof.Machine

/-! What dispatch looks up (sections 8.2, 8.4 and 9.3), and the clearing of an emergency, of a LOST record and of a regroup (section
8.3). -/

namespace Sys2Proof.Machine

/-! ### Lookups (R154 to R157) -/

/-- Settles O54: the reply's fields, by the state of the record. -/
theorem locateAnswersTheRecord : Obligations.LocateAnswersTheRecord := by
  intro s e rest u hr
  refine ⟨fun hu => ?_, fun r h1 h2 hx => ?_⟩
  · have hf : findRadio { s with requests := rest } u = none := findRadio_of_absent hu
    rw [exec_locate_ready hr, doLocate, hf]
    rfl
  · have hf : findRadio { s with requests := rest } u = some r := findRadio_of_tget h1 h2 hx
    refine ⟨locateReply { s with requests := rest } u r, ?_, rfl, rfl, rfl, rfl, rfl, rfl, rfl, rfl, rfl, rfl, rfl, ?_,
      fun a l hs => ?_, fun a p l k hs => ?_, fun a c h hs => ?_⟩
    · rw [exec_locate_ready hr, doLocate, hf]
      rfl
    · simp only [locateReply, List.map_map]
      rfl
    · simp only [locateReply, hs, deadlineReply, handoverReply, and_true]
      rfl
    · simp only [locateReply, hs, deadlineReply, handoverReply]
      exact ⟨rfl, rfl⟩
    · simp only [locateReply, hs, deadlineReply, true_and]
      rfl

/-- A site is of the carry set exactly where it works and is fixed or has members (R117). -/
theorem mem_carrySet {s : State} {g : Nat} {x : Group} (hx : tget s.groups g = some x) (j : Nat) :
    j ∈ carrySet s g ↔ siteWorks s j = true ∧ (j ∈ x.fixed ∨ 0 < memberCount s g j) := by
  simp only [carrySet, hx, List.mem_filter, Bool.and_eq_true, Bool.or_eq_true, List.contains_eq_mem, decide_eq_true_eq]
  refine ⟨fun h => h.2, fun h => ⟨?_, h⟩⟩
  have hworks := h.1
  unfold siteWorks at hworks
  split at hworks
  · rename_i z hz
    exact List.mem_map_of_mem (mem_of_tget hz)
  · cases hworks

/-- Settles O55: each reply's fields, and the carry set by its members. -/
theorem queriesAnswerTheRecords : Obligations.QueriesAnswerTheRecords := by
  intro s e rest n
  refine ⟨fun hr => ⟨fun hn => ?_, fun x h1 h2 hx => ?_⟩, fun hr => ⟨fun hn => ?_, fun x h1 h2 hx => ?_⟩,
    fun hr => ⟨fun hn => ?_, fun x h1 h2 hx => ?_⟩⟩
  · have hf : findSite { s with requests := rest } n = none := findSite_of_absent hn
    rw [exec_siteQuery_ready hr, doSiteQuery, hf]
    rfl
  · have hf : findSite { s with requests := rest } n = some x := findSite_of_tget h1 h2 hx
    refine ⟨siteReply { s with requests := rest } n x, ?_, rfl, rfl, rfl, rfl, rfl, rfl, rfl, rfl, rfl, rfl, rfl, rfl, rfl, rfl, rfl,
      fun d hs => ?_, fun hs => ?_⟩
    · rw [exec_siteQuery_ready hr, doSiteQuery, hf]
      rfl
    all_goals rcases hs with hs | hs <;> simp only [siteReply, hs] <;> rfl
  · have hf : findGroup { s with requests := rest } n = none := findGroup_of_absent hn
    rw [exec_groupQuery_ready hr, doGroupQuery, hf]
    rfl
  · have hf : findGroup { s with requests := rest } n = some x := findGroup_of_tget h1 h2 hx
    refine ⟨groupReply { s with requests := rest } n x, ?_, rfl, rfl, rfl, rfl, rfl, rfl, rfl, rfl, ?_⟩
    · rw [exec_groupQuery_ready hr, doGroupQuery, hf]
      rfl
    · exact mem_carrySet (s := { s with requests := rest }) hx
  · have hf : findCall { s with requests := rest } n = none := findCall_of_absent hn
    rw [exec_callQuery_ready hr, doCallQuery, hf]
    rfl
  · have hf : findCall { s with requests := rest } n = some x := findCall_of_tget h1 h2 hx
    refine ⟨callReply { s with requests := rest } n x, ?_, rfl, rfl, rfl, rfl, rfl, rfl, ?_, fun hs => ?_, fun d hs => ?_⟩
    · rw [exec_callQuery_ready hr, doCallQuery, hf]
      rfl
    · simp only [callReply, List.length_map]
    · simp only [callReply, hs]
    · simp only [callReply, hs]
      rfl

/-! ### Statuses (R162, R163, R172) -/

/-- Settles O56: what each of the three leaves beside its answer. -/
theorem statusRequestsAnswerThePart : Obligations.StatusRequestsAnswerThePart := by
  intro s e rest
  refine ⟨fun hr => ?_, fun hr => ⟨fun x more hx => ?_, fun hn => ?_⟩, fun hr => ?_⟩
  · rw [exec_bulkStatus_ready hr]
    rfl
  · exact exec_nextNotice_of_cons hr hx
  · rw [exec_nextNotice_ready hr]
    have hd : doNextNotice { s with requests := rest } = ({ s with requests := rest }, .none, .none) := by simp only [doNextNotice, hn]
    rw [hd]
    rfl
  · rw [exec_portStatus_ready hr]
    rfl

/-! ### CLEAR-EMERGENCY, CLEAR-LOST and CLEAR-REGROUP (R18, R24, R121) -/

/-- The three requests find no record of an absent unit. -/
theorem clearRequest_noSuch {s : State} {u : Nat} (hf : findRadio s u = none) :
    doClearEmergency u s = (s, .noSuch, .none) ∧ doClearLost u s = (s, .noSuch, .none) ∧ doClearRegroup u s = (s, .noSuch, .none) := by
  simp only [doClearEmergency, doClearLost, doClearRegroup, hf, and_self]

theorem doClearEmergency_of_active {s : State} {u : Nat} {r : Radio} (hf : findRadio s u = some r) (he : r.emergency ≠ none) :
    doClearEmergency u s = (if r.state = .joining ∧ r.burst = none then freeRecord { s with
        radios := tput s.radios u { r with emergency := none } } u else { s with
        radios := tput s.radios u { r with emergency := none } }, .done, .none) := by
  have hn : r.emergency.isNone = false := by
    rw [← Bool.not_eq_true, Option.isNone_iff_eq_none]; exact he
  simp only [doClearEmergency, hf, hn, Bool.false_eq_true, if_false, modRadio, tmod_of_some _ _ (tget_of_findRadio hf)]

theorem doClearRegroup_of_found {s : State} {u : Nat} {r : Radio} (hf : findRadio s u = some r) :
    doClearRegroup u s = ({ s with radios := tput s.radios u { r with regroup := .none } }, .done, .none) := by
  simp only [doClearRegroup, hf, modRadio, tmod_of_some _ _ (tget_of_findRadio hf)]

/-- Settles O59: each request by the record that it finds. -/
theorem clearRequestsActOnTheRecord : Obligations.ClearRequestsActOnTheRecord := by
  intro s e rest u ha hp
  refine ⟨fun q hq hr hu => ?_, fun r h1 h2 hx => ⟨fun hr => ⟨fun he => ?_, fun he hj => ?_, fun he hj hb hg => ?_⟩,
    fun hr => ⟨fun hl he hg => ?_, fun hn => ?_⟩, fun hr => ?_⟩⟩
  · obtain ⟨e1, e2, e3⟩ := clearRequest_noSuch (s := { s with requests := rest }) (findRadio_of_absent hu)
    simp only [List.mem_cons, List.not_mem_nil, or_false] at hq
    rcases hq with rfl | rfl | rfl
    · exact (exec_clearEmergency_ready hr hp).trans (by rw [e1]; rfl)
    · exact (exec_clearLost_ready hr hp).trans (by rw [e2]; rfl)
    · exact (exec_clearRegroup_ready hr hp).trans (by rw [e3]; rfl)
  all_goals have hf : findRadio { s with requests := rest } u = some r := findRadio_of_tget h1 h2 hx
  · rw [exec_clearEmergency_ready hr hp]
    simp only [doClearEmergency, hf, he]
    rfl
  · rw [exec_clearEmergency_ready hr hp, doClearEmergency_of_active hf he, if_neg hj]
    rfl
  · have hfree := freeRecord_of_clear (s := { s with requests := rest, radios := tput s.radios u { r with emergency := none } })
      (ascending_tput _ u _ ha) (tget_tput_self ..) hg
    rw [exec_clearEmergency_ready hr hp, doClearEmergency_of_active hf he, if_pos ⟨hj, hb⟩, hfree, tdel_tput _ _ _ ha]
    rfl
  · have hfree := freeRecord_of_clear (s := { s with requests := rest }) ha hx hg
    rw [exec_clearLost_ready hr hp]
    simp only [doClearLost, hf, hl, he, and_self, if_true, hfree]
    rfl
  · have hnot : ¬(stateName r.state = .lost ∧ r.emergency = none) := fun h => hn.elim (fun hs => hs h.1) fun he => he h.2
    rw [exec_clearLost_ready hr hp]
    simp only [doClearLost, hf, hnot, if_false]
    rfl
  · rw [exec_clearRegroup_ready hr hp, doClearRegroup_of_found hf]
    rfl

end Sys2Proof.Machine

/-! What group records become under the operations of records (R115, R122, R124), and FORCE-RELEASE (R21). -/

namespace Sys2Proof.Machine

/-! ### Operations on one group record each -/

/-- A step that changes group g by f and nothing else but the notices; where `done` holds it may complete the recall of g. -/
structure GroupStep (s t : State) (g : Nat) (f : Group → Group) (done : Bool) : Prop where
  frame : GroupFrame s t
  groups : ∀ k, tget t.groups k = if k = g then (tget s.groups k).map f else tget s.groups k
  notices : s.notices.length < 64 →
    t.notices = s.notices ++ if done && completesRecall s g then [timed s (.recallComplete g)] else []

theorem GroupFrame.bulk {s t : State} (h : GroupFrame s t) : t.bulk = s.bulk := congrArg Prod.fst h.engine

theorem GroupFrame.partTime {s t : State} (h : GroupFrame s t) : t.partTime = s.partTime := congrArg Outer.partTime h.outer

/-- Whether a recall completes is read from its own group and the Bulk Engine. -/
theorem completesRecall_congr {s t : State} {g : Nat} (hg : (tget t.groups g).map (fun x => (x.unreached, x.recallState)) =
    (tget s.groups g).map fun x => (x.unreached, x.recallState)) (hb : t.bulk = s.bulk) : completesRecall t g = completesRecall s g := by
  unfold completesRecall
  rw [hb]
  cases h1 : tget t.groups g <;> cases h2 : tget s.groups g <;> simp_all

theorem groupStep_modGroup (s : State) (g : Nat) (f : Group → Group) (hf : ∀ x, (f x).activeCall = x.activeCall)
    (hr : ∀ x, (f x).recallState = x.recallState) (hd : ∀ x, (f x).priority = x.priority ∧ (f x).fixed = x.fixed) :
    GroupStep s (modGroup s g f) g f false := by
  refine ⟨groupFrame_modGroup s g f hf hr hd, fun k => ?_, fun _ => by simp⟩
  rw [modGroup_groups, tget_tmod]

/-- A fall of an unreached count. -/
def lowered (x : Group) : Group := { x with unreached := x.unreached - 1 }

theorem groupStep_lowerUnreached (s : State) (g : Nat) : GroupStep s (lowerUnreached s g) g lowered true := by
  refine ⟨groupFrame_lowerUnreached s g, fun k => ?_, fun hroom => ?_⟩
  · have hmod : tget (modGroup s g lowered).groups k = if k = g then (tget s.groups k).map lowered else tget s.groups k := by
      rw [modGroup_groups, tget_tmod]
    rcases lowerUnreached_cases s g with h | h <;> rw [h]
    · exact hmod
    · rw [raise_groups]; exact hmod
  · unfold lowerUnreached completesRecall
    cases hg : tget s.groups g with
    | none => simp
    | some x =>
      have hrun : recallRunning s g = s.bulk.any fun b => b.op == .recallGroup g := by
        unfold recallRunning
        cases s.bulk <;> rfl
      simp only [hrun, Bool.true_and, Bool.and_eq_true, beq_iff_eq, Bool.not_eq_true', and_assoc]
      split
      · rw [raise_of_room (by exact hroom)]
        rfl
      · simp

/-- Steps on groups of different numbers, one after the other. -/
structure GroupSteps {β : Type} (s t : State) (l : List β) (key : β → Nat) (f : β → Group → Group) (done : β → Bool) : Prop where
  frame : GroupFrame s t
  of_mem : ∀ b ∈ l, tget t.groups (key b) = (tget s.groups (key b)).map (f b)
  of_not_mem : ∀ k, k ∉ l.map key → tget t.groups k = tget s.groups k
  notices : s.notices.length + l.length ≤ 64 → t.notices = s.notices ++
    (l.filter fun b => done b && completesRecall s (key b)).map fun b => timed s (.recallComplete (key b))

theorem GroupSteps.foldl {β : Type} {op : State → β → State} {key : β → Nat} {f : β → Group → Group} {done : β → Bool}
    (h : ∀ s b, GroupStep s (op s b) (key b) (f b) (done b)) {l : List β} (hnd : (l.map key).Nodup) (s : State) :
    GroupSteps s (l.foldl op s) l key f done := by
  induction l generalizing s with
  | nil => exact ⟨.refl s, fun _ h => (nomatch h), fun _ _ => rfl, fun _ => (List.append_nil _).symm⟩
  | cons b l ih =>
    obtain ⟨hnot, hnd⟩ := List.nodup_cons.1 hnd
    have h1 := h s b
    have h2 := ih hnd (op s b)
    have hlater : ∀ {c}, c ∈ l → key c ≠ key b := fun hc e => hnot (e ▸ List.mem_map_of_mem hc)
    have hsame : ∀ {c}, c ∈ l → tget (op s b).groups (key c) = tget s.groups (key c) := fun hc => by
      rw [h1.groups, if_neg (hlater hc)]
    refine ⟨h1.frame.trans h2.frame, fun c hc => ?_, fun k hk => ?_, fun hroom => ?_⟩
    · rcases List.mem_cons.1 hc with rfl | hc
      · rw [List.foldl_cons, h2.of_not_mem _ hnot, h1.groups, if_pos rfl]
      · rw [List.foldl_cons, h2.of_mem c hc, hsame hc]
    · rw [List.map_cons, List.mem_cons, not_or] at hk
      rw [List.foldl_cons, h2.of_not_mem k hk.2, h1.groups, if_neg hk.1]
    · rw [List.length_cons] at hroom
      have hn := h1.notices (by omega)
      have hlen : (op s b).notices.length ≤ s.notices.length + 1 := by
        rw [hn, List.length_append]
        split <;> simp
      have hdone : ∀ c ∈ l, (done c && completesRecall (op s b) (key c)) = (done c && completesRecall s (key c)) := fun c hc => by
        rw [completesRecall_congr (by rw [hsame hc]) h1.frame.bulk]
      have htimed : ∀ x, timed (op s b) x = timed s x := fun x => by simp only [timed, h1.frame.partTime]
      rw [List.foldl_cons, h2.notices (by omega), hn, List.append_assoc, List.filter_congr hdone, List.filter_cons]
      simp only [htimed]
      split <;> rfl

/-! ### The clearing of a record's flags (R122, R124) -/

/-- The step moves no unreached count and leaves what completes recalls. -/
structure RecallsSame (s t : State) : Prop where
  groups : ∀ g, (tget t.groups g).map (fun x => (x.unreached, x.recallState)) = (tget s.groups g).map fun x => (x.unreached, x.recallState)
  bulk : t.bulk = s.bulk
  time : t.partTime = s.partTime

theorem RecallsSame.refl (s : State) : RecallsSame s s := ⟨fun _ => rfl, rfl, rfl⟩

theorem RecallsSame.trans {a b c : State} (h1 : RecallsSame a b) (h2 : RecallsSame b c) : RecallsSame a c :=
  ⟨fun g => (h2.groups g).trans (h1.groups g), h2.bulk.trans h1.bulk, h2.time.trans h1.time⟩

theorem RecallsSame.of_groups {s t : State} (hg : t.groups = s.groups) (hb : t.bulk = s.bulk) (ht : t.partTime = s.partTime) :
    RecallsSame s t := ⟨fun _ => by rw [hg], hb, ht⟩

theorem RecallsSame.unreached {s t : State} (h : RecallsSame s t) (g : Nat) :
    (tget t.groups g).map Group.unreached = (tget s.groups g).map Group.unreached := by
  have := congrArg (Option.map Prod.fst) (h.groups g)
  simpa [Option.map_map, Function.comp_def] using this

theorem RecallsSame.recallsDone {s t : State} (h : RecallsSame s t) (l : List Membership) : recallsDone t l = recallsDone s l := by
  have hc : completesRecall t = completesRecall s := funext fun g => completesRecall_congr (h.groups g) h.bulk
  simp only [Machine.recallsDone, hc, timed, h.time]

theorem recallsSame_modGroup (s : State) (g : Nat) {f : Group → Group} (hf : ∀ x, ((f x).unreached, (f x).recallState) = (x.unreached, x.recallState)) :
    RecallsSame s (modGroup s g f) := by
  refine ⟨fun k => ?_, rfl, rfl⟩
  rw [modGroup_groups, tget_tmod]
  split
  · cases tget s.groups k
    · rfl
    · exact congrArg some (hf _)
  · rfl

theorem recallsSame_foldl {β : Type} {f : State → β → State} (h : ∀ s x, RecallsSame s (f s x)) (l : List β) (s : State) :
    RecallsSame s (l.foldl f s) := foldl_rel RecallsSame .refl .trans f h l s

theorem recallsSame_removeCounts (s : State) (gs : List Nat) (n : Nat) : RecallsSame s (removeCounts s gs n) :=
  .trans (b := subReg s n) (.of_groups rfl rfl rfl)
    (recallsSame_foldl (f := fun s g => subMember s g n) (fun s g => recallsSame_modGroup s g fun _ => rfl) gs _)

theorem recallsSame_subTotals (s : State) (gs : List Nat) : RecallsSame s (subTotals s gs) :=
  recallsSame_foldl (f := subTotal) (fun s g => recallsSame_modGroup s g fun _ => rfl) gs s

theorem recallsSame_of_send {s t : State} (h : SendFrame s t) (he : engine t = engine s) : RecallsSame s t :=
  .of_groups h.groups (congrArg Prod.fst he) (congrArg Outer.partTime h.outer)

/-- The flags of a list have been cleared: the unreached counts and the notices follow (R122, R124). -/
structure FlagsCleared (s t : State) (l : List Membership) : Prop where
  unreached : unreachedAfter s t l
  notices : s.notices.length + l.length ≤ 64 → t.notices = s.notices ++ recallsDone s l

theorem unreachedAfter.after {s a t : State} {l : List Membership} (h : unreachedAfter a t l) (h0 : RecallsSame s a) : unreachedAfter s t l := by
  intro g
  have := h0.unreached g
  rw [h g]
  cases h1 : tget a.groups g <;> cases h2 : tget s.groups g <;> simp_all

theorem FlagsCleared.after {s a t : State} {l : List Membership} (h : FlagsCleared a t l) (h0 : RecallsSame s a)
    (hn : a.notices = s.notices) : FlagsCleared s t l :=
  ⟨h.unreached.after h0, fun hroom => by rw [h.notices (by rw [hn]; exact hroom), hn, h0.recallsDone]⟩

theorem mem_flagged (l : List Membership) (g : Nat) :
    g ∈ groupNumbers (l.filter Membership.pending) ↔ { group := g, pending := true } ∈ l := by
  simp only [groupNumbers, List.mem_map, List.mem_filter]
  constructor
  · rintro ⟨⟨g', p⟩, ⟨hm, hp⟩, rfl⟩
    cases p
    · cases hp
    · exact hm
  · exact fun h => ⟨_, ⟨h, rfl⟩, rfl⟩

theorem flagged_nodup {l : List Membership} (h : (groupNumbers l).Nodup) : (groupNumbers (l.filter Membership.pending)).Nodup :=
  h.sublist (List.filter_sublist.map _)

/-- Flags cleared one after the other. -/
theorem flagsCleared_foldl {l : List Membership} (h : (groupNumbers l).Nodup) (s : State) :
    FlagsCleared s ((groupNumbers (l.filter Membership.pending)).foldl lowerUnreached s) l := by
  have hnd := flagged_nodup h
  have hs := GroupSteps.foldl (key := id) (done := fun _ => true) groupStep_lowerUnreached (by simpa using hnd) s
  refine ⟨fun g => ?_, fun hroom => ?_⟩
  · by_cases hg : g ∈ groupNumbers (l.filter Membership.pending)
    · have := hs.of_mem g hg
      simp only [id] at this
      rw [this, Option.map_map]
      simp only [(mem_flagged l g).1 hg, if_true]
      rfl
    · rw [hs.of_not_mem g (by simpa using hg)]
      simp only [mt (mem_flagged l g).2 hg, if_false]
  · have hlen : (groupNumbers (l.filter Membership.pending)).length ≤ l.length := by
      simpa [groupNumbers] using List.length_filter_le Membership.pending l
    rw [hs.notices (by omega)]
    rfl

theorem clearFlags_cleared {s : State} {u : Nat} {r : Radio} (hr : tget s.radios u = some r) (hnd : (groupNumbers r.groups).Nodup) :
    FlagsCleared s (clearFlags s u) r.groups := by
  rw [clearFlags_of_some hr]
  exact (flagsCleared_foldl hnd _).after (s := s) (.of_groups rfl rfl rfl) rfl

theorem freeRecord_cleared {s : State} {u : Nat} {r : Radio} (hr : tget s.radios u = some r) (hnd : (groupNumbers r.groups).Nodup) :
    FlagsCleared s (freeRecord s u) r.groups :=
  have h := clearFlags_cleared hr hnd
  ⟨h.unreached, h.notices⟩

theorem leaveCounted_cleared {s : State} {u : Nat} {r : Radio} (hr : tget s.radios u = some r) (hnd : (groupNumbers r.groups).Nodup)
    (at_ : List Nat) : FlagsCleared s (leaveCounted s u at_) r.groups := by
  unfold leaveCounted
  have hfold : ∀ gs : List Nat, RecallsSame s (at_.foldl (fun s n => removeCounts s gs n) s) ∧
      (at_.foldl (fun s n => removeCounts s gs n) s).notices = s.notices ∧
      (at_.foldl (fun s n => removeCounts s gs n) s).radios = s.radios := fun gs =>
    ⟨recallsSame_foldl (fun s n => recallsSame_removeCounts s gs n) at_ s,
      foldl_keeps State.notices _ (fun s n => removeCounts_notices s gs n) at_ s,
      foldl_keeps State.radios _ (fun s n => removeCounts_radios s gs n) at_ s⟩
  obtain ⟨h1, h2, h3⟩ := hfold (groupsOf s u)
  simp only []
  split
  · exact (clearFlags_cleared (by rw [h3]; exact hr) hnd).after h1 h2
  · have ht := groupFrame_subTotals (at_.foldl (fun s' n => removeCounts s' (groupsOf s u) n) s) (groupsOf s u)
    exact (clearFlags_cleared (by rw [ht.radios, h3]; exact hr) hnd).after (h1.trans (recallsSame_subTotals _ _))
      ((subTotals_notices _ _).trans h2)

/-- What the freeing of a record leaves. -/
theorem freeRecord_frame (s : State) (u : Nat) :
    (freeRecord s u).radios =
        tdel (tmod s.radios u fun r => { r with groups := r.groups.map fun m => { m with pending := false } }) u ∧
      (freeRecord s u).sites = s.sites ∧ (freeRecord s u).outbound = s.outbound ∧ (freeRecord s u).calls = s.calls ∧
      (freeRecord s u).tagCounter = s.tagCounter ∧ engine (freeRecord s u) = engine s ∧ outer (freeRecord s u) = outer s := by
  refine ⟨?_, clearFlags_sites s u, clearFlags_outbound s u, clearFlags_calls s u, clearFlags_tagCounter s u, engine_clearFlags s u,
    outer_freeRecord s u⟩
  rw [freeRecord, delRadio_radios, clearFlags_radios]

/-! ### A record leaves the sites that counted it (R5, R20) -/

/-- What a record that retires as r2 leaves: its own entry with the flags clear, one fall of the count at each site of `at_`, and the
unreached counts of its flags. -/
structure Retired (s t : State) (u : Nat) (r2 : Radio) (at_ : List Nat) : Prop where
  record : tget t.radios u = some { r2 with groups := r2.groups.map fun m => { m with pending := false } }
  others : ∀ v, v ≠ u → tget t.radios v = tget s.radios v
  counts : ∀ j, (tget t.sites j).map Site.count = (tget s.sites j).map fun x => x.count - at_.count j
  calls : t.calls = s.calls
  tag : t.tagCounter = s.tagCounter
  engine : engine t = engine s
  outer : outer t = outer s
  unreached : (groupNumbers r2.groups).Nodup → unreachedAfter s t r2.groups

theorem foldl_fallen_count (at_ : List Nat) (t : Table Site) (j : Nat) :
    (tget (at_.foldl (fun x n => tmod x n fallen) t) j).map Site.count = (tget t j).map fun x => x.count - at_.count j := by
  induction at_ generalizing t with
  | nil => simp
  | cons n at_ ih =>
    rw [List.foldl_cons, ih, List.count_cons, tget_tmod]
    by_cases h : j = n
    · subst h
      cases tget t j <;> simp [Nat.sub_sub, Nat.add_comm]
    · have : (n == j) = false := by simpa using fun e => h e.symm
      simp [h, this]

/-- A record that has become r2, with directives sent, leaves the counted sites. -/
theorem retired_leaveCounted {s b : State} {u : Nat} {r2 : Radio} (hb : SendFrame { s with radios := tput s.radios u r2 } b)
    (he : engine b = engine s) (at_ : List Nat) : Retired s (leaveCounted b u at_) u r2 at_ := by
  obtain ⟨hradios, hsites, -, hcalls, htag, hengine, houter⟩ := leaveCounted_facts b u at_
  have hu : tget b.radios u = some r2 := by rw [hb.radios]; exact tget_tput_self ..
  refine ⟨?_, fun v hv => ?_, fun j => ?_, hcalls.trans hb.calls, htag.trans hb.tag, hengine.trans he, houter.trans hb.outer, fun hnd => ?_⟩
  · rw [hradios, tget_tmod_self, hu]
    rfl
  · rw [hradios, tget_tmod_ne _ _ hv, hb.radios]
    exact tget_tput_ne _ _ hv
  · rw [hsites, foldl_fallen_count]
    have := hb.counts j
    cases h1 : tget b.sites j <;> cases h2 : tget s.sites j <;> simp_all
  · refine unreachedAfter.after (s := s) ((leaveCounted_cleared hu hnd at_).unreached) ?_
    exact .of_groups hb.groups (congrArg Prod.fst he) (congrArg Outer.partTime hb.outer)

/-- Where the directives raised no notice, the notices are those of the flags. -/
theorem retired_notices {s b : State} {u : Nat} {r2 : Radio} (hb : SendFrame { s with radios := tput s.radios u r2 } b)
    (he : engine b = engine s) (hn : b.notices = s.notices) (hnd : (groupNumbers r2.groups).Nodup) (at_ : List Nat)
    (hroom : s.notices.length + r2.groups.length ≤ 64) : (leaveCounted b u at_).notices = s.notices ++ recallsDone s r2.groups := by
  have hu : tget b.radios u = some r2 := by rw [hb.radios]; exact tget_tput_self ..
  exact ((leaveCounted_cleared hu hnd at_).after (s := s)
    (.of_groups hb.groups (congrArg Prod.fst he) (congrArg Outer.partTime hb.outer)) hn).notices hroom

theorem leaveCounted_outbound (s : State) (u : Nat) (at_ : List Nat) : (leaveCounted s u at_).outbound = s.outbound :=
  (leaveCounted_facts s u at_).2.2.1

/-! ### FORCE-RELEASE (R21, R80) -/

/-- The record that a FORCE-RELEASE leaves, before its flags are cleared. -/
def releasedAs (s : State) (r : Radio) (n : Nat) (how : Option (HandoverEnd × Nat)) : Radio :=
  { released r with state := retiredNow s n, lastHandover := how }

/-- The state in which the DROP of a FORCE-RELEASE is tested: the record is RETIRED, and a CANCEL has gone to the pending site. -/
def releaseDropping (s : State) (u : Nat) (r : Radio) (a : Nat) (how : Option (HandoverEnd × Nat)) (cancel : List SiteOut) : State :=
  { s with radios := tput s.radios u (releasedAs s r a how), outbound := s.outbound ++ cancel }

theorem tmod_tput {α : Type} (t : Table α) (k : Nat) (v : α) (f : α → α) : tmod (tput t k v) k f = tput t k (f v) := by
  rw [tmod_of_some _ _ (tget_tput_self ..), tput_tput]

theorem forceRelease_counted {s : State} {u a : Nat} {r : Radio} (hr : tget s.radios u = some r)
    (hs : (∃ l, r.state = .registered a l) ∨ ∃ y h, r.state = .presumed a y h) :
    forceRelease s u = leaveCounted (sendOrdinary (releaseDropping s u r a r.lastHandover []) a (.drop a u)) u [a] := by
  have hb : setRecordState (modRadio s u fun r => { r with emergency := none, burst := none }) u
      (retiredNow s a) = releaseDropping s u r a r.lastHandover [] := by
    simp only [setRecordState, modRadio, tmod_of_some _ _ hr, tmod_tput, releaseDropping, List.append_nil]
    rfl
  rcases hs with ⟨l, hs⟩ | ⟨y, h, hs⟩ <;> simp only [forceRelease, hr, hs, hb]

theorem forceRelease_moving {s : State} {u a p l : Nat} {c : Handover} {r : Radio} (hr : tget s.radios u = some r)
    (hs : r.state = .moving a p l c) :
    forceRelease s u = leaveCounted (sendOrdinary (releaseDropping s u r a (some (.aborted, p))
      (if siteWorks s p then [.cancel p u c.tag] else [])) a (.drop a u)) u [a, p] := by
  have hb : modRadio (sendHandover (modRadio s u fun r => { r with emergency := none, burst := none }) p (.cancel p u c.tag)) u
      (fun r => { r with state := retiredNow s a, lastHandover := some (.aborted, p) }) =
      releaseDropping s u r a (some (.aborted, p)) (if siteWorks s p then [.cancel p u c.tag] else []) := by
    rw [sendHandover_eq]
    simp only [modRadio, tmod_of_some _ _ hr, tmod_tput, releaseDropping]
    rfl
  simp only [forceRelease, hr, hs, hb]

theorem forceRelease_lost {s : State} {u n : Nat} {r : Radio} (hr : tget s.radios u = some r) (hs : r.state = .lost n) :
    forceRelease s u = leaveCounted (releaseDropping s u r n r.lastHandover []) u [] := by
  simp only [forceRelease, hr, hs, setRecordState, modRadio, tmod_of_some _ _ hr, tmod_tput, releaseDropping, List.append_nil]
  rfl

theorem modRadio_released {s : State} {u : Nat} {r : Radio} (hr : tget s.radios u = some r) :
    (modRadio s u fun r => { r with emergency := none, burst := none }) = { s with radios := tput s.radios u (released r) } := by
  simp only [modRadio, tmod_of_some _ _ hr]
  rfl

theorem forceRelease_joining {s : State} {u : Nat} {r : Radio} (hr : tget s.radios u = some r) (hs : r.state = .joining) :
    forceRelease s u = freeRecord { s with radios := tput s.radios u (released r) } u := by
  simp only [forceRelease, hr, hs, modRadio_released hr]

theorem forceRelease_retired {s : State} {u n y h : Nat} {r : Radio} (hr : tget s.radios u = some r) (hs : r.state = .retired n y h) :
    forceRelease s u = { s with radios := tput s.radios u (released r) } := by
  simp only [forceRelease, hr, hs, modRadio_released hr]

theorem releaseDropping_frame (s : State) (u : Nat) (r : Radio) (a : Nat) (how : Option (HandoverEnd × Nat)) (cancel : List SiteOut) :
    SendFrame { s with radios := tput s.radios u (releasedAs s r a how) } (releaseDropping s u r a how cancel) :=
  ⟨rfl, rfl, rfl, rfl, rfl, rfl, fun _ => rfl, ⟨cancel, rfl⟩⟩

/-- The DROP's state, whatever room it found. -/
theorem dropped_frame (s : State) (u : Nat) (r : Radio) (a : Nat) (how : Option (HandoverEnd × Nat)) (cancel : List SiteOut) :
    SendFrame { s with radios := tput s.radios u (releasedAs s r a how) }
      (sendOrdinary (releaseDropping s u r a how cancel) a (.drop a u)) ∧
    engine (sendOrdinary (releaseDropping s u r a how cancel) a (.drop a u)) = engine s :=
  ⟨(releaseDropping_frame s u r a how cancel).trans (sendFrame_sendOrdinary _ a _), engine_sendOrdinary _ a _ rfl⟩

/-- With room the DROP goes to a site that works, and no notice is raised. -/
theorem dropped_of_room {s : State} {u a : Nat} {r : Radio} {how : Option (HandoverEnd × Nat)} {cancel : List SiteOut}
    (ha : Ascending s.radios) (hr : tget s.radios u = some r)
    (hroom : siteWorks s a = false ∨ (s.outbound.length + cancel.length + 1 ≤ 448 ∧
      s.outbound.length + cancel.length + 2 * (movingCount s - if isMoving r.state then 1 else 0) + 1 ≤ 512)) :
    sendOrdinary (releaseDropping s u r a how cancel) a (.drop a u) =
      { releaseDropping s u r a how cancel with outbound := s.outbound ++ cancel ++ if siteWorks s a then [.drop a u] else [] } := by
  have hw : siteWorks (releaseDropping s u r a how cancel) a = siteWorks s a := rfl
  cases hwa : siteWorks s a with
  | false =>
    rw [sendOrdinary_of_not (hw.trans hwa)]
    simp [releaseDropping]
  | true =>
    obtain ⟨h1, h2⟩ := hroom.resolve_left (by simp [hwa])
    have hm := movingCount_tmod (t := releaseDropping s u r a how cancel) (f := fun _ => releasedAs s r a how) ha hr
      (by simp only [releaseDropping, tmod_of_some _ _ hr])
    rw [show isMoving (releasedAs s r a how).state = false from rfl] at hm
    have hord : hasOrdinaryRoom (releaseDropping s u r a how cancel) = true := by
      rw [hasOrdinaryRoom_iff]
      have hlen : (releaseDropping s u r a how cancel).outbound.length = s.outbound.length + cancel.length := List.length_append ..
      simp only [Bool.false_eq_true, if_false, Nat.add_zero] at hm
      unfold roomForOne
      rw [hlen]
      exact ⟨h1, by omega⟩
    rw [sendOrdinary_of_room (hw.trans hwa) hord]
    rfl

/-- A FORCE-RELEASE of a record that is counted or LOST retires it. -/
theorem forceRelease_leaves {s : State} {u : Nat} {r : Radio} (hr : tget s.radios u = some r)
    (hs : servingSite r.state ≠ none ∨ stateName r.state = .lost) :
    ∃ r2 at_ b, forceRelease s u = leaveCounted b u at_ ∧ r2.groups = r.groups ∧
      SendFrame { s with radios := tput s.radios u r2 } b ∧ engine b = engine s ∧
      (Ascending s.radios → (∀ a, servingSite r.state = some a → siteWorks s a = false ∨ (s.outbound.length + 2 ≤ 448 ∧ roomForOne s)) →
        b.notices = s.notices) := by
  have hdrop : ∀ a how cancel, servingSite r.state = some a → cancel.length ≤ (if isMoving r.state then 1 else 0) →
      Ascending s.radios →
      (∀ a, servingSite r.state = some a → siteWorks s a = false ∨ (s.outbound.length + 2 ≤ 448 ∧ roomForOne s)) →
      (sendOrdinary (releaseDropping s u r a how cancel) a (.drop a u)).notices = s.notices := by
    intro a how cancel hserve hlen ha hroom
    rw [dropped_of_room ha hr]
    · rfl
    · refine (hroom a hserve).imp_right fun ⟨h1, h2⟩ => ?_
      unfold roomForOne at h2
      have hpos : isMoving r.state = true → 1 ≤ movingCount s := fun hm =>
        List.one_le_countP_iff.2 ⟨(u, r), mem_of_tget hr, hm⟩
      split at hlen <;> rename_i hm
      · have := hpos hm
        simp only [hm, if_true]
        omega
      · simp only [hm]
        omega
  cases hst : r.state with
  | joining => simp [hst, servingSite, stateName] at hs
  | retired n y h => simp [hst, servingSite, stateName] at hs
  | registered a l =>
    rw [hst] at hdrop
    obtain ⟨h1, h2⟩ := dropped_frame s u r a r.lastHandover []
    exact ⟨releasedAs s r a r.lastHandover, _, _, forceRelease_counted hr (.inl ⟨l, hst⟩), rfl, h1, h2, fun ha h => hdrop a _ [] rfl (Nat.zero_le _) ha h⟩
  | presumed a y l =>
    rw [hst] at hdrop
    obtain ⟨h1, h2⟩ := dropped_frame s u r a r.lastHandover []
    exact ⟨releasedAs s r a r.lastHandover, _, _, forceRelease_counted hr (.inr ⟨y, l, hst⟩), rfl, h1, h2, fun ha h => hdrop a _ [] rfl (Nat.zero_le _) ha h⟩
  | moving a p l c =>
    rw [hst] at hdrop
    obtain ⟨h1, h2⟩ := dropped_frame s u r a (some (.aborted, p)) (if siteWorks s p then [.cancel p u c.tag] else [])
    exact ⟨releasedAs s r a (some (.aborted, p)), _, _, forceRelease_moving hr hst, rfl, h1, h2, fun ha h => hdrop a _ _ rfl (by split <;> simp [isMoving]) ha h⟩
  | lost n =>
    exact ⟨releasedAs s r n r.lastHandover, _, _, forceRelease_lost hr hst, rfl, releaseDropping_frame s u r n r.lastHandover [], rfl, fun _ _ => rfl⟩

/-- A FORCE-RELEASE clears the flags of a record that is not RETIRED. -/
theorem forceRelease_cleared {s : State} {u : Nat} {r : Radio} (hr : tget s.radios u = some r) (hs : stateName r.state ≠ .retired)
    (hnd : (groupNumbers r.groups).Nodup) : unreachedAfter s (forceRelease s u) r.groups ∧
      (Ascending s.radios → (∀ a, servingSite r.state = some a → siteWorks s a = false ∨ (s.outbound.length + 2 ≤ 448 ∧ roomForOne s)) →
        s.notices.length + r.groups.length ≤ 64 → (forceRelease s u).notices = s.notices ++ recallsDone s r.groups) := by
  by_cases hj : r.state = .joining
  · rw [forceRelease_joining hr hj]
    have h := (freeRecord_cleared (s := { s with radios := tput s.radios u (released r) }) (tget_tput_self ..) hnd).after (s := s)
      (.of_groups rfl rfl rfl) rfl
    exact ⟨h.unreached, fun _ _ => h.notices⟩
  · have hs' : servingSite r.state ≠ none ∨ stateName r.state = .lost := by
      cases e : r.state <;> simp_all [servingSite, stateName]
    obtain ⟨r2, at_, b, e, hg, hb, he, hn⟩ := forceRelease_leaves hr hs'
    rw [e, ← hg]
    rw [← hg] at hnd
    exact ⟨(retired_leaveCounted hb he at_).unreached hnd, fun ha hroom => retired_notices hb he (hn ha hroom) hnd at_⟩

/-! ### The answer of a request -/

theorem outer_finished {s t : State} {e : RequestEntry} {rest : List RequestEntry} (h : outer t = outer { s with requests := rest })
    (code : Code) (c : Content) : outer (finished e (t, code, c)) = outer (answered s e rest code c) := by
  have hans : t.answers = s.answers := congrArg Outer.answers h
  have h1 : outer (finished e (t, code, c)) = { outer t with
      answers := t.answers ++ [{ number := entryNumber e, kind := e.kind, code := code, content := c }] } := rfl
  rw [h1, h, hans]
  rfl

theorem exec_forceRelease_found {s : State} {e : RequestEntry} {rest : List RequestEntry} {u : Nat} {r : Radio}
    (hr : requestReady s e rest (.forceRelease u)) (hp : s.phase = .service) (h1 : 1 ≤ u) (h2 : u ≤ 16777215)
    (hu : tget s.radios u = some r) :
    exec .forceRelease s = .next (finished e (forceRelease { s with requests := rest } u, .done, .none)) := by
  have hf : findRadio { s with requests := rest } u = some r := findRadio_of_tget h1 h2 hu
  rw [exec_forceRelease_ready hr hp, doForceRelease, hf]

/-- Settles O58: the release by the record's state, with the flags that it clears and the directives that it sends. -/
theorem forceReleaseRetires : Obligations.ForceReleaseRetires := by
  refine ⟨fun s e rest u r ha hp hr h1 h2 hu hne hnd => ?_, fun s e rest u ha hp hr => ⟨fun hn => ?_, fun r h1 h2 hu => ⟨fun hj hg => ?_,
    fun n y h hs => ?_, fun a hs => ?_⟩⟩, fun s e rest u r ha hp hr h1 h2 hu => ?_⟩
  · have hu' : tget ({ s with requests := rest } : State).radios u = some r := hu
    obtain ⟨hc, hn⟩ := forceRelease_cleared hu' hne hnd
    refine ⟨_, exec_forceRelease_found hr hp h1 h2 hu, hc, hn ha, fun hj => ?_⟩
    have hframe : forceRelease { s with requests := rest } u =
        freeRecord { s with requests := rest, radios := tput s.radios u (released r) } u := forceRelease_joining hu' hj
    obtain ⟨hradios, hsites, hout, hcalls, htag, hengine, houter⟩ :=
      freeRecord_frame { s with requests := rest, radios := tput s.radios u (released r) } u
    rw [← hframe] at hradios hsites hout hcalls htag hengine houter
    refine ⟨hradios.trans ?_, hsites, hout, hcalls, htag, hengine, outer_finished (houter.trans rfl) _ _⟩
    simp only [tmod_tput, tdel_tput _ _ _ ha]
  · have hf : findRadio { s with requests := rest } u = none := findRadio_of_absent hn
    rw [exec_forceRelease_ready hr hp, doForceRelease, hf]
    rfl
  · have hu' : tget ({ s with requests := rest } : State).radios u = some r := hu
    have hfree := freeRecord_of_clear (s := { s with requests := rest, radios := tput s.radios u (released r) })
      (ascending_tput _ u _ ha) (tget_tput_self ..) hg
    rw [exec_forceRelease_found hr hp h1 h2 hu, forceRelease_joining hu' hj, hfree, tdel_tput _ _ _ ha]
    rfl
  · have hu' : tget ({ s with requests := rest } : State).radios u = some r := hu
    rw [exec_forceRelease_found hr hp h1 h2 hu, forceRelease_retired hu' hs]
    rfl
  · have hu' : tget ({ s with requests := rest } : State).radios u = some r := hu
    obtain ⟨hb, he⟩ := dropped_frame { s with requests := rest } u r a r.lastHandover []
    have hret := retired_leaveCounted hb he [a]
    have hcase := forceRelease_counted hu' hs
    have hm : isMoving r.state = false := by rcases hs with ⟨l, e⟩ | ⟨y, h, e⟩ <;> rw [e] <;> rfl
    refine ⟨_, exec_forceRelease_found hr hp h1 h2 hu, ?_⟩
    rw [hcase]
    refine ⟨hret.record, hret.others, fun j => ?_, fun hw hl hroom => ?_, fun hw => ?_, hret.calls, hret.tag, hret.engine,
      outer_finished hret.outer _ _⟩
    · refine (hret.counts j).trans (congrArg (fun f => Option.map f (tget s.sites j)) (funext fun x => ?_))
      simp only [List.count_singleton, beq_iff_eq, eq_comm (a := a)]
      split <;> rfl
    · refine (leaveCounted_outbound _ u [a]).trans ?_
      rw [dropped_of_room (s := { s with requests := rest }) ha hu (.inr ⟨by exact hl, by unfold roomForOne at hroom; simp only [hm]; exact hroom⟩)]
      have : siteWorks { s with requests := rest } a = true := hw
      simp [this]
    · refine (leaveCounted_outbound _ u [a]).trans ?_
      rw [sendOrdinary_of_not (by exact hw)]
      exact List.append_nil _
  · have hu' : tget ({ s with requests := rest } : State).radios u = some r := hu
    refine ⟨fun a p l k hs => ?_, fun n hs => ?_, fun hs hnd => ?_⟩
    · obtain ⟨hb, he⟩ := dropped_frame { s with requests := rest } u r a (some (.aborted, p))
        (if siteWorks { s with requests := rest } p then [.cancel p u k.tag] else [])
      have hret := retired_leaveCounted hb he [a, p]
      refine ⟨_, exec_forceRelease_found hr hp h1 h2 hu, ?_⟩
      rw [forceRelease_moving hu' hs]
      refine ⟨hret.record, hret.others, fun j => ?_, fun hroom => ?_, hret.calls, hret.tag, hret.engine, outer_finished hret.outer _ _⟩
      · refine (hret.counts j).trans (congrArg (fun f => Option.map f (tget s.sites j)) (funext fun x => ?_))
        simp only [List.count_cons, List.count_nil, beq_iff_eq, eq_comm (b := j), Nat.sub_sub]
        congr 1
        omega
      · refine (leaveCounted_outbound _ u [a, p]).trans ?_
        have hpos : 1 ≤ movingCount s := List.one_le_countP_iff.2 ⟨(u, r), mem_of_tget hu, by rw [hs]; rfl⟩
        rw [dropped_of_room (s := { s with requests := rest }) ha hu]
        · rfl
        · refine hroom.imp_right fun ⟨h1, h2⟩ => ?_
          unfold roomForOne at h2
          have hlen : (if siteWorks { s with requests := rest } p then [SiteOut.cancel p u k.tag] else []).length ≤ 1 := by
            split <;> simp
          have hmc : movingCount { s with requests := rest } = movingCount s := rfl
          simp only [hs, isMoving, if_true, hmc]
          omega
    · have hret := retired_leaveCounted (releaseDropping_frame { s with requests := rest } u r n r.lastHandover []) rfl []
      refine ⟨_, exec_forceRelease_found hr hp h1 h2 hu, ?_⟩
      rw [forceRelease_lost hu' hs]
      exact ⟨hret.record, hret.others, (leaveCounted_facts _ u []).2.1, (leaveCounted_outbound _ u []).trans (List.append_nil _),
        hret.calls, hret.tag, hret.engine, outer_finished hret.outer _ _⟩
    · have hne : stateName r.state ≠ .retired := by cases e : r.state <;> simp_all [servingSite, stateName]
      exact ⟨_, exec_forceRelease_found hr hp h1 h2 hu, (forceRelease_cleared hu' hne hnd).1⟩

end Sys2Proof.Machine

/-! SET-GROUPS (R120): its statement counts the room for two REGROUP directives by the number of MOVING records before the change, which a
change of one record keeps where the Directory is ascending (R1). The statement does not ask for that. -/

namespace Sys2Proof.Machine

/-- A working site of capacity 64. -/
def openSite : Site :=
  { state := .up 2000, condition := some .good, capacity := 64, count := 1, voice := 4, bias := 0, hysteresis := 4, neighbours := [],
    acceptIn := true, releaseOut := true, overFlag := false, syncLost := false, queue := [] }

/-- A record in handover from site 7 to site 9, without groups. -/
def crossing : Radio :=
  { state := .moving 7 9 2000 { tag := 1, readySeen := false, quiescedSeen := false, deadline := 1040 }
    groups := [], regroup := .none, lastSeq := 9, burst := none, prev := none
    hearing := [{ site := 9, quality := 30, heard := 950, confirmed := true, backoff := none },
                { site := 7, quality := 20, heard := 900, confirmed := true, backoff := none }]
    lastHandover := none, emergency := none }

/-- A SET-GROUPS of an empty list for unit 3. -/
def emptyList : RequestEntry := { kind := 0x34#8, body := [1#8, 0#8, 0#8, 3#8, 0#8], rejected := false }

/-- A Directory out of order, in which a changed record of unit 3 enters ahead of the old one: 32 records in MOVING become 33, and the
outbound queue, with 446 entries and room for two more, has room for none. -/
def outOfOrder : State :=
  { State.reset with
    phase := .service, partTime := 1000
    sites := [(7, openSite), (9, openSite)]
    radios := List.replicate 31 (5, crossing) ++ [(3, crossing)]
    outbound := List.replicate 446 (.drop 7 1)
    requests := [emptyList] }

/-- The number of frames queued after a command. -/
def queuedAfter : Host.Outcome State Fault Refusal → Nat
  | .next t => t.outbound.length
  | _ => 0

theorem setGroups_outOfOrder : queuedAfter (exec .setGroups outOfOrder) = 446 := by decide +kernel

theorem outOfOrder_ready : requestReady outOfOrder emptyList [] (.setGroups 3 []) :=
  ⟨rfl, by decide, by decide, fun _ h => nomatch h⟩

/-- Refutes O60: in a Directory that is not ascending the change of unit 3 raises the number of MOVING records, so that neither REGROUP has
the room that the statement counts for it. -/
theorem not_setGroupsOrdersARegroup : ¬Obligations.SetGroupsOrdersARegroup := by
  intro h
  have hu : tget outOfOrder.radios 3 = some crossing := by decide
  obtain ⟨t, r', kept, ht, -, -, -, -, -, -, hquiet⟩ := h.2 outOfOrder emptyList [] 3 [] crossing rfl outOfOrder_ready (by decide) (by decide)
    hu (by decide) ⟨by decide, by decide, by decide, by decide, by decide, (by decide : (7 : Nat) ≠ 9)⟩
  have hcalls : noActiveCalls outOfOrder := fun _ h => nomatch h
  have hqueued : outOfOrder.outbound.length = 446 := List.length_replicate
  have hmoving : movingCount outOfOrder = 32 := by decide +kernel
  have hout := ((hquiet hcalls).1 (by omega) (by omega)).1
  have hlen : t.outbound.length = 446 := by
    have := setGroups_outOfOrder
    rwa [ht] at this
  have htwo : ((countedSites crossing.state).filter (siteWorks outOfOrder)).length = 2 := by decide
  rw [hout, List.length_append, List.length_map, htwo] at hlen
  omega

end Sys2Proof.Machine

/-! The ends of handovers and the deadlines of records (chapters 1 and 4): what commit, unwind, abort, loss and freeing leave. -/

namespace Sys2Proof.Machine

/-! ### Admission (R27) -/

theorem siteWorks_of_tget {s : State} {n : Nat} {x : Site} (h : tget s.sites n = some x) : siteWorks s n = working x.state := by
  simp only [siteWorks, h]

theorem refusal_of_config {s : State} {n : Nat} (hp : s.phase = .config) : refusal s n = some .notReady := if_pos hp

theorem refusal_of_not_configured {s : State} {n : Nat} (hp : s.phase = .service) (h : wfSite n = false ∨ tget s.sites n = none) :
    refusal s n = some .refusedSite := by
  have hc : siteConfigured s n = false := by
    rw [← Bool.not_eq_true, siteConfigured_iff]
    rintro ⟨h1, h2⟩
    rcases h with h | h
    · rw [h] at h1; cases h1
    · exact h2 h
  simp only [refusal, hp, hc, if_true, reduceCtorEq, if_false]

theorem refusal_of_configured {s : State} {n : Nat} {x : Site} (hp : s.phase = .service) (hw : wfSite n = true)
    (hx : tget s.sites n = some x) : refusal s n = if working x.state then none else some .notReady := by
  have hc : siteConfigured s n = true := (siteConfigured_iff s n).2 ⟨hw, by rw [hx]; exact fun h => nomatch h⟩
  simp only [refusal, hp, hc, siteWorks_of_tget hx, reduceCtorEq, if_false, Bool.true_eq_false]

/-- A message of an admitted site is not refused. -/
theorem refusal_of_admitted {s : State} {n : Nat} (h : admitted s n) : refusal s n = none := by
  obtain ⟨hp, hw, x, hx, hx2⟩ := h
  rw [refusal_of_configured hp hw hx, if_pos hx2]

theorem admits_of_admitted {s : State} {n : Nat} (h : admitted s n) : admits s n = true := by
  rw [admits, refusal_of_admitted h]
  rfl

theorem works_of_admitted {s : State} {n : Nat} (h : admitted s n) : siteWorks s n = true := by
  obtain ⟨-, -, x, hx, hw⟩ := h
  rw [siteWorks_of_tget hx, hw]

theorem hasRoom_of_room {s : State} (h : roomForOne s) : hasRoom s 1 = true := (roomForOne_iff s).1 h

/-! ### READY and QUIESCED (R70 to R74) -/

theorem matching_of_moving {s : State} {u a p l : Nat} {k : Handover} {r : Radio} (hr : tget s.radios u = some r)
    (hs : r.state = .moving a p l k) (tag : Nat) : matching s u tag = if k.tag = tag then some (a, p, l, k) else none := by
  simp only [matching, hr, hs]

section
variable {s : State} {n u tag : Nat} {rest : List SiteMsg}

theorem exec_ready_admitted (hroom : roomForOne s) (hm : s.siteIn = .ready n u tag :: rest) :
    exec .ready s = .next (takeReady { s with siteIn := rest } n u tag) := by
  show execReady s = _
  simp only [execReady, hm, hasRoom_of_room hroom, if_true]

theorem exec_quiesced_admitted (hroom : roomForOne s) (hm : s.siteIn = .quiesced n u tag :: rest) :
    exec .quiesced s = .next (takeQuiesced { s with siteIn := rest } n u tag) := by
  show execQuiesced s = _
  simp only [execQuiesced, hm, hasRoom_of_room hroom, if_true]

theorem exec_decline_admitted {reason : Nat} (hroom : roomForOne s) (hm : s.siteIn = .decline n u tag reason :: rest) :
    exec .decline s = .next (takeDecline { s with siteIn := rest } n u tag) := by
  show execDecline s = _
  simp only [execDecline, hm, hasRoom_of_room hroom, if_true]

end

/-- An answer that matches takes its flag; the second flag commits. -/
theorem seeFlags_first {s : State} {u a p l : Nat} {c : Handover} {r : Radio} (hr : tget s.radios u = some r) (hc : bothSeen c = false) :
    seeFlags s u a p l c = { s with radios := tput s.radios u { r with state := .moving a p l c } } := by
  simp only [seeFlags, hc, Bool.false_eq_true, if_false, setRecordState, modRadio, tmod_of_some _ _ hr]

theorem seeFlags_second (s : State) (u a p l : Nat) {c : Handover} (hc : bothSeen c = true) :
    seeFlags s u a p l c = commitHandover s u a p l c.tag := by
  simp only [seeFlags, hc, if_true]

/-- What a commit leaves. -/
theorem commitHandover_facts (s : State) (u a p l tag : Nat) {r : Radio} (hr : tget s.radios u = some r) :
    let t := commitHandover s u a p l tag
    tget t.radios u = some { r with state := .registered p l, lastHandover := some (.completed, p) } ∧
      (∀ v, v ≠ u → tget t.radios v = tget s.radios v) ∧
      t.outbound = s.outbound ++ (if siteWorks s p then [.commit p u tag] else []) ++ (if siteWorks s a then [.commit a u tag] else []) ∧
      (∀ j, (tget t.sites j).map Site.count = (tget s.sites j).map fun x => if j = a then x.count - 1 else x.count) ∧
      t.calls = s.calls ∧ t.notices = s.notices ∧ t.tagCounter = s.tagCounter ∧ engine t = engine s ∧ outer t = outer s :=
  handoverEnd_facts s u a p a (.commit p u tag) (.commit a u tag) (groupsOf s u)
    (fun r => { r with state := .registered p l, lastHandover := some (.completed, p) }) hr

/-- Settles O28: the matching answer sets its flag or commits, and one that matches no handover of its site is cancelled or dropped. -/
theorem handoverAnswersSetFlagsAndCommit : Obligations.HandoverAnswersSetFlagsAndCommit := by
  intro s n u tag rest hroom hadm
  have hadm' : admits { s with siteIn := rest } n = true := admits_of_admitted hadm
  have hw : siteWorks { s with siteIn := rest } n = true := works_of_admitted hadm
  refine ⟨fun hm => ⟨fun r a l k hr hs ht => ⟨fun hq => ?_, fun hq => ?_⟩, fun hno => ?_⟩,
    fun hm => ⟨fun r p l k hr hs ht => ⟨fun hq => ?_, fun hq => ?_⟩, fun hno => ?_⟩⟩
  · have htake : takeReady { s with siteIn := rest } n u tag = seeFlags { s with siteIn := rest } u a n l { k with readySeen := true } := by
      simp only [takeReady, hadm', if_true, matching_of_moving (s := { s with siteIn := rest }) hr hs, ht]
    rw [exec_ready_admitted hroom hm, htake, seeFlags_first (by exact hr) (by simp [bothSeen, hq])]
  · have htake : takeReady { s with siteIn := rest } n u tag = seeFlags { s with siteIn := rest } u a n l { k with readySeen := true } := by
      simp only [takeReady, hadm', if_true, matching_of_moving (s := { s with siteIn := rest }) hr hs, ht]
    rw [exec_ready_admitted hroom hm, htake, seeFlags_second _ _ _ _ _ (by simp [bothSeen, hq])]
    have h := commitHandover_facts { s with siteIn := rest } u a n l tag hr
    simp only [hw, if_true] at h
    exact ⟨_, rfl, by rw [← ht] at h ⊢; exact h⟩
  · have htake : takeReady { s with siteIn := rest } n u tag = pushOut { s with siteIn := rest } (.cancel n u tag) := by
      simp only [takeReady, hadm', if_true]
      split
      · rename_i a p l k hk
        obtain ⟨r, hr, hs, ht⟩ := matching_some hk
        have hne : n ≠ p := fun e => hno r a l k hr (e ▸ hs) ht
        simp only [hne, if_false]
      · rfl
    rw [exec_ready_admitted hroom hm, htake]
    rfl
  · have htake : takeQuiesced { s with siteIn := rest } n u tag =
        seeFlags { s with siteIn := rest } u n p l { k with quiescedSeen := true } := by
      simp only [takeQuiesced, hadm', if_true, matching_of_moving (s := { s with siteIn := rest }) hr hs, ht]
    rw [exec_quiesced_admitted hroom hm, htake, seeFlags_first (by exact hr) (by simp [bothSeen, hq])]
  · have htake : takeQuiesced { s with siteIn := rest } n u tag =
        seeFlags { s with siteIn := rest } u n p l { k with quiescedSeen := true } := by
      simp only [takeQuiesced, hadm', if_true, matching_of_moving (s := { s with siteIn := rest }) hr hs, ht]
    rw [exec_quiesced_admitted hroom hm, htake, seeFlags_second _ _ _ _ _ (by simp [bothSeen, hq])]
    have h := commitHandover_facts { s with siteIn := rest } u n p l tag hr
    simp only [hw, if_true] at h
    exact ⟨_, rfl, by rw [← ht] at h ⊢; exact h⟩
  · have htake : takeQuiesced { s with siteIn := rest } n u tag = { s with siteIn := rest } := by
      simp only [takeQuiesced, hadm', if_true]
      split
      · rename_i a p l k hk
        obtain ⟨r, hr, hs, ht⟩ := matching_some hk
        have hne : n ≠ a := fun e => hno r p l k hr (e ▸ hs) ht
        simp only [hne, if_false]
      · rfl
    rw [exec_quiesced_admitted hroom hm, htake]

/-! ### DECLINE and the handover deadline (R73, R75, R77) -/

/-- What an unwinding leaves. -/
theorem unwindHandover_facts (s : State) (u a p l tag : Nat) (how : HandoverEnd) {r : Radio} (hr : tget s.radios u = some r) :
    let t := unwindHandover s u a p l tag how
    tget t.radios u = some { r with
        state := (if siteWorks s a then .registered a l else .presumed a .siteDark (s.partTime + s.params.presumeHold * 10)),
        lastHandover := some (how, p) } ∧
      (∀ v, v ≠ u → tget t.radios v = tget s.radios v) ∧
      t.outbound = s.outbound ++ (if siteWorks s p then [.cancel p u tag] else []) ++ (if siteWorks s a then [.cancel a u tag] else []) ∧
      (∀ j, (tget t.sites j).map Site.count = (tget s.sites j).map fun x => if j = p then x.count - 1 else x.count) ∧
      t.calls = s.calls ∧ t.notices = s.notices ∧ t.tagCounter = s.tagCounter ∧ engine t = engine s ∧ outer t = outer s := by
  intro t
  have hst := unwind_state s a p (.cancel p u tag) (.cancel a u tag) (groupsOf s u) l
  have h := handoverEnd_facts s u a p p (.cancel p u tag) (.cancel a u tag) (groupsOf s u)
    (fun r => { r with
      state := (if siteWorks s a then .registered a l else .presumed a .siteDark (s.partTime + s.params.presumeHold * 10)),
      lastHandover := some (how, p) }) hr
  have ht : t = modRadio (removeCounts (sendHandover (sendHandover s p (.cancel p u tag)) a (.cancel a u tag)) (groupsOf s u) p) u
      (fun r => { r with
        state := (if siteWorks s a then .registered a l else .presumed a .siteDark (s.partTime + s.params.presumeHold * 10)),
        lastHandover := some (how, p) }) := by
    rw [← hst]
    rfl
  rw [ht]
  exact h

theorem exec_handoverDeadline_due {s : State} {u a p l : Nat} {k : Handover} {r : Radio} (hr : tget s.radios u = some r)
    (hs : r.state = .moving a p l k) (hd : k.deadline ≤ s.partTime) :
    exec (.handoverDeadlineExpiry u) s = .next (unwindHandover s u a p l k.tag .timedOut) := by
  show execHandoverDeadlineExpiry u s = _
  simp only [execHandoverDeadlineExpiry, hr, Option.map_some, hs, hd, if_true]

/-- Settles O29: both unwind the handover, the DECLINE after it has put the target in backoff. -/
theorem declineAndDeadlineUnwindHandovers : Obligations.DeclineAndDeadlineUnwindHandovers := by
  intro s u a p l k r hr hs
  refine ⟨fun reason rest hm hroom hadm => ?_, fun hd => ?_⟩
  · have hadm' : admits { s with siteIn := rest } p = true := admits_of_admitted hadm
    have htake : takeDecline { s with siteIn := rest } p u k.tag =
        unwindHandover (setBackoff { s with siteIn := rest } u p) u a p l k.tag .declined := by
      simp only [takeDecline, hadm', if_true, matching_of_moving (s := { s with siteIn := rest }) hr hs]
    have hback : setBackoff { s with siteIn := rest } u p = { s with
        siteIn := rest
        radios := tput s.radios u { r with hearing := r.hearing.map fun h =>
          if h.site = p then { h with backoff := some (s.partTime + tenths s.params.declineBackoff) } else h } } := by
      simp only [setBackoff, modRadio, tmod_of_some _ _ hr]
    rw [exec_decline_admitted hroom hm, htake, hback]
    obtain ⟨h1, h2, h3, h4⟩ := unwindHandover_facts { s with
        siteIn := rest
        radios := tput s.radios u { r with hearing := r.hearing.map fun h =>
          if h.site = p then { h with backoff := some (s.partTime + tenths s.params.declineBackoff) } else h } }
      u a p l k.tag .declined (tget_tput_self ..)
    refine ⟨_, rfl, h1, fun v hv => (h2 v hv).trans (tget_tput_ne _ _ hv), h3.trans ?_, h4⟩
    have hw : siteWorks { s with
        siteIn := rest
        radios := tput s.radios u { r with hearing := r.hearing.map fun h =>
          if h.site = p then { h with backoff := some (s.partTime + tenths s.params.declineBackoff) } else h } } p = true :=
      works_of_admitted hadm
    rw [hw]
    rfl
  · exact ⟨_, exec_handoverDeadline_due hr hs hd, unwindHandover_facts s u a p l k.tag .timedOut hr⟩

/-! ### The lease (R11, R12) -/

/-- Settles O36: a REGISTERED record only changes its state, and a MOVING one has its handover aborted first. -/
theorem leaseExpiryPresumes : Obligations.LeaseExpiryPresumes := by
  intro s u r hr
  refine ⟨fun a l hs hl => ?_, fun a p l k hs hl => ?_⟩
  · show execLeaseExpiry u s = _
    simp only [execLeaseExpiry, hr, Option.map_some, hs, hl, if_true, leaseToPresumed, setRecordState, modRadio, tmod_of_some _ _ hr]
    rfl
  · have hexec : exec (.leaseExpiry u) s = .next (abortByLease s u a p k.tag) := by
      show execLeaseExpiry u s = _
      simp only [execLeaseExpiry, hr, Option.map_some, hs, hl, if_true]
    have hst := unwind_state s a p (.cancel p u k.tag) (.cancel a u k.tag) (groupsOf s u) l
    have hparts : abortByLease s u a p k.tag =
        modRadio (removeCounts (sendHandover (sendHandover s p (.cancel p u k.tag)) a (.cancel a u k.tag)) (groupsOf s u) p) u
          (fun r => { r with
            state := .presumed a .lease (s.partTime + s.params.presumeHold * 10), lastHandover := some (.aborted, p) }) := by
      simp only [abortByLease, removeCounts_partTime, removeCounts_params, closing_eq, tenths]
    refine ⟨_, hexec, ?_⟩
    rw [hparts]
    exact handoverEnd_facts s u a p p (.cancel p u k.tag) (.cancel a u k.tag) (groupsOf s u) _ hr

/-! ### The holds (R16, R22) -/

/-- A DROP to the site that a record leaves, with room or at a site that does not work. -/
theorem sendOrdinary_ready {s : State} {n : Nat} {f : SiteOut}
    (h : siteWorks s n = true → s.outbound.length + 1 ≤ 448 ∧ roomForOne s) :
    sendOrdinary s n f = { s with outbound := s.outbound ++ if siteWorks s n then [f] else [] } := by
  cases hw : siteWorks s n with
  | true =>
    rw [sendOrdinary_of_room hw ((hasOrdinaryRoom_iff s).2 (h hw))]
    rfl
  | false =>
    rw [sendOrdinary_of_not hw]
    simp

/-- The state that the presume hold leaves before its notice. -/
def lostBefore (s : State) (u a : Nat) : State :=
  setRecordState (subTotals (removeCounts (sendOrdinary s a (.drop a u)) (groupsOf s u) a) (groupsOf s u)) u (.lost a)

theorem toLost_eq (s : State) (u a : Nat) : toLost s u a = raise (lostBefore s u a) (.lost u a (unitInEmergency s u)) := rfl

theorem lostBefore_facts (s : State) (u a : Nat) {r : Radio} (hr : tget s.radios u = some r) :
    let t := lostBefore s u a
    tget t.radios u = some { r with state := .lost a } ∧ (∀ v, v ≠ u → tget t.radios v = tget s.radios v) ∧
      (∀ j, (tget t.sites j).map Site.count = (tget s.sites j).map fun x => if j = a then x.count - 1 else x.count) ∧
      t.outbound = (sendOrdinary s a (.drop a u)).outbound ∧ t.notices = (sendOrdinary s a (.drop a u)).notices ∧
      t.calls = s.calls ∧ t.tagCounter = s.tagCounter ∧ engine t = engine s ∧ outer t = outer s ∧ t.partTime = s.partTime := by
  intro t
  have hsend := sendFrame_sendOrdinary s a (.drop a u)
  have hsub := groupFrame_subTotals (removeCounts (sendOrdinary s a (.drop a u)) (groupsOf s u) a) (groupsOf s u)
  have hradios : t.radios = tmod s.radios u fun r => { r with state := .lost a } := by
    rw [show t.radios = tmod (subTotals (removeCounts (sendOrdinary s a (.drop a u)) (groupsOf s u) a) (groupsOf s u)).radios u
      (fun r => { r with state := .lost a }) from rfl, hsub.radios, removeCounts_radios, hsend.radios]
  have houter : outer t = outer s := hsub.outer.trans ((outer_removeCounts _ _ _).trans hsend.outer)
  refine ⟨?_, fun v hv => ?_, fun j => ?_, ?_, ?_, ?_, ?_, ?_, houter, congrArg Outer.partTime houter⟩
  · rw [hradios, tget_tmod_self, hr]
    rfl
  · rw [hradios, tget_tmod_ne _ _ hv]
  · have h1 : t.sites = tmod (sendOrdinary s a (.drop a u)).sites a fallen := hsub.sites.trans (removeCounts_sites _ _ _)
    rw [h1, count_fallen]
    have := hsend.counts j
    cases h1 : tget (sendOrdinary s a (.drop a u)).sites j <;> cases h2 : tget s.sites j <;> simp_all
  · exact hsub.outbound.trans (removeCounts_outbound _ _ _)
  · exact (subTotals_notices _ _).trans (removeCounts_notices _ _ _)
  · exact hsub.calls.trans ((removeCounts_calls _ _ _).trans hsend.calls)
  · exact hsub.tag.trans ((removeCounts_tagCounter _ _ _).trans hsend.tag)
  · exact hsub.engine.trans ((engine_removeCounts _ _ _).trans (engine_sendOrdinary s a _ rfl))

/-- Settles O37: the counts and the DROP of a lost record with its notice, and the freeing of a RETIRED one. -/
theorem holdExpiriesLoseAndFree : Obligations.HoldExpiriesLoseAndFree := by
  intro s u r ha hr
  refine ⟨fun a y h hs hh => ?_, fun n y h hs hh hg => ?_⟩
  · have hexec : exec (.presumeHoldExpiry u) s = .next (toLost s u a) := by
      show execPresumeHoldExpiry u s = _
      simp only [execPresumeHoldExpiry, hr, Option.map_some, hs, hh, if_true]
    obtain ⟨h1, h2, h3, h4, h5, h6, h7, h8, h9, h10⟩ := lostBefore_facts s u a hr
    have hemerg : unitInEmergency s u = r.emergency.isSome := by simp only [unitInEmergency, hr]
    have hnotice : (sendOrdinary s a (.drop a u)).notices = s.notices → s.notices.length < 64 →
        (toLost s u a).notices = s.notices ++ [{ time := s.partTime, body := .lost u a r.emergency.isSome }] := fun hn hroom => by
      rw [toLost_eq, raise_of_room (by rw [h5, hn]; exact hroom), ← h10, ← hn, ← h5, hemerg]
    have hfull : (sendOrdinary s a (.drop a u)).notices = s.notices → 64 ≤ s.notices.length →
        (toLost s u a).notices = s.notices ∧ (toLost s u a).noticeOverflow = true := fun hn hroom => by
      rw [toLost_eq, raise_of_full (by rw [h5, hn]; exact hroom)]
      exact ⟨h5.trans hn, rfl⟩
    refine ⟨_, hexec, ?_⟩
    simp only [toLost_eq, raise_radios, raise_sites, raise_calls, raise_tagCounter, engine_raise, outer_raise, raise_outbound] at hnotice hfull ⊢
    refine ⟨h1, h2, h3, fun hw hl hroom => ?_, fun hw => ?_, h6, h7, h8, h9⟩
    · have hsend := sendOrdinary_ready (s := s) (n := a) (f := .drop a u) fun _ => ⟨hl, hroom⟩
      rw [hw, if_pos rfl] at hsend
      exact ⟨h4.trans (by rw [hsend]), hnotice (by rw [hsend])⟩
    · have hsend : sendOrdinary s a (.drop a u) = s := sendOrdinary_of_not hw
      exact ⟨h4.trans (by rw [hsend]), hnotice (by rw [hsend]), hfull (by rw [hsend])⟩
  · show execRetireHoldExpiry u s = _
    simp only [execRetireHoldExpiry, hr, Option.map_some, hs, hh, if_true, freeRecord_of_clear ha hr hg]

end Sys2Proof.Machine

/-! Reports of the sites (chapter 2): what admission, the class of a copy and the forming of a receipt make of a state. -/

namespace Sys2Proof.Machine

/-! ### The place of the answer (R26) -/

/-- The frame at the head has left the inbound queue, and f stands at the tail of the outbound queue. -/
def placed (s : State) (rest : List SiteMsg) (f : SiteOut) : State := { s with siteIn := rest, outbound := s.outbound ++ [f] }

theorem set_at_end {α : Type} (l more : List α) (x y : α) : (l ++ x :: more).set l.length y = l ++ y :: more := by
  induction l with
  | nil => rfl
  | cons a l ih => exact congrArg (a :: ·) ih

/-- The answer takes its place. -/
theorem setOut_of_outbound {s t : State} {f g : SiteOut} {more : List SiteOut} (h : t.outbound = s.outbound ++ f :: more) :
    setOut t s.outbound.length g = { t with outbound := s.outbound ++ g :: more } := by
  rw [setOut, h, set_at_end]

theorem setOut_placed (s : State) (rest : List SiteMsg) (f g : SiteOut) (radios : Table Radio) (notices : List Notice) :
    setOut { placed s rest f with radios := radios, notices := notices } s.outbound.length g =
      { placed s rest g with radios := radios, notices := notices } :=
  setOut_of_outbound (t := { placed s rest f with radios := radios, notices := notices }) rfl

section
variable {s : State} {rest : List SiteMsg}

theorem exec_copy {m : SiteMsg} {c : Instr} {k : Copy} (hm : s.siteIn = m :: rest) (hk : copyHead m = some (c, k)) (hroom : roomForOne s) :
    exec c s = .next (takeReport { s with siteIn := rest } k) := by
  have hr := hasRoom_of_room hroom
  cases m <;> simp only [copyHead, Option.some.injEq, Prod.mk.injEq, reduceCtorEq] at hk
  · obtain ⟨rfl, rfl⟩ := hk
    show execReg s = _
    simp only [execReg, hm, hr, if_true]
  · obtain ⟨rfl, rfl⟩ := hk
    show execHeard s = _
    simp only [execHeard, hm, hr, if_true]
  · obtain ⟨rfl, rfl⟩ := hk
    show execEmerg s = _
    simp only [execEmerg, hm, hr, if_true]

theorem exec_dereg {n u seq : Nat} (hm : s.siteIn = .dereg n u seq :: rest) (hroom : roomForOne s) :
    exec .dereg s = .next (takeDeregReport { s with siteIn := rest } n u seq) := by
  show execDereg s = _
  simp only [execDereg, hm, hasRoom_of_room hroom, if_true]

/-- The frame that holds the place of a receipt. -/
def holding (n u seq : Nat) : SiteOut := .receipt n u seq .notReady [] none

theorem takeReport_refused {k : Copy} {code : ReceiptCode} (h : refusal s k.site = some code) :
    takeReport { s with siteIn := rest } k = receipted s rest k.site k.unit k.seq code := by
  have h' : refusal (placed s rest (holding k.site k.unit k.seq)) k.site = some code := h
  show setOut _ _ _ = _
  simp only [show pushOut { s with siteIn := rest } (.receipt k.site k.unit k.seq .notReady [] none) =
    placed s rest (holding k.site k.unit k.seq) from rfl, h']
  exact setOut_placed s rest _ _ s.radios s.notices

theorem takeDeregReport_refused {n u seq : Nat} {code : ReceiptCode} (h : refusal s n = some code) :
    takeDeregReport { s with siteIn := rest } n u seq = receipted s rest n u seq code := by
  have h' : refusal (placed s rest (holding n u seq)) n = some code := h
  show setOut _ _ _ = _
  simp only [show pushOut { s with siteIn := rest } (.receipt n u seq .notReady [] none) = placed s rest (holding n u seq) from rfl, h']
  exact setOut_placed s rest _ _ s.radios s.notices

/-- A copy that is admitted and worked, and the receipt that is formed of it. -/
theorem takeReport_admitted {k : Copy} (hadm : admitted s k.site) {t : State} {code : ReceiptCode}
    (h : takeCopy (placed s rest (holding k.site k.unit k.seq)) k = (t, code)) :
    takeReport { s with siteIn := rest } k =
      setOut (formReceipt t k.site k.unit k.seq code (createsRecord k) k.groups).1 s.outbound.length
        (formReceipt t k.site k.unit k.seq code (createsRecord k) k.groups).2 := by
  have h' : refusal (placed s rest (holding k.site k.unit k.seq)) k.site = none := refusal_of_admitted (s := s) hadm
  show setOut _ _ _ = _
  simp only [show pushOut { s with siteIn := rest } (.receipt k.site k.unit k.seq .notReady [] none) =
    placed s rest (holding k.site k.unit k.seq) from rfl, h', h]

theorem takeDeregReport_admitted {n u seq : Nat} (hadm : admitted s n) {t : State} {code : ReceiptCode}
    (h : takeDereg (placed s rest (holding n u seq)) u seq = (t, code)) :
    takeDeregReport { s with siteIn := rest } n u seq = setOut t s.outbound.length (.receipt n u seq code [] none) := by
  have h' : refusal (placed s rest (holding n u seq)) n = none := refusal_of_admitted (s := s) hadm
  show setOut _ _ _ = _
  simp only [show pushOut { s with siteIn := rest } (.receipt n u seq .notReady [] none) = placed s rest (holding n u seq) from rfl,
    h', h, formReceipt, Bool.false_and, Bool.false_eq_true, if_false]

end

/-- Settles O21: a refused report changes nothing but that its receipt is queued. -/
theorem refusedReportsOnlyGetTheirReceipt : Obligations.RefusedReportsOnlyGetTheirReceipt := by
  intro s m rest c n u seq hm hhead hroom
  have refused : ∀ code, refusal s n = some code → exec c s = .next (receipted s rest n u seq code) := by
    intro code hcode
    cases m <;> simp only [reportHead, Option.some.injEq, Prod.mk.injEq, reduceCtorEq] at hhead <;> obtain ⟨rfl, rfl, rfl, rfl⟩ := hhead
    case dereg => rw [exec_dereg hm hroom, takeDeregReport_refused hcode]
    all_goals rw [exec_copy hm rfl hroom, takeReport_refused hcode]
  refine ⟨fun hp => refused _ (refusal_of_config hp), fun hp h => refused _ (refusal_of_not_configured hp h), fun x hp hw hx hst => ?_⟩
  refine refused _ ?_
  rw [refusal_of_configured hp hw hx]
  rcases hst with h | h <;> rw [h] <;> rfl

/-! ### The class of a copy (R28) -/

theorem createsRecord_eq (k : Copy) : createsRecord k = carriesParts k := rfl

theorem firstIsSame_iff (r : Radio) (seq : Nat) : firstIsSame r seq = true ↔ ownBurst r seq := by
  unfold firstIsSame ownBurst
  cases r.burst <;> cases r.prev <;> simp

theorem seqClass_older {p q : Nat} (h : 9 ≤ (q + 16 - p) % 16) : seqClass p q = .older := by
  unfold seqClass seqDistance
  rw [if_neg (by omega), if_neg (by omega)]

theorem seqClass_newer {p q : Nat} (h1 : 1 ≤ (q + 16 - p) % 16) (h2 : (q + 16 - p) % 16 ≤ 8) : seqClass p q = .newer := by
  unfold seqClass seqDistance
  rw [if_neg (by omega), if_pos h2]

theorem seqClass_same {p q : Nat} (h : (q + 16 - p) % 16 = 0) : seqClass p q = .same := if_pos h

theorem copyClass_newer {r : Radio} {k : Copy} (h : newerCopy r k) : copyClass r k.seq k.first = .newer := by
  unfold copyClass
  rcases h with ⟨hf, h1, h2⟩ | ⟨hf, hno⟩
  · rw [hf, if_neg (by decide), seqClass_newer h1 h2]
  · rw [hf, if_pos rfl, if_neg fun h => hno ⟨h.1, (firstIsSame_iff r k.seq).1 h.2⟩]

theorem copyClass_same {r : Radio} {k : Copy} (h : sameCopy r k) : copyClass r k.seq k.first = .same := by
  obtain ⟨h0, hown⟩ := h
  unfold copyClass
  cases hf : k.first with
  | true => rw [if_pos rfl, if_pos ⟨h0, (firstIsSame_iff r k.seq).2 (hown hf)⟩]
  | false => rw [if_neg (by decide), seqClass_same h0]

section
variable {s : State} {k : Copy} {r : Radio}

theorem takeCopy_absent (h0 : k.unit ≠ 0) (hu : tget s.radios k.unit = none) : takeCopy s k = copyAbsent s k := by
  simp only [takeCopy, h0, if_false, hu]

theorem takeCopy_retired (h0 : k.unit ≠ 0) (hu : tget s.radios k.unit = some r) (hs : stateName r.state = .retired) :
    takeCopy s k = copyRetired s k r := by
  simp only [takeCopy, h0, if_false, hu]
  cases hst : r.state <;> simp only [hst, stateName, reduceCtorEq] at hs ⊢

/-- A copy of a record that is not RETIRED, by its class. -/
theorem takeCopy_live (h0 : k.unit ≠ 0) (hu : tget s.radios k.unit = some r) (hs : stateName r.state ≠ .retired) :
    takeCopy s k = match copyClass r k.seq k.first with
      | .newer => copyNewer s k
      | .older => (s, .stale)
      | .same => match r.burst with
        | some b => copyOpen s k b
        | none => copyClosed s k r := by
  simp only [takeCopy, h0, if_false, hu]
  cases hst : r.state with
  | retired => rw [hst] at hs; exact absurd rfl hs
  | joining | registered | moving | presumed | lost => rfl

theorem takeCopy_newer (h0 : k.unit ≠ 0) (hu : tget s.radios k.unit = some r) (hs : stateName r.state ≠ .retired) (hk : newerCopy r k) :
    takeCopy s k = copyNewer s k := by
  rw [takeCopy_live h0 hu hs, copyClass_newer hk]

theorem takeCopy_older (h0 : k.unit ≠ 0) (hu : tget s.radios k.unit = some r) (hs : stateName r.state ≠ .retired) (hf : k.first = false)
    (hd : 9 ≤ (k.seq + 16 - r.lastSeq) % 16) : takeCopy s k = (s, .stale) := by
  rw [takeCopy_live h0 hu hs, copyClass, hf, if_neg (by decide), seqClass_older hd]

theorem takeCopy_open {b : Burst} (h0 : k.unit ≠ 0) (hu : tget s.radios k.unit = some r) (hs : stateName r.state ≠ .retired)
    (hk : sameCopy r k) (hb : r.burst = some b) : takeCopy s k = copyOpen s k b := by
  rw [takeCopy_live h0 hu hs, copyClass_same hk, hb]

theorem takeCopy_closed (h0 : k.unit ≠ 0) (hu : tget s.radios k.unit = some r) (hs : stateName r.state ≠ .retired)
    (hk : sameCopy r k) (hb : r.burst = none) : takeCopy s k = copyClosed s k r := by
  rw [takeCopy_live h0 hu hs, copyClass_same hk, hb]

end

/-! ### The receipt and what it delivers (R43 to R45) -/

/-- The state once a copy's receipt is formed: what it carried is delivered. -/
def delivered (t : State) (k : Copy) : State := if carriesParts k then clearFlags t k.unit else t

theorem regroupList_eq {t : State} {k : Copy} {r : Radio} (hu : tget t.radios k.unit = some r) :
    regroupList t k.unit k.groups = orderFor t r k := by
  simp only [regroupList, hu, orderFor]
  cases r.regroup <;> cases k.groups <;> rfl

theorem formReceipt_delivering {t : State} {k : Copy} {r : Radio} {code : ReceiptCode} (hu : tget t.radios k.unit = some r)
    (hc : code = .taken ∨ code = .merged) :
    formReceipt t k.site k.unit k.seq code (createsRecord k) k.groups = (delivered t k, receiptOf t r k code) := by
  have hcode : (code == .taken || code == .merged) = true := by rcases hc with rfl | rfl <;> rfl
  rw [formReceipt, hcode, Bool.and_true, createsRecord_eq, delivered, receiptOf, ← regroupList_eq hu]
  split
  · simp only [recallInstruction, hu]
  · rfl

theorem formReceipt_plain {t : State} {k : Copy} {code : ReceiptCode} (h : carriesParts k = false ∨ (code ≠ .taken ∧ code ≠ .merged)) :
    formReceipt t k.site k.unit k.seq code (createsRecord k) k.groups = (t, .receipt k.site k.unit k.seq code [] none) := by
  rw [formReceipt, createsRecord_eq, if_neg]
  rcases h with h | ⟨h1, h2⟩ <;> simp_all

section
variable {s : State} {k : Copy} {rest : List SiteMsg}

/-- A copy whose receipt carries no parts, and which changes the Directory and the notices at most. -/
theorem takeReport_plain (hadm : admitted s k.site) {code : ReceiptCode} {radios : Table Radio} {notices : List Notice}
    (hc : carriesParts k = false ∨ (code ≠ .taken ∧ code ≠ .merged))
    (h : takeCopy (placed s rest (holding k.site k.unit k.seq)) k =
      ({ placed s rest (holding k.site k.unit k.seq) with radios := radios, notices := notices }, code)) :
    takeReport { s with siteIn := rest } k =
      { receipted s rest k.site k.unit k.seq code with radios := radios, notices := notices } := by
  rw [takeReport_admitted hadm h, formReceipt_plain hc]
  exact setOut_placed s rest _ _ radios notices

/-- A copy that changes nothing. -/
theorem exec_copy_unchanged {m : SiteMsg} {c : Instr} (hm : s.siteIn = m :: rest) (hk : copyHead m = some (c, k)) (hroom : roomForOne s)
    (hadm : admitted s k.site) (code : ReceiptCode) (hc : code ≠ .taken ∧ code ≠ .merged)
    (h : takeCopy (placed s rest (holding k.site k.unit k.seq)) k = (placed s rest (holding k.site k.unit k.seq), code)) :
    exec c s = .next (receipted s rest k.site k.unit k.seq code) := by
  rw [exec_copy hm hk hroom]
  exact congrArg _ (takeReport_plain hadm (radios := s.radios) (notices := s.notices) (.inr hc) h)

theorem takeDeregReport_unchanged {n u seq : Nat} (hadm : admitted s n) {code : ReceiptCode}
    (h : takeDereg (placed s rest (holding n u seq)) u seq = (placed s rest (holding n u seq), code)) :
    takeDeregReport { s with siteIn := rest } n u seq = receipted s rest n u seq code := by
  rw [takeDeregReport_admitted hadm h]
  exact setOut_placed s rest _ _ s.radios s.notices

end

/-! ### Reports that change nothing (R6, R7, R27, R29, R35) -/

theorem retirees_eq_nil {s : State} (h : ∀ p ∈ s.radios, stateName p.2.state ≠ .retired) : retirees s = [] := by
  refine List.filterMap_eq_nil_iff.2 fun p hp => ?_
  split
  · rename_i hs
    exact absurd (by rw [hs]; rfl) (h p hp)
  · rfl

theorem createRecord_full {s : State} {k : Copy} (hl : 2048 ≤ s.radios.length) (h : ∀ p ∈ s.radios, stateName p.2.state ≠ .retired) :
    createRecord s k = (s, .refusedFull) := by
  rw [createRecord, if_neg (by simp only [Config.maxRecords]; omega), retirees_eq_nil h]
  rfl

/-- Settles O25: STALE, UNKNOWN and REFUSED-FULL reports by their kinds. -/
theorem unusableReportsOnlyGetTheirReceipt : Obligations.UnusableReportsOnlyGetTheirReceipt := by
  have stale : ∀ {s : State} {m : SiteMsg} {c : Instr} {k : Copy} {rest : List SiteMsg}, s.siteIn = m :: rest →
      copyHead m = some (c, k) → roomForOne s → admitted s k.site → k.unit ≠ 0 → ∀ r, tget s.radios k.unit = some r →
      stateName r.state ≠ .retired → k.first = false → 9 ≤ (k.seq + 16 - r.lastSeq) % 16 →
      exec c s = .next (receipted s rest k.site k.unit k.seq .stale) := by
    intro s m c k rest hm hk hroom hadm h0 r hu hs hf hd
    exact exec_copy_unchanged hm hk hroom hadm .stale (by simp) (takeCopy_older h0 hu hs hf hd)
  have full : ∀ {s : State} {m : SiteMsg} {c : Instr} {k : Copy} {rest : List SiteMsg}, s.siteIn = m :: rest →
      copyHead m = some (c, k) → roomForOne s → admitted s k.site → k.unit ≠ 0 → tget s.radios k.unit = none →
      carriesParts k = true → 2048 ≤ s.radios.length → (∀ p ∈ s.radios, stateName p.2.state ≠ .retired) →
      exec c s = .next (receipted s rest k.site k.unit k.seq .refusedFull) := by
    intro s m c k rest hm hk hroom hadm h0 hu hc hl hret
    refine exec_copy_unchanged hm hk hroom hadm .refusedFull (by simp) ?_
    rw [takeCopy_absent h0 (by exact hu), copyAbsent, createsRecord_eq, if_pos hc, createRecord_full (by exact hl) (by exact hret)]
  have zero : ∀ {s : State} {m : SiteMsg} {c : Instr} {k : Copy} {rest : List SiteMsg}, s.siteIn = m :: rest →
      copyHead m = some (c, k) → roomForOne s → admitted s k.site →
      k.unit = 0 ∨ (carriesParts k = false ∧ tget s.radios k.unit = none) →
      exec c s = .next (receipted s rest k.site k.unit k.seq .unknown) := by
    intro s m c k rest hm hk hroom hadm h
    refine exec_copy_unchanged hm hk hroom hadm .unknown (by simp) ?_
    by_cases h0 : k.unit = 0
    · rw [takeCopy, if_pos h0]
    · obtain ⟨hc, hu⟩ := h.resolve_left h0
      rw [takeCopy_absent h0 (by exact hu), copyAbsent, createsRecord_eq, if_neg (by rw [hc]; decide)]
  refine ⟨fun s m c k rest hm hk hroom hadm h0 => ⟨stale hm hk hroom hadm h0, full hm hk hroom hadm h0⟩,
    fun s n u seq q rest hroom hadm => ⟨fun r h0 hu hs hd => ⟨fun hm => ?_, fun hm => ?_⟩, fun h => ⟨fun hm => ?_, fun hm => ?_⟩,
      fun h0 hm => ?_, fun first groups hm => ⟨fun h0 => ?_, fun h0 hu hl hret => ?_⟩⟩⟩
  · exact stale hm rfl hroom hadm h0 r hu hs rfl hd
  · rw [exec_dereg hm hroom, takeDeregReport_unchanged hadm]
    have hu' : tget (placed s rest (holding n u seq)).radios u = some r := hu
    simp only [takeDereg, h0, if_false, hu', seqClass_older hd]
  · exact zero hm rfl hroom hadm (h.imp_right fun hu => ⟨rfl, hu⟩)
  · rw [exec_dereg hm hroom, takeDeregReport_unchanged hadm]
    by_cases h0 : u = 0
    · rw [takeDereg, if_pos h0]
    · have hu' : tget (placed s rest (holding n u seq)).radios u = none := h.resolve_left h0
      simp only [takeDereg, h0, if_false, hu']
  · exact zero hm rfl hroom hadm (.inl h0)
  · exact zero hm rfl hroom hadm (.inl h0)
  · exact full hm rfl hroom hadm h0 hu rfl hl hret

end Sys2Proof.Machine

/-! Copies of a burst (chapter 2): the receipt that delivers, merged and late copies, and the records that copies create. -/

namespace Sys2Proof.Machine

/-! ### A receipt that delivers (R43 to R45) -/

/-- What the delivery of a receipt's parts leaves. -/
theorem delivered_facts {t : State} {k : Copy} {r : Radio} (hu : tget t.radios k.unit = some r) :
    tget (delivered t k).radios k.unit = some { r with groups := deliveredTo r k } ∧
      (∀ v, v ≠ k.unit → tget (delivered t k).radios v = tget t.radios v) ∧ (delivered t k).outbound = t.outbound ∧
      (delivered t k).sites = t.sites ∧ (delivered t k).calls = t.calls ∧ (delivered t k).tagCounter = t.tagCounter ∧
      engine (delivered t k) = engine t ∧ outer (delivered t k) = outer t := by
  unfold delivered deliveredTo
  split
  · refine ⟨?_, fun v hv => ?_, clearFlags_outbound _ _, clearFlags_sites _ _, clearFlags_calls _ _, clearFlags_tagCounter _ _,
      engine_clearFlags _ _, outer_clearFlags _ _⟩
    · rw [clearFlags_radios, tget_tmod_self, hu]
      rfl
    · rw [clearFlags_radios, tget_tmod_ne _ _ hv]
  · exact ⟨hu, fun _ _ => rfl, rfl, rfl, rfl, rfl, rfl, rfl⟩

section
variable {s : State} {m : SiteMsg} {c : Instr} {k : Copy} {rest : List SiteMsg}

/-- A TAKEN or MERGED copy: its receipt takes its place once its parts are delivered. -/
theorem takeReport_delivering (hadm : admitted s k.site) {t : State} {r : Radio} {code : ReceiptCode} {more : List SiteOut}
    (hc : code = .taken ∨ code = .merged) (h : takeCopy (placed s rest (holding k.site k.unit k.seq)) k = (t, code))
    (hu : tget t.radios k.unit = some r) (ho : t.outbound = s.outbound ++ holding k.site k.unit k.seq :: more) :
    takeReport { s with siteIn := rest } k = { delivered t k with outbound := s.outbound ++ receiptOf t r k code :: more } := by
  obtain ⟨-, -, hout, -⟩ := delivered_facts hu
  rw [takeReport_admitted hadm h, formReceipt_delivering hu hc]
  exact setOut_of_outbound (hout.trans ho)

/-- A TAKEN or MERGED copy that changes its own record: r becomes r2, with what the receipt delivers. -/
theorem exec_copy_recorded (hm : s.siteIn = m :: rest) (hk : copyHead m = some (c, k)) (hroom : roomForOne s) (hadm : admitted s k.site)
    {r2 : Radio} {code : ReceiptCode} (hc : code = .taken ∨ code = .merged)
    (h : takeCopy (placed s rest (holding k.site k.unit k.seq)) k =
      ({ placed s rest (holding k.site k.unit k.seq) with radios := tput s.radios k.unit r2 }, code)) :
    ∃ t, exec c s = .next t ∧ t.outbound = s.outbound ++ [receiptOf s r2 k code] ∧
      tget t.radios k.unit = some { r2 with groups := deliveredTo r2 k } ∧ (∀ v, v ≠ k.unit → tget t.radios v = tget s.radios v) ∧
      (carriesParts k = true → (groupNumbers r2.groups).Nodup → FlagsCleared s t r2.groups) ∧
      t.sites = s.sites ∧ t.calls = s.calls ∧ t.tagCounter = s.tagCounter ∧ engine t = engine s ∧ outer t = outer { s with siteIn := rest } := by
  have hu : tget ({ placed s rest (holding k.site k.unit k.seq) with radios := tput s.radios k.unit r2 } : State).radios k.unit = some r2 :=
    tget_tput_self ..
  obtain ⟨h1, h2, -, h4⟩ := delivered_facts hu
  refine ⟨_, (exec_copy hm hk hroom).trans (congrArg _ (takeReport_delivering hadm hc h hu rfl)), rfl, h1, fun v hv => ?_, fun hp hnd => ?_, h4⟩
  · exact (h2 v hv).trans (tget_tput_ne _ _ hv)
  · have hf := clearFlags_cleared hu hnd
    rw [delivered, if_pos hp]
    have := hf.after (s := s) (.of_groups rfl rfl rfl) rfl
    exact ⟨this.unreached, this.notices⟩

/-- A HEARD copy that changes its own record: r becomes r2. -/
theorem exec_copy_partless (hm : s.siteIn = m :: rest) (hk : copyHead m = some (c, k)) (hroom : roomForOne s) (hadm : admitted s k.site)
    {radios : Table Radio} {notices : List Notice} (code : ReceiptCode)
    (hc : carriesParts k = false ∨ (code ≠ .taken ∧ code ≠ .merged))
    (h : takeCopy (placed s rest (holding k.site k.unit k.seq)) k =
      ({ placed s rest (holding k.site k.unit k.seq) with radios := radios, notices := notices }, code)) :
    exec c s = .next { receipted s rest k.site k.unit k.seq code with radios := radios, notices := notices } := by
  rw [exec_copy hm hk hroom, takeReport_plain hadm hc h]

end

/-! ### Newer copies on a record without an open burst (R30) -/

/-- The record on which copy k has opened its burst. -/
def openedBy (s : State) (r : Radio) (k : Copy) : Radio := { r with
  lastSeq := k.seq, burst := some (burstOf s k), prev := none,
  hearing := updateHearing s r.state r.hearing k.site k.quality s.partTime s.partTime }

theorem openBurst_of_some {s : State} {k : Copy} {r : Radio} (hu : tget s.radios k.unit = some r) :
    openBurst s k = { s with radios := tput s.radios k.unit (openedBy s r k) } := by
  unfold openBurst
  rw [modRadio, tmod_of_some _ _ hu]
  rfl

theorem closeBurst_of_none {s : State} {u t : Nat} {r : Radio} (hu : tget s.radios u = some r) (hb : r.burst = none) : closeBurst s u t = s := by
  simp only [closeBurst, hu, Option.bind_some, hb]

theorem copyNewer_of_none {s : State} {k : Copy} {r : Radio} (hu : tget s.radios k.unit = some r) (hb : r.burst = none) :
    copyNewer s k = ({ s with radios := tput s.radios k.unit (openedBy s r k) }, .taken) := by
  simp only [copyNewer, closeBurst_of_none hu hb, hu, openBurst_of_some hu]

/-- Settles O27: the EMERG copy opens its burst, and its receipt delivers what the record holds. -/
theorem emergReceiptDeliversTheRecall : Obligations.EmergReceiptDeliversTheRecall := by
  intro s n u seq q rest r hm hroom hadm h0 hu hs hb h1 h2
  let k : Copy := { site := n, unit := u, seq := seq, quality := q, first := false, groups := none, emerg := true }
  have htake : takeCopy (placed s rest (holding n u seq)) k =
      ({ placed s rest (holding n u seq) with radios := tput s.radios u (openedBy s r k) }, .taken) :=
    (takeCopy_newer h0 hu hs (.inl ⟨rfl, h1, h2⟩)).trans (copyNewer_of_none hu hb)
  obtain ⟨t, e, hout, hrec, hothers, hflags, hrest⟩ := exec_copy_recorded hm rfl hroom hadm (.inl rfl) htake
  refine ⟨t, e, hout.trans ?_, hrec, hothers, fun hnd => ⟨(hflags rfl hnd).unreached, (hflags rfl hnd).notices⟩, hrest⟩
  simp only [receiptOf, carriesParts, orderFor, Option.isSome_none, Bool.or_true, if_true, k, openedBy]
  cases r.regroup <;> rfl

/-! ### Copies of the last sequence (R32, R34) -/

/-- The record on which copy k has merged into its open burst b. -/
def mergedInto (s : State) (r : Radio) (b : Burst) (k : Copy) : Radio := { r with
  burst := some (mergedBurst b k), hearing := updateHearing s r.state r.hearing k.site k.quality s.partTime b.openedAt }

/-- The record on which copy k is late for the closed burst p. -/
def lateFor (s : State) (r : Radio) (p : PrevBurst) (k : Copy) : Radio := { r with
  prev := some { p with sites := p.sites ++ [k.site] },
  hearing := updateHearing s r.state r.hearing k.site k.quality p.openedAt p.openedAt }

section
variable {s : State} {k : Copy} {r : Radio}

theorem copyOpen_new {b : Burst} (hu : tget s.radios k.unit = some r) (hn : k.site ∉ b.sites) :
    copyOpen s k b = ({ s with radios := tput s.radios k.unit (mergedInto s r b k) }, .merged) := by
  rw [copyOpen, if_neg (by simpa using hn), modRadio, tmod_of_some _ _ hu]
  rfl

theorem copyOpen_known {b : Burst} (hn : k.site ∈ b.sites) : copyOpen s k b = (s, .duplicate) := if_pos (by simpa using hn)

theorem copyClosed_late {p : PrevBurst} (hu : tget s.radios k.unit = some r) (hp : r.prev = some p) (hq : p.seq = k.seq)
    (hn : k.site ∉ p.sites) (he : k.emerg = false ∨ r.emergency ≠ none) :
    copyClosed s k r = ({ s with radios := tput s.radios k.unit (lateFor s r p k) }, .late) := by
  have hlate : (modRadio s k.unit fun r => { r with
      prev := some { p with sites := p.sites ++ [k.site] },
      hearing := updateHearing s r.state r.hearing k.site k.quality p.openedAt p.openedAt }) =
      { s with radios := tput s.radios k.unit (lateFor s r p k) } := by
    rw [modRadio, tmod_of_some _ _ hu]
    rfl
  simp only [copyClosed, hp]
  rw [if_pos ⟨hq, by simpa using hn⟩, hlate]
  rcases he with he | he
  · rw [he]
    rfl
  · have : (lateFor s r p k).emergency.isSome = true := Option.isSome_iff_ne_none.2 he
    split
    · rw [activateEmergency_of_some (tget_tput_self ..), if_pos this]
    · rfl

theorem copyClosed_late_emergency {p : PrevBurst} (hu : tget s.radios k.unit = some r) (hp : r.prev = some p) (hq : p.seq = k.seq)
    (hn : k.site ∉ p.sites) (he : k.emerg = true) (hr : r.emergency = none) (hroom : s.notices.length < 64) :
    copyClosed s k r = ({ s with
      radios := tput s.radios k.unit { lateFor s r p k with emergency := some { since := s.partTime, site := k.site } }
      notices := s.notices ++ [{ time := s.partTime, body := .emergency k.unit k.site (stateName r.state) }] }, .late) := by
  have hlate : (modRadio s k.unit fun r => { r with
      prev := some { p with sites := p.sites ++ [k.site] },
      hearing := updateHearing s r.state r.hearing k.site k.quality p.openedAt p.openedAt }) =
      { s with radios := tput s.radios k.unit (lateFor s r p k) } := by
    rw [modRadio, tmod_of_some _ _ hu]
    rfl
  have hnone : (lateFor s r p k).emergency.isSome = false := by rw [lateFor, hr]; rfl
  simp only [copyClosed, hp]
  rw [if_pos ⟨hq, by simpa using hn⟩, hlate, if_pos he, activateEmergency_of_some (tget_tput_self ..), hnone, if_neg (by decide),
    raise_of_room (by exact hroom)]
  simp only [modRadio, tmod_tput]
  rfl

theorem copyClosed_duplicate (h : ∀ p, r.prev = some p → p.seq ≠ k.seq ∨ k.site ∈ p.sites) : copyClosed s k r = (s, .duplicate) := by
  unfold copyClosed
  split
  · rename_i p hp
    rw [if_neg]
    rintro ⟨hq, hn⟩
    rcases h p hp with h | h
    · exact h hq
    · simp [h] at hn
  · rfl

end

theorem receiptOf_mergedInto (s : State) (r : Radio) (b : Burst) (k : Copy) (code : ReceiptCode) :
    receiptOf s (mergedInto s r b k) k code = receiptOf s r k code := rfl

theorem mergedBurst_eq (b : Burst) (k : Copy) : mergedBurst b k = { b with
    sites := b.sites ++ [k.site], first := b.first || k.first
    emergency := (if k.emerg = true ∧ b.emergency = none then some k.site else b.emergency)
    reported := (if b.reported = none then k.groups else b.reported) } := by
  unfold mergedBurst
  cases b.emergency <;> cases b.reported <;> cases k.emerg <;> rfl

/-- Settles O24: a copy of the last sequence merges into the open burst, or is late for the closed one, or is known. -/
theorem sameHeardMergesOrIsLate : Obligations.SameHeardMergesOrIsLate := by
  refine ⟨fun s n u seq q rest r hm hroom hadm h0 hu hs hd => ?_, fun s m c k rest r hm hk hroom hadm h0 hu hs hsame => ?_⟩
  · let k : Copy := { site := n, unit := u, seq := seq, quality := q, first := false, groups := none, emerg := false }
    have hsame : sameCopy r k := ⟨hd, fun h => nomatch h⟩
    have known : ∀ {code}, code ≠ .taken ∧ code ≠ .merged →
        takeCopy (placed s rest (holding n u seq)) k = (placed s rest (holding n u seq), code) →
        exec .heard s = .next (receipted s rest n u seq code) := fun hc h => exec_copy_unchanged hm rfl hroom hadm _ hc h
    have changed : ∀ {code r2}, takeCopy (placed s rest (holding n u seq)) k =
        ({ placed s rest (holding n u seq) with radios := tput s.radios u r2 }, code) →
        exec .heard s = .next { receipted s rest n u seq code with radios := tput s.radios u r2 } := fun h =>
      exec_copy_partless (notices := s.notices) hm rfl hroom hadm _ (.inl rfl) h
    refine ⟨fun b hb hn => ?_, fun b hb hn => ?_, fun p hb hp hq hn => ?_, fun p hb hp hq hn => ?_, fun hb hp => ?_⟩
    · refine (changed ((takeCopy_open h0 hu hs hsame hb).trans (copyOpen_new hu hn))).trans ?_
      rw [mergedInto, mergedBurst_eq]
      simp only [Bool.false_eq_true, false_and, if_false, Bool.or_false, k]
      cases b.reported <;> rfl
    · exact known (by simp) ((takeCopy_open h0 hu hs hsame hb).trans (copyOpen_known hn))
    · exact changed ((takeCopy_closed h0 hu hs hsame hb).trans (copyClosed_late hu hp hq hn (.inl rfl)))
    · refine known (by simp) ((takeCopy_closed h0 hu hs hsame hb).trans (copyClosed_duplicate fun p' hp' => .inr ?_))
      rw [hp] at hp'
      cases hp'
      exact hn
    · refine known (by simp) ((takeCopy_closed h0 hu hs hsame hb).trans (copyClosed_duplicate fun p' hp' => ?_))
      rw [hp] at hp'
      cases hp'
  · have hu' : tget (placed s rest (holding k.site k.unit k.seq)).radios k.unit = some r := hu
    refine ⟨fun b hb hn => ?_, fun b hb hn => ?_, fun p hb hp hq hn => ⟨fun he => ?_, fun he hr hnotice => ?_⟩, fun hb hp => ?_⟩
    · obtain ⟨t, e, hout, hrec, hothers, -, hrest⟩ := exec_copy_recorded hm hk hroom hadm (.inr rfl)
        ((takeCopy_open h0 hu' hs hsame hb).trans (copyOpen_new hu' hn))
      refine ⟨t, e, hout, hrec.trans ?_, hothers, hrest⟩
      rw [mergedInto, mergedBurst_eq]
      rfl
    · exact exec_copy_unchanged hm hk hroom hadm _ (by simp) ((takeCopy_open h0 hu' hs hsame hb).trans (copyOpen_known hn))
    · exact exec_copy_partless (notices := s.notices) hm hk hroom hadm _ (.inr (by simp))
        ((takeCopy_closed h0 hu' hs hsame hb).trans (copyClosed_late hu' hp hq hn he))
    · exact exec_copy_partless hm hk hroom hadm _ (.inr (by simp))
        ((takeCopy_closed h0 hu' hs hsame hb).trans (copyClosed_late_emergency hu' hp hq hn he hr hnotice))
    · exact exec_copy_unchanged hm hk hroom hadm _ (by simp) ((takeCopy_closed h0 hu' hs hsame hb).trans (copyClosed_duplicate hp))

/-! ### Records that copies create (R3, R6 to R8) -/

theorem freshRecord_eq (s : State) (k : Copy) : freshRecord s k = newRecord s k.site k.seq k.quality (burstOf s k) := rfl

section
variable {s : State} {m : SiteMsg} {c : Instr} {k : Copy} {rest : List SiteMsg}

/-- A copy that creates a record, perhaps after the close of a burst: no part is there to deliver. -/
theorem exec_copy_entered (hm : s.siteIn = m :: rest) (hk : copyHead m = some (c, k)) (hroom : roomForOne s) (hadm : admitted s k.site)
    {t : State} {radios : Table Radio} {more : List SiteOut}
    (h : takeCopy (placed s rest (holding k.site k.unit k.seq)) k =
      ({ t with radios := tput radios k.unit (newRecord s k.site k.seq k.quality (burstOf s k)) }, .taken))
    (ho : t.outbound = s.outbound ++ holding k.site k.unit k.seq :: more) :
    exec c s = .next { t with
      radios := tput radios k.unit (newRecord s k.site k.seq k.quality (burstOf s k))
      outbound := s.outbound ++ .receipt k.site k.unit k.seq .taken [] none :: more } := by
  rw [exec_copy hm hk hroom, takeReport_delivering hadm (.inl rfl) h (tget_tput_self ..) (by exact ho)]
  have hreceipt : ∀ t, receiptOf t (newRecord s k.site k.seq k.quality (burstOf s k)) k .taken =
      .receipt k.site k.unit k.seq .taken [] none := fun t => by
    rw [receiptOf]
    split
    · simp only [orderFor, newRecord]
      cases k.groups <;> rfl
    · rfl
  rw [hreceipt, delivered]
  split
  · rw [clearFlags_of_clear (tget_tput_self ..) (by intro m hm; cases hm), tput_tput]
  · rfl

theorem exec_copy_created (hm : s.siteIn = m :: rest) (hk : copyHead m = some (c, k)) (hroom : roomForOne s) (hadm : admitted s k.site)
    {radios : Table Radio}
    (h : takeCopy (placed s rest (holding k.site k.unit k.seq)) k =
      ({ placed s rest (holding k.site k.unit k.seq) with
          radios := tput radios k.unit (newRecord s k.site k.seq k.quality (burstOf s k)) }, .taken)) :
    exec c s = .next { receipted s rest k.site k.unit k.seq .taken with
      radios := tput radios k.unit (newRecord s k.site k.seq k.quality (burstOf s k)) } :=
  exec_copy_entered (t := placed s rest (holding k.site k.unit k.seq)) hm hk hroom hadm h rfl

theorem takeCopy_created (h0 : k.unit ≠ 0) (hu : tget s.radios k.unit = none) (hc : carriesParts k = true) (hl : s.radios.length < 2048) :
    takeCopy s k = ({ s with radios := tput s.radios k.unit (newRecord s k.site k.seq k.quality (burstOf s k)) }, .taken) := by
  rw [takeCopy_absent h0 hu, copyAbsent, createsRecord_eq, if_pos hc, createRecord, if_pos hl]
  rfl

end

/-- The order of reclamation decides and is transitive. -/
theorem reclaimedBefore_chains : Chains reclaimedBefore := by
  intro a b c h1 h2
  simp only [reclaimedBefore, Bool.or_eq_true, Bool.and_eq_true, decide_eq_true_eq, beq_iff_eq] at h1 h2 ⊢
  omega

theorem reclaimedBefore_decides (l : List Retiree) : Decides reclaimedBefore l := by
  intro a _ b _ hne
  have hab : a.retiredAt = b.retiredAt → a.unit ≠ b.unit := fun h1 h2 => hne (by cases a; cases b; simp_all)
  rw [Bool.eq_iff_iff]
  simp only [reclaimedBefore, Bool.or_eq_true, Bool.and_eq_true, decide_eq_true_eq, beq_iff_eq, Bool.not_eq_true', Bool.or_eq_false_iff,
    Bool.and_eq_false_imp, decide_eq_false_iff_not]
  omega

theorem mem_retirees_of_tget {s : State} {v n y h : Nat} {r : Radio} (hv : tget s.radios v = some r) (hs : r.state = .retired n y h) :
    { unit := v, retiredAt := y } ∈ retirees s := by
  refine List.mem_filterMap.2 ⟨(v, r), mem_of_tget hv, ?_⟩
  simp only [hs]

/-- The record that is reclaimed is the one retired earliest, of the lower unit on a tie (R7). -/
theorem bestOf_retirees {s : State} {v n y h : Nat} {r : Radio} (ha : Ascending s.radios) (hv : tget s.radios v = some r)
    (hs : r.state = .retired n y h) (hall : ∀ v' r' n' y' h', v' ≠ v → tget s.radios v' = some r' → r'.state = .retired n' y' h' →
      y < y' ∨ (y = y' ∧ v < v')) : bestOf reclaimedBefore (retirees s) = some { unit := v, retiredAt := y } := by
  refine (bestOf_eq_some_iff reclaimedBefore_chains (reclaimedBefore_decides _) _).2 ⟨mem_retirees_of_tget hv hs, fun x hx => ?_⟩
  obtain ⟨r', n', h', hx, hst⟩ := mem_retirees ha hx
  by_cases hne : x.unit = v
  · left
    rw [hne, hv] at hx
    cases hx
    rw [hs] at hst
    cases hst
    cases x
    simp_all
  · right
    simpa [reclaimedBefore] using hall x.unit r' n' x.retiredAt h' hne hx hst

/-- Settles O22: a copy creates, reclaims or revives by what the Directory holds of its unit. -/
theorem copiesOfAbsentUnitsCreateRecords : Obligations.CopiesOfAbsentUnitsCreateRecords := by
  have created : ∀ {s : State} {m : SiteMsg} {c : Instr} {k : Copy} {rest : List SiteMsg}, s.siteIn = m :: rest →
      copyHead m = some (c, k) → roomForOne s → admitted s k.site → k.unit ≠ 0 → tget s.radios k.unit = none → s.radios.length < 2048 →
      carriesParts k = true → exec c s = .next { receipted s rest k.site k.unit k.seq .taken with
        radios := tput s.radios k.unit (newRecord s k.site k.seq k.quality (burstOf s k)) } :=
    fun hm hk hroom hadm h0 hu hl hc => exec_copy_created hm hk hroom hadm (takeCopy_created h0 hu hc hl)
  refine ⟨fun s n u seq q rest hroom hadm h0 hu hl => ⟨fun first groups hm => created hm rfl hroom hadm h0 hu hl rfl, fun hm => ?_⟩,
    fun s m c k rest hm hk hroom hadm h0 => ⟨fun v old n y h hc hu ha hl hv hst hflags hall => ?_, fun r hu hs =>
      ⟨fun hc hnew => ?_, fun hc hf hd => ?_, fun hc hf hd => ?_, fun hc => ?_⟩⟩⟩
  · exact created hm rfl hroom hadm h0 hu hl rfl
  · refine exec_copy_created hm hk hroom hadm ?_
    have hbest : bestOf reclaimedBefore (retirees (placed s rest (holding k.site k.unit k.seq))) = some { unit := v, retiredAt := y } :=
      bestOf_retirees (s := placed s rest _) ha hv hst hall
    have hfree : freeRecord (placed s rest (holding k.site k.unit k.seq)) v =
        { placed s rest (holding k.site k.unit k.seq) with radios := tdel s.radios v } :=
      freeRecord_of_clear (s := placed s rest _) ha hv hflags
    rw [takeCopy_absent h0 (by exact hu), copyAbsent, createsRecord_eq, if_pos hc, createRecord,
      if_neg (by rw [Config.maxRecords]; exact Nat.not_lt.2 (Nat.le_of_eq hl)), hbest]
    simp only [hfree]
    rfl
  · refine exec_copy_created hm hk hroom hadm ?_
    have hgo : (k.first || seqClass r.lastSeq k.seq == .newer) = true := by
      rcases hnew with h | ⟨h1, h2⟩
      · rw [h]; rfl
      · rw [seqClass_newer h1 h2]; exact Bool.or_true _
    rw [takeCopy_retired h0 (by exact hu) hs, copyRetired, createsRecord_eq, if_pos hc, if_pos hgo]
    rfl
  · refine exec_copy_unchanged hm hk hroom hadm _ (by simp) ?_
    rw [takeCopy_retired h0 (by exact hu) hs, copyRetired, createsRecord_eq, if_pos hc, hf, seqClass_same hd]
    rfl
  · refine exec_copy_unchanged hm hk hroom hadm _ (by simp) ?_
    rw [takeCopy_retired h0 (by exact hu) hs, copyRetired, createsRecord_eq, if_pos hc, hf, seqClass_older hd]
    rfl
  · refine exec_copy_unchanged hm hk hroom hadm _ (by simp) ?_
    rw [takeCopy_retired h0 (by exact hu) hs, copyRetired, createsRecord_eq, if_neg (by rw [hc]; decide)]

end Sys2Proof.Machine

/-! The close of a burst reads neither the answer whose place is held nor the settle deadline of the burst that it closes: two states that
differ in these alone close alike (R26, R31, R36). -/

namespace Sys2Proof.Machine

/-- The record with its burst's settle deadline at d. -/
def withSettle (d : Nat) (r : Radio) : Radio := { r with burst := r.burst.map fun b => { b with settle := d } }

/-- State t is s but for the frame at place i of the outbound queue and the settle deadline of unit u's burst. -/
structure Twin (i : Nat) (f : SiteOut) (u d : Nat) (s t : State) : Prop where
  ascending : Ascending s.radios
  place : i < s.outbound.length
  eq : t = { s with outbound := s.outbound.set i f, radios := tmod s.radios u (withSettle d) }

namespace Twin

variable {i : Nat} {f : SiteOut} {u d : Nat} {s t : State}

/-! ### What twins read alike -/

theorem sites (h : Twin i f u d s t) : t.sites = s.sites := (congrArg State.sites h.eq).trans rfl
theorem groups (h : Twin i f u d s t) : t.groups = s.groups := (congrArg State.groups h.eq).trans rfl
theorem calls (h : Twin i f u d s t) : t.calls = s.calls := (congrArg State.calls h.eq).trans rfl
theorem bulk (h : Twin i f u d s t) : t.bulk = s.bulk := (congrArg State.bulk h.eq).trans rfl
theorem time (h : Twin i f u d s t) : t.partTime = s.partTime := (congrArg State.partTime h.eq).trans rfl
theorem params (h : Twin i f u d s t) : t.params = s.params := (congrArg State.params h.eq).trans rfl
theorem notices (h : Twin i f u d s t) : t.notices = s.notices := (congrArg State.notices h.eq).trans rfl
theorem tag (h : Twin i f u d s t) : t.tagCounter = s.tagCounter := (congrArg State.tagCounter h.eq).trans rfl

theorem occupancy (h : Twin i f u d s t) : t.outbound.length = s.outbound.length := by
  rw [h.eq]
  exact List.length_set

theorem record (h : Twin i f u d s t) : tget t.radios u = (tget s.radios u).map (withSettle d) := by
  rw [h.eq]
  exact tget_tmod_self ..

theorem moving (h : Twin i f u d s t) : movingCount t = movingCount s := by
  rw [h.eq]
  exact movingCount_tmod_same (u := u) (f := withSettle d) h.ascending (fun _ _ => rfl) rfl

theorem room (h : Twin i f u d s t) (n : Nat) : hasRoom t n = hasRoom s n := by
  unfold hasRoom
  rw [decide_eq_decide]
  simp only [Machine.occupancy, handoverReserve, h.occupancy, h.moving]

theorem ordinaryRoom (h : Twin i f u d s t) : hasOrdinaryRoom t = hasOrdinaryRoom s := by
  unfold hasOrdinaryRoom
  rw [h.room]
  refine congrArg (· && _) ?_
  rw [decide_eq_decide]
  simp only [Machine.occupancy, h.occupancy]

theorem works (h : Twin i f u d s t) (n : Nat) : siteWorks t n = siteWorks s n := by simp only [siteWorks, h.sites]

theorem groupsOf (h : Twin i f u d s t) : groupsOf t u = groupsOf s u := by
  simp only [Machine.groupsOf, h.record]
  cases tget s.radios u <;> rfl

theorem registered (h : Twin i f u d s t) : isRegistered t u = isRegistered s u := by
  simp only [isRegistered, h.record]
  cases tget s.radios u <;> rfl

/-! ### The shared operations -/

theorem ite {p q : Prop} [Decidable p] [Decidable q] {a b c e : State} (hpq : q ↔ p) (h1 : Twin i f u d a b) (h2 : Twin i f u d c e) :
    Twin i f u d (if p then a else c) (if q then b else e) := by
  by_cases hp : p
  · rw [if_pos hp, if_pos (hpq.2 hp)]
    exact h1
  · rw [if_neg hp, if_neg (mt hpq.1 hp)]
    exact h2

theorem foldl {β : Type} {op : State → β → State} (hop : ∀ {s t}, Twin i f u d s t → ∀ x, Twin i f u d (op s x) (op t x))
    (h : Twin i f u d s t) (l : List β) : Twin i f u d (l.foldl op s) (l.foldl op t) := by
  induction l generalizing s t with
  | nil => exact h
  | cons x l ih => exact ih (hop h x)

theorem pushOut (h : Twin i f u d s t) (g : SiteOut) : Twin i f u d (pushOut s g) (pushOut t g) := by
  refine ⟨h.ascending, ?_, ?_⟩
  · have := h.place
    simp only [Machine.pushOut, List.length_append]
    omega
  · rw [h.eq]
    simp only [Machine.pushOut, List.set_append_left _ _ h.place]

theorem modRadio (h : Twin i f u d s t) (g : Radio → Radio)
    (hg : ∀ r, g (withSettle d r) = withSettle d (g r) := by exact fun _ => rfl) :
    Twin i f u d (modRadio s u g) (modRadio t u g) := by
  refine ⟨ascending_tmod _ _ _ h.ascending, h.place, ?_⟩
  rw [h.eq]
  simp only [Machine.modRadio, tmod_tmod, show g ∘ withSettle d = withSettle d ∘ g from funext hg]

theorem delRadio (h : Twin i f u d s t) : Twin i f u d (delRadio s u) (delRadio t u) := by
  refine ⟨ascending_tdel _ _ h.ascending, h.place, ?_⟩
  rw [h.eq]
  simp only [Machine.delRadio, tdel_tmod _ _ _ h.ascending, tmod_of_none _ _ (tget_tdel_self _ _ h.ascending)]

theorem modSite (h : Twin i f u d s t) (n : Nat) (g : Site → Site) : Twin i f u d (modSite s n g) (modSite t n g) :=
  ⟨h.ascending, h.place, by rw [h.eq]; rfl⟩

theorem modGroup (h : Twin i f u d s t) (n : Nat) (g : Group → Group) : Twin i f u d (modGroup s n g) (modGroup t n g) :=
  ⟨h.ascending, h.place, by rw [h.eq]; rfl⟩

theorem modCall (h : Twin i f u d s t) (n : Nat) (g : Call → Call) : Twin i f u d (modCall s n g) (modCall t n g) :=
  ⟨h.ascending, h.place, by rw [h.eq]; rfl⟩

theorem raise (h : Twin i f u d s t) (b : NoticeBody) : Twin i f u d (raise s b) (raise t b) := by
  unfold Machine.raise
  refine ite (by rw [h.notices]) ⟨h.ascending, h.place, ?_⟩ ⟨h.ascending, h.place, ?_⟩ <;> rw [h.eq]

theorem setGap (h : Twin i f u d s t) : Twin i f u d (setGap s) (setGap t) := ⟨h.ascending, h.place, by rw [h.eq]; rfl⟩

theorem setSyncLost (h : Twin i f u d s t) (n : Nat) : Twin i f u d (setSyncLost s n) (setSyncLost t n) := by
  unfold Machine.setSyncLost
  rw [h.sites]
  cases tget s.sites n with
  | none => exact h
  | some x => exact ite .rfl h ((h.modSite n _).raise _)

theorem sendOrdinary (h : Twin i f u d s t) (n : Nat) (g : SiteOut) : Twin i f u d (sendOrdinary s n g) (sendOrdinary t n g) := by
  have hrun : resyncRunning t n = resyncRunning s n := by simp only [resyncRunning, h.bulk]
  unfold Machine.sendOrdinary
  rw [h.works, h.ordinaryRoom, hrun]
  exact ite .rfl (ite .rfl (h.pushOut g) ((ite .rfl h.setGap h).setSyncLost n)) h

theorem sendHandover (h : Twin i f u d s t) (n : Nat) (g : SiteOut) : Twin i f u d (sendHandover s n g) (sendHandover t n g) := by
  unfold Machine.sendHandover
  rw [h.works]
  exact ite .rfl (h.pushOut g) h

theorem setOver (h : Twin i f u d s t) (n : Nat) : Twin i f u d (setOver s n) (setOver t n) := by
  unfold Machine.setOver
  rw [h.sites]
  cases tget s.sites n with
  | none => exact h
  | some x => exact ite .rfl h ((h.modSite n _).raise _)

theorem addReg (h : Twin i f u d s t) (n : Nat) : Twin i f u d (addReg s n) (addReg t n) := h.modSite n _
theorem subReg (h : Twin i f u d s t) (n : Nat) : Twin i f u d (subReg s n) (subReg t n) := h.modSite n _
theorem addMembers (h : Twin i f u d s t) (gs : List Nat) (n : Nat) : Twin i f u d (addMembers s gs n) (addMembers t gs n) :=
  foldl (op := fun s g => addMember s g n) (fun h g => h.modGroup g _) h gs
theorem subMembers (h : Twin i f u d s t) (gs : List Nat) (n : Nat) : Twin i f u d (subMembers s gs n) (subMembers t gs n) :=
  foldl (op := fun s g => subMember s g n) (fun h g => h.modGroup g _) h gs
theorem addTotals (h : Twin i f u d s t) (gs : List Nat) : Twin i f u d (addTotals s gs) (addTotals t gs) :=
  foldl (op := addTotal) (fun h g => h.modGroup g _) h gs
theorem removeCounts (h : Twin i f u d s t) (gs : List Nat) (n : Nat) : Twin i f u d (removeCounts s gs n) (removeCounts t gs n) :=
  (h.subReg n).subMembers gs n

theorem lowerUnreached (h : Twin i f u d s t) (g : Nat) : Twin i f u d (lowerUnreached s g) (lowerUnreached t g) := by
  have hrun : recallRunning t g = recallRunning s g := by simp only [recallRunning, h.bulk]
  unfold Machine.lowerUnreached
  rw [h.groups]
  cases tget s.groups g with
  | none => exact h
  | some x => exact ite (by rw [hrun]) ((h.modGroup g _).raise _) (h.modGroup g _)

theorem clearFlags (h : Twin i f u d s t) : Twin i f u d (clearFlags s u) (clearFlags t u) := by
  unfold Machine.clearFlags
  rw [h.record]
  cases tget s.radios u with
  | none => exact h
  | some r => exact foldl (fun h g => h.lowerUnreached g) (h.modRadio _) _

theorem freeRecord (h : Twin i f u d s t) : Twin i f u d (freeRecord s u) (freeRecord t u) := h.clearFlags.delRadio

theorem memberCount (h : Twin i f u d s t) (g n : Nat) : memberCount t g n = memberCount s g n := by
  simp only [Machine.memberCount, h.groups]

theorem risenAt (h : Twin i f u d s t) (gs : List Nat) (n : Nat) : risenAt t gs n = risenAt s gs n := by
  simp only [Machine.risenAt, h.memberCount]

/-! ### Calls -/

theorem setStatus (h : Twin i f u d s t) (c n : Nat) (st : CallStatus) : Twin i f u d (setStatus s c n st) (setStatus t c n st) :=
  h.modCall c _
theorem leaveQueue (h : Twin i f u d s t) (n c : Nat) : Twin i f u d (leaveQueue s n c) (leaveQueue t n c) := h.modSite n _
theorem joinQueue (h : Twin i f u d s t) (n c : Nat) : Twin i f u d (joinQueue s n c) (joinQueue t n c) := h.modSite n _

theorem priority (h : Twin i f u d s t) (c : Nat) : callPriority t c = callPriority s c := by simp only [callPriority, h.calls]

theorem queue (h : Twin i f u d s t) (n : Nat) : channelQueue t n = channelQueue s n := by
  simp only [channelQueue, joinedQueue, ofPriority, h.priority, h.sites]

theorem grantChannel (h : Twin i f u d s t) (c n ch : Nat) : Twin i f u d (grantChannel s c n ch) (grantChannel t c n ch) := by
  unfold Machine.grantChannel
  rw [h.calls, h.time]
  exact (h.setStatus c n _).pushOut _

theorem queueCall (h : Twin i f u d s t) (c n : Nat) : Twin i f u d (queueCall s c n) (queueCall t c n) := by
  have hq : joinedQueue t n = joinedQueue s n := by simp only [joinedQueue, h.sites]
  unfold Machine.queueCall
  simp only [h.time, h.params, h.queue, h.priority, hq]
  refine ite .rfl ((h.joinQueue n c).setStatus c n _) ?_
  cases (channelQueue s n).getLast? with
  | none => exact h.setStatus c n _
  | some last => exact ite .rfl ((((h.leaveQueue n last).setStatus last n _).joinQueue n c).setStatus c n _) (h.setStatus c n _)

theorem preempt (h : Twin i f u d s t) (c n : Nat) : Twin i f u d (preempt s c n) (preempt t c n) := by
  have hv : victims t n = victims s n := by simp only [victims, h.calls]
  unfold Machine.preempt
  rw [hv]
  cases bestOf preemptedBefore (victims s n) with
  | none => exact h.queueCall c n
  | some v =>
    simp only [h.calls]
    exact ite (by rw [h.room]) ((((h.setStatus v.call n _).pushOut _).grantChannel c n v.channel).raise _) (h.setStatus c n _)

theorem arbitrate (h : Twin i f u d s t) (c n : Nat) : Twin i f u d (arbitrate s c n) (arbitrate t c n) := by
  have hf : freeChannel t n = freeChannel s n := by simp only [freeChannel, voiceChannels, channelsHeld, h.calls, h.sites]
  unfold Machine.arbitrate
  rw [hf]
  cases freeChannel s n with
  | some ch => exact ite (by rw [h.room]) (h.grantChannel c n ch) (h.setStatus c n _)
  | none => exact ite (by rw [h.priority]) (h.preempt c n) (h.queueCall c n)

theorem passToCalls (h : Twin i f u d s t) (p : Nat × Nat) : Twin i f u d (passToCalls s p) (passToCalls t p) := by
  unfold Machine.passToCalls
  rw [h.groups]
  cases tget s.groups p.1 with
  | none => exact h
  | some g =>
    cases hc : g.activeCall with
    | none => simpa only [hc] using h
    | some c =>
      have hs : callStatus t c p.2 = callStatus s c p.2 := by simp only [callStatus, h.calls]
      simp only [hc, lateEntry, h.works, hs]
      exact ite .rfl (h.arbitrate c p.2) h

theorem passAll (h : Twin i f u d s t) {ps qs : List (Nat × Nat)} (e : qs = ps) : Twin i f u d (passAll s ps) (passAll t qs) := by
  subst e
  exact foldl (fun h p => h.passToCalls p) h qs

/-! ### Group lists -/

theorem loseMembership (h : Twin i f u d s t) (at_ : List Nat) (m : Membership) :
    Twin i f u d (loseMembership at_ s m) (loseMembership at_ t m) := by
  have h2 := foldl (op := fun s n => subMember s m.group n) (fun h n => h.modGroup m.group _)
    (ite (p := m.pending = true) .rfl (h.lowerUnreached m.group) h) at_
  exact ite .rfl h2 (h2.modGroup m.group _)

theorem recallStateOf (h : Twin i f u d s t) : recallStateOf t = recallStateOf s := by
  funext g
  simp only [Machine.recallStateOf, h.groups]

theorem gainMembership (h : Twin i f u d s t) (at_ : List Nat) (g : Nat) :
    Twin i f u d (gainMembership at_ s g) (gainMembership at_ t g) := by
  have h2 := foldl (op := fun s n => addMember s g n) (fun h n => h.modGroup g _)
    (ite (p := Machine.recallStateOf s g = .active) (q := Machine.recallStateOf t g = .active) (by rw [h.recallStateOf])
      (h.modGroup g fun x => { x with unreached := x.unreached + 1 }) h) at_
  exact ite .rfl h2 (h2.modGroup g _)

theorem newEntry (h : Twin i f u d s t) (old : List Membership) : newEntry t old = newEntry s old := by
  funext g
  simp only [Machine.newEntry, h.recallStateOf]

theorem changeGroupList (h : Twin i f u d s t) (new : List Nat) : Twin i f u d (changeGroupList s u new) (changeGroupList t u new) := by
  unfold Machine.changeGroupList
  rw [h.record]
  cases tget s.radios u with
  | none => exact h
  | some r =>
    simp only [Option.map_some, withSettle, h.memberCount, h.newEntry]
    exact ((foldl (fun h g => h.gainMembership _ g) (foldl (fun h m => h.loseMembership _ m) h _) _).modRadio _).passAll rfl

theorem trimGroups (h : Twin i f u d s t) (l : List Nat) : trimGroups t l = trimGroups s l := by
  have : groupConfigured t = groupConfigured s := by
    funext g
    simp only [groupConfigured, findGroup, h.groups]
  rw [Machine.trimGroups, this]
  rfl

theorem reportApplied (h : Twin i f u d s t) (rep : Option (List Nat)) : Twin i f u d (reportApplied s u rep) (reportApplied t u rep) := by
  cases rep with
  | none => exact h
  | some l =>
    simp only [Machine.reportApplied, applyReported, h.record, h.trimGroups]
    cases tget s.radios u with
    | none => exact h
    | some r =>
      simp only [Option.map_some, withSettle]
      cases r.regroup with
      | none => exact ite .rfl h (h.changeGroupList _)
      | ordered => exact ite .rfl (h.modRadio _) h
      | confirmed => exact ite .rfl h ((h.changeGroupList _).modRadio _)

/-! ### The close -/

theorem renewLease (h : Twin i f u d s t) (time : Nat) : Twin i f u d (renewLease s u time) (renewLease t u time) := by
  have : renewed t time = renewed s time := by
    funext st
    cases st <;> simp only [renewed, leaseFrom, h.params]
  rw [renewLease_eq, renewLease_eq, this]
  exact h.modRadio _

theorem emergencyTaken (h : Twin i f u d s t) (time : Nat) (e : Option Nat) :
    Twin i f u d (emergencyTaken s u time e) (emergencyTaken t u time e) := by
  cases e with
  | none => exact h
  | some n =>
    simp only [Machine.emergencyTaken, activateEmergency, h.record]
    cases tget s.radios u with
    | none => exact h
    | some r => exact ite .rfl h ((h.modRadio _).raise _)

theorem startHandover (h : Twin i f u d s t) (a lease p time : Nat) :
    Twin i f u d (startHandover s u a lease p time) (startHandover t u a lease p time) := by
  have htag : Twin i f u d { s with tagCounter := nextTag s.tagCounter }
      { t with tagCounter := nextTag s.tagCounter, params := s.params } := ⟨h.ascending, h.place, by rw [h.eq]⟩
  simp only [Machine.startHandover, h.groupsOf, h.tag, h.params]
  have h1 := htag.modRadio fun r => { r with
    state := .moving a p lease { tag := s.tagCounter, readySeen := false, quiescedSeen := false,
                                 deadline := time + tenths s.params.handoverTimeout } }
  exact ((((h1.addReg p).addMembers _ p).sendHandover p _).sendHandover a _).passAll (h1.risenAt _ p)

theorem addCounts (h : Twin i f u d s t) (gs : List Nat) (b : Nat) : Twin i f u d (addCounts s gs b) (addCounts t gs b) := by
  unfold Machine.addCounts
  exact ((h.addReg b).addMembers gs b).passAll (h.risenAt gs b)

theorem adoptAt (h : Twin i f u d s t) (b time : Nat) (from_ : Option Nat) (wasLost : Bool) :
    Twin i f u d (adoptAt s u b time from_ wasLost) (adoptAt t u b time from_ wasLost) := by
  simp only [Machine.adoptAt, h.groupsOf, h.sites, leaseFrom, h.params]
  have h1 : Twin i f u d (setRecordState s u (.registered b (time + tenths s.params.lease)))
      (setRecordState t u (.registered b (time + tenths s.params.lease))) := h.modRadio _
  refine ite .rfl (h1.sendOrdinary b _) ?_
  cases from_ with
  | none =>
    have h4 := ite (p := (match tget s.sites b with | some x => decide (x.capacity ≤ x.count) | none => false) = true) .rfl
      (((h1.addTotals (Machine.groupsOf s u)).addCounts (Machine.groupsOf s u) b).setOver b)
      ((h1.addTotals (Machine.groupsOf s u)).addCounts (Machine.groupsOf s u) b)
    exact ite .rfl ((h4.sendOrdinary b _).raise _) (h4.sendOrdinary b _)
  | some a =>
    have h4 := ite (p := (match tget s.sites b with | some x => decide (x.capacity ≤ x.count) | none => false) = true) .rfl
      (((h1.removeCounts (Machine.groupsOf s u) a).addCounts (Machine.groupsOf s u) b).setOver b)
      ((h1.removeCounts (Machine.groupsOf s u) a).addCounts (Machine.groupsOf s u) b)
    exact ite .rfl (((h4.sendOrdinary a _).sendOrdinary b _).raise _) ((h4.sendOrdinary a _).sendOrdinary b _)

theorem decision (h : Twin i f u d s t) (time a : Nat) (inSet : List Nat) (l : List Hearing) :
    handoverDecision t time inSet a l = handoverDecision s time inSet a l := by
  simp only [handoverDecision, servingScore, bestTarget, eligibleTargets, score, h.sites, h.params, h.room]

theorem choice (h : Twin i f u d s t) (time : Nat) (inSet : List Nat) (st : RecordState) (l : List Hearing) :
    adoptionChoice t time inSet st l = adoptionChoice s time inSet st l := by
  simp only [adoptionChoice, candidates, score, h.sites, h.params]

theorem selectSite (h : Twin i f u d s t) (time : Nat) (inSet : List Nat) :
    Twin i f u d (selectSite s u time inSet) (selectSite t u time inSet) := by
  simp only [Machine.selectSite, h.record, h.decision, h.choice]
  cases tget s.radios u with
  | none => exact h
  | some r =>
    simp only [Option.map_some, withSettle]
    cases r.state with
    | registered a lease =>
      simp only []
      cases handoverDecision s time inSet a r.hearing with
      | none => exact h
      | some p => exact h.startHandover a lease p time
    | moving a p l c => exact h
    | joining =>
      cases adoptionChoice s time inSet .joining r.hearing with
      | none => exact ite .rfl h h.freeRecord
      | some b => exact h.adoptAt b time none false
    | presumed a y z =>
      cases adoptionChoice s time inSet (.presumed a y z) r.hearing with
      | none => exact h
      | some b => exact h.adoptAt b time (some a) false
    | lost n =>
      cases adoptionChoice s time inSet (.lost n) r.hearing with
      | none => exact h
      | some b => exact h.adoptAt b time none true
    | retired n y z => exact h

theorem repeatAdopt (h : Twin i f u d s t) : Twin i f u d (repeatAdopt s u) (repeatAdopt t u) := by
  simp only [Machine.repeatAdopt, h.record]
  cases tget s.radios u with
  | none => exact h
  | some r =>
    simp only [Option.map_some, withSettle]
    cases r.state with
    | registered a l => exact h.sendOrdinary a _
    | joining | moving | presumed | lost | retired => exact h

/-- The close of a burst, whose settle deadline it does not read. -/
theorem closeWork (h : Twin i f u d s t) (time settle : Nat) (b : Burst) :
    Twin i f u d (closeWork s u time b) (closeWork t u time { b with settle := settle }) := by
  have h3 : Twin i f u d (closeReady s u time b) (closeReady t u time { b with settle := settle }) :=
    ((h.renewLease time).reportApplied b.reported).emergencyTaken time b.emergency
  have h4 := h3.selectSite time b.sites
  rw [closeWork_eq, closeWork_eq, closeEnd, closeEnd]
  simp only [h.registered, h4.registered]
  exact (ite .rfl h4.repeatAdopt h4).modRadio _

end Twin

end Sys2Proof.Machine

/-! The early close of an open burst (R31, R36): what a close sends and leaves, and the copies and DEREGs that meet an open burst. -/

namespace Sys2Proof.Machine

/-! ### What the work of a close leaves of the ports and the engine -/

/-- The step queues frames behind those that wait, and leaves the Bulk Engine but for its gap marker and every site's working state. -/
structure Sent (s t : State) : Prop where
  engine : engineButGap t = engineButGap s
  works : ∀ n, siteWorks t n = siteWorks s n
  outbound : ∃ more, t.outbound = s.outbound ++ more

theorem Sent.refl (s : State) : Sent s s := ⟨rfl, fun _ => rfl, [], by simp⟩

theorem Sent.trans {a b c : State} (h1 : Sent a b) (h2 : Sent b c) : Sent a c := by
  obtain ⟨m1, e1⟩ := h1.outbound
  obtain ⟨m2, e2⟩ := h2.outbound
  exact ⟨h2.engine.trans h1.engine, fun n => (h2.works n).trans (h1.works n), m1 ++ m2, by rw [e2, e1, List.append_assoc]⟩

theorem GroupFrame.sent {s t : State} (h : GroupFrame s t) : Sent s t :=
  ⟨engineButGap_of_engine h.engine, fun n => by simp only [siteWorks, h.sites], [], by rw [h.outbound]; simp⟩
theorem CallFrame.sent {s t : State} (h : CallFrame s t) : Sent s t := ⟨engineButGap_of_engine h.engine, h.works, h.outbound⟩
theorem SendFrame.sent {s t : State} (h : SendFrame s t) : Sent s t := ⟨h.engine, h.works, h.outbound⟩
theorem CloseFrame.sent {s t : State} {u : Nat} (h : CloseFrame s t u) : Sent s t := ⟨engineButGap_of_engine h.engine, h.works, h.outbound⟩

theorem sent_modRadio (s : State) (u : Nat) (f : Radio → Radio) : Sent s (modRadio s u f) := (closeFrame_modRadio s u f).sent

theorem sent_addReg (s : State) (n : Nat) : Sent s (addReg s n) := by
  refine ⟨rfl, fun j => siteWorks_congr ?_, [], by simp⟩
  rw [addReg_sites, tget_tmod]
  split
  · cases tget s.sites j <;> rfl
  · rfl

theorem sent_removeCounts (s : State) (gs : List Nat) (n : Nat) : Sent s (removeCounts s gs n) :=
  ⟨engineButGap_of_engine (engine_removeCounts s gs n), fun j => removeCounts_works s gs n j, [], by simp⟩

theorem sent_addCounts (s : State) (gs : List Nat) (n : Nat) : Sent s (addCounts s gs n) :=
  (sent_addReg s n).trans ((groupFrame_addMembers _ gs n).sent.trans (callFrame_passAll _ _).sent)

theorem sent_markOver (s s' : State) (b : Nat) : Sent s' (markOver s s' b) := by
  unfold markOver
  split
  · exact (sendFrame_setOver s' b).sent
  · exact .refl s'

theorem sent_ite {s a b : State} {p : Prop} [Decidable p] (ha : Sent s a) (hb : Sent s b) : Sent s (if p then a else b) := by
  split
  · exact ha
  · exact hb

theorem sent_adoptAt (s : State) (u b t : Nat) (from_ : Option Nat) (wasLost : Bool) : Sent s (adoptAt s u b t from_ wasLost) := by
  have push : ∀ (x : State) n f, Sent x (sendOrdinary x n f) := fun x n f => (sendFrame_sendOrdinary x n f).sent
  have told : ∀ (x : State), Sent x (if wasLost then raise x (.found u b) else x) := fun x =>
    sent_ite (sendFrame_raise x _).sent (.refl x)
  have hset : Sent s (setRecordState s u (.registered b (leaseFrom s t))) := sent_modRadio s u _
  cases from_ with
  | none =>
    rw [adoptAt_new]
    have h1 : Sent s (adoptedNew s u b t) := hset.trans ((groupFrame_addTotals _ _).sent.trans (sent_addCounts _ _ b))
    exact (h1.trans ((sent_markOver s _ b).trans (push _ b _))).trans (told _)
  | some a =>
    by_cases hab : a = b
    · subst hab
      rw [adoptAt_same]
      exact hset.trans (push _ a _)
    · rw [adoptAt_from s u b t hab]
      have h1 : Sent s (adoptedFrom s u a b t) := hset.trans ((sent_removeCounts _ _ a).trans (sent_addCounts _ _ b))
      exact (h1.trans ((sent_markOver s _ b).trans ((push _ a _).trans (push _ b _)))).trans (told _)

theorem sent_startHandover (s : State) (u a lease p t : Nat) : Sent s (startHandover s u a lease p t) := by
  obtain ⟨passes, e⟩ := startHandover_eq s u a lease p t
  rw [e]
  refine .trans ?_ (callFrame_passAll _ _).sent
  refine .trans (b := { s with tagCounter := nextTag s.tagCounter }) ⟨rfl, fun _ => rfl, [], by simp⟩ ?_
  exact (sent_modRadio _ u _).trans ((sent_addReg _ p).trans ((groupFrame_addMembers _ _ p).sent.trans
    ((sendFrame_sendHandover _ p _).sent.trans (sendFrame_sendHandover _ a _).sent)))

theorem sent_freeRecord (s : State) (u : Nat) : Sent s (freeRecord s u) := by
  obtain ⟨-, hsites, hout, -, -, hengine, -⟩ := freeRecord_frame s u
  exact ⟨engineButGap_of_engine hengine, fun n => by simp only [siteWorks, hsites], [], by rw [hout]; simp⟩

theorem sent_selectSite (s : State) (u t : Nat) (inSet : List Nat) : Sent s (selectSite s u t inSet) := by
  unfold selectSite
  split
  · split
    · split
      · exact sent_startHandover s u _ _ _ t
      · exact .refl s
    · exact .refl s
    · split
      · exact sent_adoptAt s u _ t _ _
      · exact sent_ite (.refl s) (sent_freeRecord s u)
    · split
      · exact sent_adoptAt s u _ t _ _
      · exact .refl s
    · split
      · exact sent_adoptAt s u _ t _ _
      · exact .refl s
    · exact .refl s
  · exact .refl s

theorem sent_closeWork (s : State) (u t : Nat) (b : Burst) : Sent s (closeWork s u t b) := by
  rw [closeWork_eq]
  exact (closeFrame_closeReady s u t b).sent.trans ((sent_selectSite _ u t b.sites).trans
    ((repeated_frame _ _ u).sent.trans (sent_modRadio _ u _)))

/-! ### The close at the arrival of a report (R31, R36) -/

theorem closeBurst_of_some {s : State} {u t : Nat} {r : Radio} {b : Burst} (hu : tget s.radios u = some r) (hb : r.burst = some b) :
    closeBurst s u t = closeWork s u t b := by
  simp only [closeBurst, hu, Option.bind_some, hb]

theorem exec_settleExpiry_due {s : State} {u : Nat} {r : Radio} {b : Burst} (hu : tget s.radios u = some r) (hb : r.burst = some b)
    (hd : b.settle ≤ s.partTime) : exec (.settleExpiry u) s = .next (closeWork s u b.settle b) := by
  show execSettleExpiry u s = _
  simp only [execSettleExpiry, hu, Option.bind_some, hb, hd, if_true]

/-- The close leaves the record without a burst, so a settle deadline is nowhere to be read. -/
theorem tmod_withSettle {s : State} {u d : Nat} (ha : Ascending s.radios) (h : ∀ r, tget s.radios u = some r → r.burst = none) :
    tmod s.radios u (withSettle d) = s.radios := by
  cases hu : tget s.radios u with
  | none => exact tmod_of_none _ _ hu
  | some r =>
    have : withSettle d r = r := by
      have hb := h r hu
      cases r
      cases hb
      rfl
    rw [tmod_of_some _ _ hu, this, tput_same _ ha hu]

/-- The early close is the work of the settle expiry in the state where the receipt's place is taken (R31, R36, R37). -/
theorem earlyClose {s : State} {u : Nat} {r : Radio} {b : Burst} (ha : Ascending s.radios) (hu : tget s.radios u = some r)
    (hb : r.burst = some b) (rest : List SiteMsg) (hold f : SiteOut) :
    ∃ more, (closeBurst (placed s rest hold) u s.partTime).outbound = s.outbound ++ hold :: more ∧
      exec (.settleExpiry u) (atArrival s rest f u r b) =
        .next { closeBurst (placed s rest hold) u s.partTime with outbound := s.outbound ++ f :: more } := by
  have hclose : closeBurst (placed s rest hold) u s.partTime = closeWork (placed s rest hold) u s.partTime b :=
    closeBurst_of_some (s := placed s rest hold) hu hb
  have htwin : Twin s.outbound.length f u s.partTime (placed s rest hold) (atArrival s rest f u r b) := by
    refine ⟨ha, by simp [placed], ?_⟩
    simp only [placed, atArrival, set_at_end, tmod_of_some _ _ hu, withSettle, hb, Option.map_some]
  have hdone := htwin.closeWork s.partTime s.partTime b
  obtain ⟨more, hout⟩ := (sent_closeWork (placed s rest hold) u s.partTime b).outbound
  have hout' : (closeWork (placed s rest hold) u s.partTime b).outbound = s.outbound ++ hold :: more := by
    rw [hout, placed, List.append_assoc]
    rfl
  refine ⟨more, hclose ▸ hout', ?_⟩
  rw [exec_settleExpiry_due (s := atArrival s rest f u r b) (tget_tput_self ..) rfl (Nat.le_refl _)]
  rw [hdone.eq, hout', set_at_end, hclose, tmod_withSettle hdone.ascending fun r' hr' => ?_]
  exact closeBurst_burst_none (t := s.partTime) (by rw [hclose]; exact hr')

/-! ### DEREG (R20, R36) -/

/-- The record that a DEREG retires at its last site n, with the outcome given. -/
def retiredAs (s : State) (r : Radio) (n : Nat) (how : Option (HandoverEnd × Nat)) : Radio := { r with
  state := .retired n s.partTime (s.partTime + s.params.retireHold * 10), lastHandover := how,
  groups := r.groups.map fun m => { m with pending := false } }

/-- What a DEREG leaves of a record r without emergency, by the record's state (R20, R80). -/
structure Deregistered (s t : State) (u : Nat) (r : Radio) : Prop where
  others : ∀ v, v ≠ u → tget t.radios v = tget s.radios v
  calls : t.calls = s.calls
  tag : t.tagCounter = s.tagCounter
  engine : engine t = engine s
  outer : outer t = outer s
  counted : ∀ a, (∃ l, r.state = .registered a l) ∨ (∃ y h, r.state = .presumed a y h) →
    tget t.radios u = some (retiredAs s r a r.lastHandover) ∧ t.outbound = s.outbound ∧
    ∀ n, (tget t.sites n).map Site.count = (tget s.sites n).map fun x => if n = a then x.count - 1 else x.count
  moving : ∀ a p l k, r.state = .moving a p l k →
    tget t.radios u = some (retiredAs s r a (some (.aborted, p))) ∧
    t.outbound = s.outbound ++ ((if siteWorks s p then [.cancel p u k.tag] else []) ++
      (if siteWorks s a then [.cancel a u k.tag] else [])) ∧
    ∀ n, (tget t.sites n).map Site.count =
      (tget s.sites n).map fun x => x.count - (if n = a then 1 else 0) - (if n = p then 1 else 0)
  lost : ∀ n, r.state = .lost n →
    tget t.radios u = some (retiredAs s r n r.lastHandover) ∧ t.outbound = s.outbound ∧ t.sites = s.sites
  unmoved : stateName r.state = .joining ∨ stateName r.state = .retired → t = s

section
variable {s : State} {u : Nat} {r : Radio}

theorem deregister_counted (hu : tget s.radios u = some r) {a : Nat}
    (hs : (∃ l, r.state = .registered a l) ∨ ∃ y h, r.state = .presumed a y h) :
    deregister s u = leaveCounted { s with radios := tput s.radios u { r with state := retiredNow s a } } u [a] := by
  rcases hs with ⟨l, hs⟩ | ⟨y, h, hs⟩ <;>
    simp only [deregister, hu, hs, setRecordState, modRadio, tmod_of_some _ _ hu]

theorem deregister_moving (hu : tget s.radios u = some r) {a p l : Nat} {k : Handover} (hs : r.state = .moving a p l k) :
    deregister s u = leaveCounted { s with
      radios := tput s.radios u { r with state := retiredNow s a, lastHandover := some (.aborted, p) }
      outbound := s.outbound ++ ((if siteWorks s p then [.cancel p u k.tag] else []) ++
        (if siteWorks s a then [.cancel a u k.tag] else [])) } u [a, p] := by
  simp only [deregister, hu, hs, closing_eq, modRadio, tmod_of_some _ _ hu, List.append_assoc]

theorem deregister_lost (hu : tget s.radios u = some r) {n : Nat} (hs : r.state = .lost n) :
    deregister s u = leaveCounted { s with radios := tput s.radios u { r with state := retiredNow s n } } u [] := by
  simp only [deregister, hu, hs, setRecordState, modRadio, tmod_of_some _ _ hu]

theorem count_one (x a j : Nat) : x - [a].count j = if j = a then x - 1 else x := by
  rw [List.count_singleton]
  by_cases h : j = a
  · subst h; simp
  · have : a ≠ j := fun e => h e.symm
    simp [h, this]

theorem count_two (x a p j : Nat) : x - [a, p].count j = x - (if j = a then 1 else 0) - (if j = p then 1 else 0) := by
  simp only [List.count_cons, List.count_nil, beq_iff_eq, eq_comm (b := j), Nat.sub_sub]
  congr 1
  omega

theorem deregister_leaves (hu : tget s.radios u = some r) : Deregistered s (deregister s u) u r := by
  have frame : ∀ r2 out, SendFrame { s with radios := tput s.radios u r2 } { s with
      radios := tput s.radios u r2, outbound := s.outbound ++ out } := fun r2 out =>
    ⟨rfl, rfl, rfl, rfl, rfl, rfl, fun _ => rfl, out, rfl⟩
  cases hst : r.state with
  | joining =>
    have e : deregister s u = s := by simp only [deregister, hu, hst]
    rw [e]
    exact ⟨fun _ _ => rfl, rfl, rfl, rfl, rfl, by simp [hst], by simp [hst], by simp [hst], fun _ => rfl⟩
  | retired n y h =>
    have e : deregister s u = s := by simp only [deregister, hu, hst]
    rw [e]
    exact ⟨fun _ _ => rfl, rfl, rfl, rfl, rfl, by simp [hst], by simp [hst], by simp [hst], fun _ => rfl⟩
  | registered a l =>
    have h := retired_leaveCounted (frame { r with state := retiredNow s a } []) rfl [a]
    simp only [List.append_nil] at h
    have e := deregister_counted hu (.inl ⟨l, hst⟩)
    rw [e]
    refine ⟨h.others, h.calls, h.tag, h.engine, h.outer, ?_, by simp [hst], by simp [hst], by simp [hst, stateName]⟩
    rintro b (⟨l', hb⟩ | ⟨y, z, hb⟩) <;> rw [hst] at hb <;> cases hb
    exact ⟨h.record, leaveCounted_outbound _ u [a], fun n => (h.counts n).trans (by simp only [count_one])⟩
  | presumed a y z =>
    have h := retired_leaveCounted (frame { r with state := retiredNow s a } []) rfl [a]
    simp only [List.append_nil] at h
    have e := deregister_counted hu (.inr ⟨y, z, hst⟩)
    rw [e]
    refine ⟨h.others, h.calls, h.tag, h.engine, h.outer, ?_, by simp [hst], by simp [hst], by simp [hst, stateName]⟩
    rintro b (⟨l', hb⟩ | ⟨y, z, hb⟩) <;> rw [hst] at hb <;> cases hb
    exact ⟨h.record, leaveCounted_outbound _ u [a], fun n => (h.counts n).trans (by simp only [count_one])⟩
  | moving a p l k =>
    have h := retired_leaveCounted (frame { r with state := retiredNow s a, lastHandover := some (.aborted, p) }
      ((if siteWorks s p then [.cancel p u k.tag] else []) ++ (if siteWorks s a then [.cancel a u k.tag] else []))) rfl [a, p]
    rw [deregister_moving hu hst]
    refine ⟨h.others, h.calls, h.tag, h.engine, h.outer, by simp [hst], ?_, by simp [hst], by simp [hst, stateName]⟩
    intro a' p' l' k' hb
    rw [hst] at hb
    cases hb
    exact ⟨h.record, leaveCounted_outbound _ u [a, p], fun n => (h.counts n).trans (by simp only [count_two])⟩
  | lost n =>
    have h := retired_leaveCounted (frame { r with state := retiredNow s n } []) rfl []
    simp only [List.append_nil] at h
    rw [deregister_lost hu hst]
    refine ⟨h.others, h.calls, h.tag, h.engine, h.outer, by simp [hst], by simp [hst], ?_, by simp [hst, stateName]⟩
    intro n' hb
    rw [hst] at hb
    cases hb
    exact ⟨h.record, leaveCounted_outbound _ u [], (leaveCounted_facts _ u []).2.1⟩

end

end Sys2Proof.Machine

/-! DEREGs and newer copies (R20, R30, R31, R36), with the early close of the burst that they meet. -/

namespace Sys2Proof.Machine

/-! ### DEREG -/

/-- The receipt takes its place in what a DEREG leaves. -/
theorem Deregistered.answered {s d : State} {u : Nat} {r : Radio} (h : Deregistered s d u r) {out more : List SiteOut} {hold : SiteOut}
    (ho : s.outbound = out ++ hold :: more) (f : SiteOut) :
    Deregistered { s with outbound := out ++ f :: more } (setOut d out.length f) u r := by
  have hout : ∀ extra, d.outbound = s.outbound ++ extra → (setOut d out.length f).outbound = out ++ f :: more ++ extra := fun extra e => by
    rw [setOut, e, ho, List.append_assoc, List.cons_append, set_at_end, List.append_assoc, List.cons_append]
  refine ⟨h.others, h.calls, h.tag, h.engine, h.outer, fun a ha => ?_, fun a p l k hk => ?_, fun n hn => ?_, fun hq => ?_⟩
  · obtain ⟨h1, h2, h3⟩ := h.counted a ha
    exact ⟨h1, by simpa using hout [] (by simpa using h2), h3⟩
  · obtain ⟨h1, h2, h3⟩ := h.moving a p l k hk
    exact ⟨h1, hout _ h2, h3⟩
  · obtain ⟨h1, h2, h3⟩ := h.lost n hn
    exact ⟨h1, by simpa using hout [] (by simpa using h2), h3⟩
  · rw [h.unmoved hq, setOut, ho, set_at_end]

section
variable {s : State} {n u seq : Nat} {rest : List SiteMsg} {r : Radio}

theorem exec_dereg_newer (hm : s.siteIn = .dereg n u seq :: rest) (hroom : roomForOne s) (hadm : admitted s n) (h0 : u ≠ 0)
    (hu : tget s.radios u = some r) (h1 : 1 ≤ (seq + 16 - r.lastSeq) % 16) (h2 : (seq + 16 - r.lastSeq) % 16 ≤ 8) {t : State}
    {code : ReceiptCode} (h : deregNewer (placed s rest (holding n u seq)) u seq = (t, code)) :
    exec .dereg s = .next (setOut t s.outbound.length (.receipt n u seq code [] none)) := by
  have htake : takeDereg (placed s rest (holding n u seq)) u seq = (t, code) := by
    have hu' : tget (placed s rest (holding n u seq)).radios u = some r := hu
    simp only [takeDereg, h0, if_false, hu', seqClass_newer h1 h2, h]
  rw [exec_dereg hm hroom, takeDeregReport_admitted hadm htake]

/-- A newer DEREG acts on the record that the early close left. -/
theorem exec_dereg_acts (hm : s.siteIn = .dereg n u seq :: rest) (hroom : roomForOne s) (hadm : admitted s n) (h0 : u ≠ 0)
    (hu : tget s.radios u = some r) (h1 : 1 ≤ (seq + 16 - r.lastSeq) % 16) (h2 : (seq + 16 - r.lastSeq) % 16 ≤ 8)
    {s1 : State} {more : List SiteOut} (hs1 : closeBurst (placed s rest (holding n u seq)) u s.partTime = s1) {r' : Radio}
    (hu1 : tget s1.radios u = some r') (ho : s1.outbound = s.outbound ++ holding n u seq :: more) :
    (r'.emergency.isSome = true → exec .dereg s = .next { s1 with
      radios := tput s1.radios u { r' with lastSeq := seq }, outbound := s.outbound ++ .receipt n u seq .held [] none :: more }) ∧
    (r'.emergency = none → ∃ t, exec .dereg s = .next t ∧
      Deregistered { s1 with
        radios := tput s1.radios u { r' with lastSeq := seq }, outbound := s.outbound ++ .receipt n u seq .taken [] none :: more }
        t u { r' with lastSeq := seq }) := by
  have hacts : deregNewer (placed s rest (holding n u seq)) u seq =
      if r'.emergency.isSome then ({ s1 with radios := tput s1.radios u { r' with lastSeq := seq } }, .held)
      else (deregister { s1 with radios := tput s1.radios u { r' with lastSeq := seq } } u, .taken) := by
    have hs1' : closeBurst (placed s rest (holding n u seq)) u (placed s rest (holding n u seq)).partTime = s1 := hs1
    simp only [deregNewer, hs1', hu1, modRadio, tmod_of_some _ _ hu1]
  refine ⟨fun he => ?_, fun he => ?_⟩
  · rw [exec_dereg_newer hm hroom hadm h0 hu h1 h2 (hacts.trans (if_pos he)), setOut_of_outbound (by exact ho)]
  · refine ⟨_, exec_dereg_newer hm hroom hadm h0 hu h1 h2 (hacts.trans (if_neg (by rw [he]; decide))), ?_⟩
    exact (deregister_leaves (s := { s1 with radios := tput s1.radios u { r' with lastSeq := seq } })
      (tget_tput_self ..)).answered (by exact ho) _

/-- A newer DEREG that meets no open burst acts on the record as it stands. -/
theorem exec_dereg_unopened (hm : s.siteIn = .dereg n u seq :: rest) (hroom : roomForOne s) (hadm : admitted s n) (h0 : u ≠ 0)
    (hu : tget s.radios u = some r) (hb : r.burst = none) (h1 : 1 ≤ (seq + 16 - r.lastSeq) % 16)
    (h2 : (seq + 16 - r.lastSeq) % 16 ≤ 8) :
    (r.emergency.isSome = true → exec .dereg s = .next { receipted s rest n u seq .held with
      radios := tput s.radios u { r with lastSeq := seq } }) ∧
    (r.emergency = none → ∃ t, exec .dereg s = .next t ∧
      Deregistered { receipted s rest n u seq .taken with radios := tput s.radios u { r with lastSeq := seq } }
        t u { r with lastSeq := seq }) :=
  exec_dereg_acts hm hroom hadm h0 hu h1 h2 (closeBurst_of_none (s := placed s rest (holding n u seq)) hu hb) (by exact hu) rfl

end

/-- Settles O26: the early close, and the DEREG on the record that it leaves, by that record's state. -/
theorem deregRetiresOrIsHeld : Obligations.DeregRetiresOrIsHeld := by
  refine ⟨fun s n u seq rest r b ha hm hroom hadm h0 hu hs hb h1 h2 => ?_, fun s n u seq rest r hm hroom hadm h0 hu hb h1 h2 => ?_,
    fun s n u seq rest r hm hroom hadm h0 hu => ⟨fun hd => ?_, fun h1 h2 hb he => ?_⟩⟩
  · intro receipt
    obtain ⟨more, hout, hexec⟩ := earlyClose ha hu hb rest (holding n u seq) (receipt .taken)
    have hsteady := (inner_closeBurst (placed s rest (holding n u seq)) u s.partTime).steady
    have hworks : ∀ j, siteWorks (closeBurst (placed s rest (holding n u seq)) u s.partTime) j = siteWorks s j := by
      rw [closeBurst_of_some (s := placed s rest (holding n u seq)) hu hb]
      exact (sent_closeWork (placed s rest (holding n u seq)) u s.partTime b).works
    have htime : (closeBurst (placed s rest (holding n u seq)) u s.partTime).partTime = s.partTime := congrArg Outer.partTime hsteady.outer
    have hparams : (closeBurst (placed s rest (holding n u seq)) u s.partTime).params = s.params := congrArg Outer.params hsteady.outer
    generalize hs1 : closeBurst (placed s rest (holding n u seq)) u s.partTime = s1 at hout hexec hworks htime hparams
    refine ⟨_, more, hexec, rfl, fun hnone => ?_, fun r' hr' => ?_⟩
    · have hfreed : deregNewer (placed s rest (holding n u seq)) u seq = (s1, .taken) := by
        have hs1' : closeBurst (placed s rest (holding n u seq)) u (placed s rest (holding n u seq)).partTime = s1 := hs1
        have hnone' : tget s1.radios u = none := hnone
        simp only [deregNewer, hs1', hnone']
      rw [exec_dereg_newer hm hroom hadm h0 hu h1 h2 hfreed, setOut_of_outbound hout]
    · obtain ⟨hheld, htaken⟩ := exec_dereg_acts hm hroom hadm h0 hu h1 h2 hs1 hr' hout
      intro retired
      refine ⟨hheld, fun he => ?_⟩
      obtain ⟨t, hexec', hd⟩ := htaken he
      have hret : ∀ a how, retiredAs { s1 with
          radios := tput s1.radios u { r' with lastSeq := seq }, outbound := s.outbound ++ receipt .taken :: more }
          { r' with lastSeq := seq } a how = retired a how := fun a how => by simp only [retiredAs, retired, htime, hparams]
      refine ⟨t, hexec', fun a hk => ?_, fun a p l k hk => ?_, fun j hk => ?_, fun v hv => (hd.others v hv).trans (tget_tput_ne _ _ hv),
        hd.calls, hd.tag, hd.engine, hd.outer⟩
      · obtain ⟨g1, g2, g3⟩ := hd.counted a hk
        exact ⟨g1.trans (congrArg some (hret a _)), g2, g3⟩
      · obtain ⟨g1, g2, g3⟩ := hd.moving a p l k hk
        refine ⟨g1.trans (congrArg some (hret a _)), g2.trans ?_, g3⟩
        rw [← hworks p, ← hworks a, List.append_assoc _ (ite ..)]
        rfl
      · obtain ⟨g1, g2, g3⟩ := hd.lost j hk
        exact ⟨g1.trans (congrArg some (hret j _)), g2, g3⟩
  · obtain ⟨hheld, htaken⟩ := exec_dereg_unopened hm hroom hadm h0 hu hb h1 h2
    refine ⟨fun a hk he => ?_, hheld⟩
    obtain ⟨t, hexec, hd⟩ := htaken he
    obtain ⟨g1, g2, g3⟩ := hd.counted a hk
    exact ⟨t, hexec, g1, fun v hv => (hd.others v hv).trans (tget_tput_ne _ _ hv), g3, g2, hd.calls, hd.tag, hd.engine, hd.outer⟩
  · rw [exec_dereg hm hroom, takeDeregReport_unchanged hadm]
    have hu' : tget (placed s rest (holding n u seq)).radios u = some r := hu
    simp only [takeDereg, h0, if_false, hu', seqClass_same hd]
  · obtain ⟨t, hexec, hd⟩ := (exec_dereg_unopened hm hroom hadm h0 hu hb h1 h2).2 he
    refine ⟨fun a p l k hk => ?_, fun j hk => ?_, fun hk => ?_⟩
    · obtain ⟨g1, g2, g3⟩ := hd.moving a p l k hk
      refine ⟨t, hexec, g1, fun v hv => (hd.others v hv).trans (tget_tput_ne _ _ hv), g3, g2.trans ?_, hd.calls, hd.tag, hd.engine, hd.outer⟩
      exact (List.append_assoc ..).symm
    · obtain ⟨g1, g2, g3⟩ := hd.lost j hk
      exact ⟨t, hexec, g1, fun v hv => (hd.others v hv).trans (tget_tput_ne _ _ hv), g3, g2, hd.calls, hd.tag, hd.engine, hd.outer⟩
    · rw [hexec, hd.unmoved (.inr hk)]

end Sys2Proof.Machine

/-! Newer copies (R26, R30, R31): the burst that they open, after the close of the one that they meet. -/

namespace Sys2Proof.Machine

/-! ### What a close leaves for the copy -/

theorem Steady.hearing {s t : State} (h : Steady s t) (st : RecordState) (l : List Hearing) (n q heard openedAt : Nat) :
    updateHearing t st l n q heard openedAt = updateHearing s st l n q heard openedAt := by
  have hstart : startsUnconfirmed t st n = startsUnconfirmed s st n := by
    unfold startsUnconfirmed
    cases servingSite st with
    | none => rfl
    | some a =>
      have hn := congrArg (Option.map Site.neighbours) (h.siteValues a)
      rw [Option.bind_some, Option.bind_some]
      cases h1 : tget t.sites a <;> cases h2 : tget s.sites a <;> rw [h1, h2] at hn
      case some.none.some => cases hn
      case some.some.none => cases hn
      case some.some.some x y =>
        have hxy : x.neighbours = y.neighbours := Option.some.inj hn
        simp only [hxy]
  unfold updateHearing
  rw [hstart]

theorem Steady.trims {s t : State} (h : Steady s t) (l : List Nat) : trimGroups t l = trimGroups s l := by
  have : groupConfigured t = groupConfigured s := by
    funext g
    have := h.groupValues g
    unfold groupConfigured findGroup
    cases h1 : tget t.groups g <;> cases h2 : tget s.groups g <;> rw [h1, h2] at this
    case none.some => cases this
    case some.none => cases this
    case some.some => split <;> rfl
  rw [trimGroups, this]
  rfl

theorem Steady.partTime {s t : State} (h : Steady s t) : t.partTime = s.partTime := congrArg Outer.partTime h.outer
theorem Steady.params {s t : State} (h : Steady s t) : t.params = s.params := congrArg Outer.params h.outer

theorem Steady.openedBy {s t : State} (h : Steady s t) (r : Radio) (k : Copy) : openedBy t r k = openedBy s r k := by
  simp only [Machine.openedBy, h.hearing, h.partTime, burstOf, newBurst, h.params]

theorem Steady.receiptOf {s t : State} (h : Steady s t) (r : Radio) (k : Copy) (code : ReceiptCode) :
    receiptOf t r k code = receiptOf s r k code := by
  simp only [Machine.receiptOf, orderFor, h.trims]

theorem Steady.newRecord {s t : State} (h : Steady s t) (k : Copy) : newRecord t k.site k.seq k.quality (burstOf t k) =
    newRecord s k.site k.seq k.quality (burstOf s k) := by
  simp only [Machine.newRecord, h.partTime, burstOf, newBurst, h.params]

/-- The close of a burst leaves every record but a JOINING one in the Directory, with what R37 makes of it. -/
theorem closeWork_stays {s : State} {u : Nat} {r : Radio} (hu : tget s.radios u = some r) (hj : r.state ≠ .joining) (t : Nat) (b : Burst) :
    ∃ st gs, tget (closeWork s u t b).radios u = some { r with
        state := st, groups := gs, regroup := regroupAfter s r b.reported, emergency := emergencyAfter r b t, burst := none,
        prev := some (setOf b) } ∧
      groupNumbers gs = listAfter s r b.reported ∧ entriesFollow s r.groups gs ∧
      ∀ v, v ≠ u → tget (closeWork s u t b).radios v = tget s.radios v := by
  obtain ⟨gs, h3, hlist, hfollow⟩ := closeReady_record hu t b
  have hothers := (closeFrame_closeReady s u t b).others
  rw [closeWork_eq]
  have hdone : ∀ {st}, (selectSite (closeReady s u t b) u t b.sites).radios = tput (closeReady s u t b).radios u { r with
        state := st, groups := gs, regroup := regroupAfter s r b.reported, emergency := emergencyAfter r b t } → _ := fun {st} h =>
    (⟨st, gs, by rw [closeEnd_radios, tget_tmod_self, h, tget_tput_self]; rfl, hlist, hfollow, fun v hv => by
      rw [closeEnd_radios, tget_tmod_ne _ _ hv, h, tget_tput_ne _ _ hv, hothers v hv]⟩ :
      ∃ st gs, tget (closeEnd s (selectSite (closeReady s u t b) u t b.sites) u b).radios u = some { r with
        state := st, groups := gs, regroup := regroupAfter s r b.reported, emergency := emergencyAfter r b t, burst := none,
        prev := some (setOf b) } ∧ groupNumbers gs = listAfter s r b.reported ∧ entriesFollow s r.groups gs ∧
        ∀ v, v ≠ u → tget (closeEnd s (selectSite (closeReady s u t b) u t b.sites) u b).radios v = tget s.radios v)
  rcases selectSite_radios h3 t b.sites with h | ⟨st, h, -, -⟩ | ⟨hst, -, -⟩
  · refine ⟨_, gs, by rw [closeEnd_radios, tget_tmod_self, h, h3]; rfl, hlist, hfollow, fun v hv => ?_⟩
    rw [closeEnd_radios, tget_tmod_ne _ _ hv, h, hothers v hv]
  · exact hdone h
  · exact absurd (by cases e : r.state <;> simp_all [renewed]) hj

/-- Where the close frees the record, the Directory has room for another. -/
theorem closeWork_freed {s : State} {u : Nat} {r : Radio} (ha : Ascending s.radios) (hl : s.radios.length ≤ 2048)
    (hu : tget s.radios u = some r) (hb : r.burst ≠ none) (t : Nat) (b : Burst) (hnone : tget (closeWork s u t b).radios u = none) :
    (closeWork s u t b).radios.length < 2048 := by
  obtain ⟨gs, h3, -, -⟩ := closeReady_record hu t b
  have hsize : (closeReady s u t b).radios.length ≤ 2048 :=
    (event_closeReady (w := fun _ => False) ha hu hb t b).size ha hl
  have ha3 := closeReady_ascending ha u t b
  rw [closeWork_eq, closeEnd_radios] at hnone ⊢
  rw [tget_tmod_self, Option.map_eq_none_iff] at hnone
  rw [tmod_of_none _ _ hnone]
  rcases selectSite_radios h3 t b.sites with h | ⟨st, h, -, -⟩ | ⟨-, -, h⟩
  · rw [h, h3] at hnone
    cases hnone
  · rw [h, tget_tput_self] at hnone
    cases hnone
  · rw [h, freeRecord_radios _ _ ha3]
    have := length_tdel_of_some h3
    omega

/-! ### The copy after the close -/

section
variable {s : State} {m : SiteMsg} {c : Instr} {k : Copy} {rest : List SiteMsg} {r : Radio}

/-- A newer copy opens its burst on the record that the close left. -/
theorem exec_copy_opens (hm : s.siteIn = m :: rest) (hk : copyHead m = some (c, k)) (hroom : roomForOne s) (hadm : admitted s k.site)
    (h0 : k.unit ≠ 0) (hu : tget s.radios k.unit = some r) (hs : stateName r.state ≠ .retired) (hnew : newerCopy r k)
    {s1 : State} {more : List SiteOut} (hs1 : closeBurst (placed s rest (holding k.site k.unit k.seq)) k.unit s.partTime = s1)
    {r' : Radio} (hu1 : tget s1.radios k.unit = some r') (ho : s1.outbound = s.outbound ++ holding k.site k.unit k.seq :: more) :
    ∃ t, exec c s = .next t ∧ tget t.radios k.unit = some { openedBy s r' k with groups := deliveredTo r' k } ∧
      (∀ v, v ≠ k.unit → tget t.radios v = tget s1.radios v) ∧ t.outbound = s.outbound ++ receiptOf s r' k .taken :: more ∧
      (carriesParts k = false ∨ (∀ x ∈ r'.groups, x.pending = false) → t.groups = s1.groups ∧ t.notices = s1.notices) ∧
      t.sites = s1.sites ∧ t.calls = s1.calls ∧ t.tagCounter = s1.tagCounter ∧ engine t = engine s1 ∧ outer t = outer s1 := by
  have hsteady := (inner_closeBurst (placed s rest (holding k.site k.unit k.seq)) k.unit s.partTime).steady
  rw [hs1] at hsteady
  have hopened : openedBy s1 r' k = openedBy s r' k := hsteady.openedBy r' k
  have htake : takeCopy (placed s rest (holding k.site k.unit k.seq)) k =
      ({ s1 with radios := tput s1.radios k.unit (openedBy s r' k) }, .taken) := by
    have hs1' : closeBurst (placed s rest (holding k.site k.unit k.seq)) k.unit (placed s rest (holding k.site k.unit k.seq)).partTime = s1 :=
      hs1
    rw [takeCopy_newer h0 (by exact hu) hs hnew]
    simp only [copyNewer, hs1', hu1, openBurst_of_some hu1, hopened]
  have hself : tget ({ s1 with radios := tput s1.radios k.unit (openedBy s r' k) } : State).radios k.unit = some (openedBy s r' k) :=
    tget_tput_self ..
  obtain ⟨d1, d2, -, d4, d5, d6, d7, d8⟩ := delivered_facts hself
  refine ⟨_, (exec_copy hm hk hroom).trans (congrArg _ (takeReport_delivering hadm (.inl rfl) htake hself (by exact ho))), d1,
    fun v hv => (d2 v hv).trans (tget_tput_ne _ _ hv), ?_, fun hclear => ?_, d4, d5, d6, d7, d8⟩
  · have hentered : Steady s1 { s1 with radios := tput s1.radios k.unit (openedBy s r' k) } :=
      ⟨rfl, id, fun h => ascending_tput _ _ _ h, id, id, id, id, id, fun _ => rfl, fun _ => rfl⟩
    exact congrArg (s.outbound ++ · :: more) ((hsteady.trans hentered).receiptOf (openedBy s r' k) k .taken)
  · simp only [delivered]
    split
    · rename_i hparts
      have hflags := hclear.resolve_left (by rw [hparts]; decide)
      rw [clearFlags_of_clear hself hflags]
      exact ⟨rfl, rfl⟩
    · exact ⟨rfl, rfl⟩

/-- A newer copy on a record without an open burst. -/
theorem exec_copy_opens_unopened (hm : s.siteIn = m :: rest) (hk : copyHead m = some (c, k)) (hroom : roomForOne s)
    (hadm : admitted s k.site) (h0 : k.unit ≠ 0) (hu : tget s.radios k.unit = some r) (hs : stateName r.state ≠ .retired)
    (hnew : newerCopy r k) (hb : r.burst = none) :
    ∃ t, exec c s = .next t ∧ t.outbound = s.outbound ++ [receiptOf s r k .taken] ∧
      tget t.radios k.unit = some { openedBy s r k with groups := deliveredTo r k } ∧
      (∀ v, v ≠ k.unit → tget t.radios v = tget s.radios v) ∧ t.sites = s.sites ∧ t.calls = s.calls ∧ t.tagCounter = s.tagCounter ∧
      engine t = engine s ∧ outer t = outer { s with siteIn := rest } := by
  obtain ⟨t, e, h1, h2, h3, -, h5⟩ := exec_copy_opens hm hk hroom hadm h0 hu hs hnew
    (closeBurst_of_none (s := placed s rest (holding k.site k.unit k.seq)) hu hb) (by exact hu) rfl
  exact ⟨t, e, h3, h1, h2, h5⟩

/-- A newer copy whose unit the close freed: a HEARD copy finds no record. -/
theorem exec_copy_freed_heard (hm : s.siteIn = m :: rest) (hk : copyHead m = some (c, k)) (hroom : roomForOne s) (hadm : admitted s k.site)
    (h0 : k.unit ≠ 0) (hu : tget s.radios k.unit = some r) (hs : stateName r.state ≠ .retired) (hnew : newerCopy r k)
    {s1 : State} {more : List SiteOut} (hs1 : closeBurst (placed s rest (holding k.site k.unit k.seq)) k.unit s.partTime = s1)
    (hu1 : tget s1.radios k.unit = none) (ho : s1.outbound = s.outbound ++ holding k.site k.unit k.seq :: more)
    (hc : carriesParts k = false) :
    exec c s = .next { s1 with outbound := s.outbound ++ .receipt k.site k.unit k.seq .unknown [] none :: more } := by
  have htake : takeCopy (placed s rest (holding k.site k.unit k.seq)) k = (s1, .unknown) := by
    have hs1' : closeBurst (placed s rest (holding k.site k.unit k.seq)) k.unit (placed s rest (holding k.site k.unit k.seq)).partTime = s1 :=
      hs1
    rw [takeCopy_newer h0 (by exact hu) hs hnew]
    simp only [copyNewer, hs1', hu1, copyAbsent, createsRecord_eq, hc, Bool.false_eq_true, if_false]
  rw [exec_copy hm hk hroom, takeReport_admitted hadm htake, formReceipt_plain (.inl hc), setOut_of_outbound ho]

/-- A newer copy whose unit the close freed: a REG or EMERG copy creates it anew. -/
theorem exec_copy_freed_creates (hm : s.siteIn = m :: rest) (hk : copyHead m = some (c, k)) (hroom : roomForOne s)
    (hadm : admitted s k.site) (h0 : k.unit ≠ 0) (hu : tget s.radios k.unit = some r) (hs : stateName r.state ≠ .retired)
    (hnew : newerCopy r k) {s1 : State} {more : List SiteOut}
    (hs1 : closeBurst (placed s rest (holding k.site k.unit k.seq)) k.unit s.partTime = s1) (hu1 : tget s1.radios k.unit = none)
    (ho : s1.outbound = s.outbound ++ holding k.site k.unit k.seq :: more) (hc : carriesParts k = true) (hl : s1.radios.length < 2048) :
    exec c s = .next { s1 with
      radios := tput s1.radios k.unit (newRecord s k.site k.seq k.quality (burstOf s k))
      outbound := s.outbound ++ .receipt k.site k.unit k.seq .taken [] none :: more } := by
  have hsteady := (inner_closeBurst (placed s rest (holding k.site k.unit k.seq)) k.unit s.partTime).steady
  rw [hs1] at hsteady
  have hrecord : newRecord s1 k.site k.seq k.quality (burstOf s1 k) = newRecord s k.site k.seq k.quality (burstOf s k) :=
    hsteady.newRecord k
  refine exec_copy_entered hm hk hroom hadm ?_ ho
  have hs1' : closeBurst (placed s rest (holding k.site k.unit k.seq)) k.unit (placed s rest (holding k.site k.unit k.seq)).partTime = s1 :=
    hs1
  rw [takeCopy_newer h0 (by exact hu) hs hnew]
  simp only [copyNewer, hs1', hu1, copyAbsent, createsRecord_eq, hc, if_true, createRecord, Config.maxRecords, hl, freshRecord_eq,
    hrecord]
  rfl

end

/-! ### Closes that change little -/

/-- A MOVING record without a list or an emergency to take only has its lease renewed (R10, R57). -/
theorem closeWork_moving_plain {s : State} {u : Nat} {r : Radio} {b : Burst} {a p l : Nat} {h : Handover} (hu : tget s.radios u = some r)
    (hs : r.state = .moving a p l h) (hrep : b.reported = none) (he : b.emergency = none) (t : Nat) :
    closeWork s u t b = { s with radios := tput s.radios u { r with
      state := .moving a p (leaseFrom s t) h, burst := none, prev := some (setOf b) } } := by
  have h1 : renewLease s u t = { s with radios := tput s.radios u { r with state := .moving a p (leaseFrom s t) h } } := by
    rw [renewLease_eq, modRadio, tmod_of_some _ _ hu, hs]
    rfl
  have h4 : ∀ r' : Radio, r'.state = .moving a p (leaseFrom s t) h → selectSite { s with radios := tput s.radios u r' } u t b.sites =
      { s with radios := tput s.radios u r' } := fun r' hr' => by
    simp only [selectSite, tget_tput_self, hr']
  have hreg : isRegistered s u = false := by simp only [isRegistered, hu, hs]; rfl
  rw [closeWork_eq, closeReady, h1, hrep, he, reportApplied, emergencyTaken, h4 _ rfl, closeEnd, hreg]
  simp only [Bool.and_false, Bool.false_and, Bool.false_eq_true, if_false, modRadio, tmod_tput]

/-- A JOINING record that finds no site, in no emergency and without flags, is freed (R9). -/
theorem closeWork_joining_plain {s : State} {u : Nat} {r : Radio} {b : Burst} (ha : Ascending s.radios) (hu : tget s.radios u = some r)
    (hs : r.state = .joining) (hrep : b.reported = none) (he : b.emergency = none) (hre : r.emergency = none)
    (hflags : ∀ x ∈ r.groups, x.pending = false) (t : Nat) (hno : adoptionChoice s t b.sites .joining r.hearing = none) :
    closeWork s u t b = { s with radios := tdel s.radios u } := by
  have h1 : renewLease s u t = s := by
    have hsame : ({ r with state := renewed s t r.state } : Radio) = r := by
      rw [hs]
      obtain ⟨st⟩ := r
      cases hs
      rfl
    rw [renewLease_eq, modRadio, tmod_of_some _ _ hu, hsame, tput_same _ ha hu]
  have h4 : selectSite s u t b.sites = { s with radios := tdel s.radios u } := by
    simp only [selectSite, hu, hs, hno, hre, Option.isSome_none, Bool.false_eq_true, if_false]
    exact freeRecord_of_clear ha hu hflags
  have hreg : isRegistered s u = false := by simp only [isRegistered, hu, hs]; rfl
  rw [closeWork_eq, closeReady, h1, hrep, he, reportApplied, emergencyTaken, h4, closeEnd, hreg]
  simp only [Bool.and_false, Bool.false_and, Bool.false_eq_true, if_false, modRadio, tmod_of_none _ _ (tget_tdel_self _ _ ha)]

/-- A newer copy after a close that changed only its own record. -/
theorem copyNewer_of_close {s : State} {k : Copy} {radios : Table Radio} {r : Radio}
    (h : closeBurst s k.unit s.partTime = { s with radios := tput radios k.unit r }) :
    copyNewer s k = ({ s with radios := tput radios k.unit (openedBy s r k) }, .taken) := by
  simp only [copyNewer, h, tget_tput_self, openBurst, modRadio, tmod_tput]
  rfl

theorem tput_tdel {α : Type} {t : Table α} (ha : Ascending t) (k : Nat) (v : α) : tput (tdel t k) k v = tput t k v := by
  induction t with
  | nil => rfl
  | cons p l ih =>
    obtain ⟨j, w⟩ := p
    rw [ascending_cons] at ha
    by_cases hj : j = k
    · subst hj
      have hnone : tdel l j = l := tdel_of_none (tget_none_of_lt l j ha.1)
      cases l with
      | nil => simp [tdel, tput]
      | cons q l =>
        obtain ⟨i, x⟩ := q
        have hlt : j < i := ha.1 i (by simp [tkeys])
        simp [tdel, tput, hlt]
    · have hk : ¬k = j := fun e => hj e.symm
      by_cases hlt : k < j
      · have hnone : tget l k = none := tget_none_of_lt l k fun a ha' => Nat.lt_trans hlt (ha.1 a ha')
        simp [tdel, hk, tdel_of_none hnone]
      · simp [tdel, tput, hk, hlt, ih ha.2]

theorem receiptOf_eq (s : State) (r : Radio) (k : Copy) (code : ReceiptCode) :
    ∃ recalled order, receiptOf s r k code = .receipt k.site k.unit k.seq code recalled order := by
  unfold receiptOf
  split
  · exact ⟨_, _, rfl⟩
  · exact ⟨_, _, rfl⟩

theorem groupNumbers_deliveredTo (r : Radio) (k : Copy) : groupNumbers (deliveredTo r k) = groupNumbers r.groups := by
  unfold deliveredTo groupNumbers
  split
  · rw [List.map_map]
    rfl
  · rfl

/-! ### The obligation -/

/-- The first part of O23: a newer copy that meets an open burst. -/
theorem newerCopy_closes_first (s : State) (m : SiteMsg) (c : Instr) (k : Copy) (rest : List SiteMsg) (r : Radio) (b : Burst)
    (ha : Ascending s.radios) (hl : s.radios.length ≤ 2048) (hm : s.siteIn = m :: rest) (hk : copyHead m = some (c, k))
    (hroom : roomForOne s) (hadm : admitted s k.site) (h0 : k.unit ≠ 0) (hu : tget s.radios k.unit = some r)
    (hs : stateName r.state ≠ .retired) (hnew : newerCopy r k) (hb : r.burst = some b) :
    let receipt (code : ReceiptCode) : SiteOut := .receipt k.site k.unit k.seq code [] none
    ∃ t₀ more, exec (.settleExpiry k.unit) (atArrival s rest (receipt .taken) k.unit r b) = .next t₀ ∧
      t₀.outbound = s.outbound ++ receipt .taken :: more ∧
      (∀ r', tget t₀.radios k.unit = some r' →
        ∃ t, exec c s = .next t ∧
          tget t.radios k.unit = some { openedBy s r' k with groups := deliveredTo r' k } ∧
          (∀ v, v ≠ k.unit → tget t.radios v = tget t₀.radios v) ∧
          t.outbound = s.outbound ++ receiptOf s r' k .taken :: more ∧
          (carriesParts k = false ∨ (∀ x ∈ r'.groups, x.pending = false) → t.groups = t₀.groups ∧ t.notices = t₀.notices) ∧
          t.sites = t₀.sites ∧ t.calls = t₀.calls ∧ t.tagCounter = t₀.tagCounter ∧ engine t = engine t₀ ∧ outer t = outer t₀) ∧
      (tget t₀.radios k.unit = none →
        (carriesParts k = false → exec c s = .next { t₀ with outbound := s.outbound ++ receipt .unknown :: more }) ∧
        (carriesParts k = true → exec c s = .next { t₀ with
          radios := tput t₀.radios k.unit (newRecord s k.site k.seq k.quality (burstOf s k)) })) := by
  intro receipt
  obtain ⟨more, hout, hexec⟩ := earlyClose ha hu hb rest (holding k.site k.unit k.seq) (receipt .taken)
  have hclose : closeBurst (placed s rest (holding k.site k.unit k.seq)) k.unit s.partTime =
      closeWork (placed s rest (holding k.site k.unit k.seq)) k.unit s.partTime b :=
    closeBurst_of_some (s := placed s rest (holding k.site k.unit k.seq)) hu hb
  refine ⟨_, more, hexec, rfl, fun r' hr' => exec_copy_opens hm hk hroom hadm h0 hu hs hnew rfl hr' hout, fun hnone => ⟨fun hc =>
    exec_copy_freed_heard (s1 := closeBurst (placed s rest (holding k.site k.unit k.seq)) k.unit s.partTime) hm hk hroom hadm h0 hu hs
      hnew rfl hnone hout hc, fun hc => ?_⟩⟩
  refine exec_copy_freed_creates (s1 := closeBurst (placed s rest (holding k.site k.unit k.seq)) k.unit s.partTime) hm hk hroom hadm h0
    hu hs hnew rfl hnone hout hc ?_
  rw [hclose] at hnone ⊢
  exact closeWork_freed (s := placed s rest (holding k.site k.unit k.seq)) ha hl hu (by rw [hb]; simp) s.partTime b hnone

/-- Settles O23: the copy after the early close, by what the close left, and the copy that meets no open burst. -/
theorem newerHeardOpensABurst : Obligations.NewerHeardOpensABurst := by
  refine ⟨newerCopy_closes_first, fun s n u seq q rest r hm hroom hadm h0 hu hs hb h1 h2 => ?_,
    fun s m c k rest r hm hk hroom hadm h0 hu hnew => ⟨fun b hserve hb => ?_, fun b a p l h hc hst hb hrep he => ?_,
      fun b hj ha hl hb hrep he hre hflags hno => ?_, fun hs hb => ?_⟩⟩
  · let k : Copy := { site := n, unit := u, seq := seq, quality := q, first := false, groups := none, emerg := false }
    have htake : takeCopy (placed s rest (holding n u seq)) k =
        ({ placed s rest (holding n u seq) with radios := tput s.radios u (openedBy s r k) }, .taken) :=
      (takeCopy_newer h0 hu hs (.inl ⟨rfl, h1, h2⟩)).trans (copyNewer_of_none hu hb)
    exact exec_copy_partless (notices := s.notices) hm rfl hroom hadm _ (.inl rfl) htake
  · have hs : stateName r.state ≠ .retired := by cases e : r.state <;> simp_all [stateName, servingSite]
    have hj : r.state ≠ .joining := by rintro e; simp_all [stateName, servingSite]
    have hclose : closeBurst (placed s rest (holding k.site k.unit k.seq)) k.unit s.partTime =
        closeWork (placed s rest (holding k.site k.unit k.seq)) k.unit s.partTime b :=
      closeBurst_of_some (s := placed s rest (holding k.site k.unit k.seq)) hu hb
    obtain ⟨st, gs, hrec, hlist, -, hothers⟩ :=
      closeWork_stays (s := placed s rest (holding k.site k.unit k.seq)) hu hj s.partTime b
    have hsent := sent_closeWork (placed s rest (holding k.site k.unit k.seq)) k.unit s.partTime b
    obtain ⟨more, hout⟩ := hsent.outbound
    obtain ⟨t, e, g1, g2, g3, -, -, -, -, g8, g9⟩ := exec_copy_opens hm hk hroom hadm h0 hu hs hnew hclose hrec
      (hout.trans (List.append_assoc ..))
    obtain ⟨recalled, order, hreceipt⟩ := receiptOf_eq s { r with
      state := st, groups := gs, regroup := regroupAfter s r b.reported, emergency := emergencyAfter r b s.partTime, burst := none,
      prev := some (setOf b) } k .taken
    refine ⟨t, _, recalled, order, more, e, g1, rfl, (groupNumbers_deliveredTo _ k).trans hlist, fun v hv => (g2 v hv).trans (hothers v hv),
      ?_, (engineButGap_of_engine g8).trans hsent.engine, ?_⟩
    · exact g3.trans (congrArg (s.outbound ++ · :: more) hreceipt)
    · exact g9.trans (inner_closeWork (placed s rest (holding k.site k.unit k.seq)) k.unit s.partTime b).steady.outer
  · have hs : stateName r.state ≠ .retired := by rw [hst]; simp [stateName]
    have hclose : closeBurst (placed s rest (holding k.site k.unit k.seq)) k.unit s.partTime = _ :=
      (closeBurst_of_some (s := placed s rest (holding k.site k.unit k.seq)) hu hb).trans
        (closeWork_moving_plain (s := placed s rest (holding k.site k.unit k.seq)) hu hst hrep he s.partTime)
    have htake : takeCopy (placed s rest (holding k.site k.unit k.seq)) k = ({ placed s rest (holding k.site k.unit k.seq) with
        radios := tput s.radios k.unit (openedBy s { r with
          state := .moving a p (leaseFrom s s.partTime) h, burst := none, prev := some (setOf b) } k) }, .taken) := by
      rw [takeCopy_newer h0 (by exact hu) hs hnew]
      exact copyNewer_of_close hclose
    refine (exec_copy_partless (notices := s.notices) hm hk hroom hadm _ (.inl hc) htake).trans ?_
    rw [hst]
    rfl
  · have hs : stateName r.state ≠ .retired := by rw [hj]; simp [stateName]
    have hclose : closeBurst (placed s rest (holding k.site k.unit k.seq)) k.unit s.partTime =
        { placed s rest (holding k.site k.unit k.seq) with radios := tdel s.radios k.unit } :=
      (closeBurst_of_some (s := placed s rest (holding k.site k.unit k.seq)) hu hb).trans
        (closeWork_joining_plain (s := placed s rest (holding k.site k.unit k.seq)) ha hu hj hrep he hre hflags s.partTime hno)
    have hgone : tget (tdel s.radios k.unit) k.unit = none := tget_tdel_self _ _ ha
    refine ⟨fun hc => ?_, fun hc => ?_⟩
    · exact exec_copy_freed_heard hm hk hroom hadm h0 hu hs hnew hclose hgone rfl hc
    · have hlen := length_tdel_of_some hu
      rw [exec_copy_freed_creates hm hk hroom hadm h0 hu hs hnew hclose hgone rfl hc (by show (tdel _ _).length < 2048; omega)]
      simp only [tput_tdel ha]
      rfl
  · exact exec_copy_opens_unopened hm hk hroom hadm h0 hu hs hnew hb

end Sys2Proof.Machine

/-! Group lists at a close (R115): what their change makes of the member counts and the notices, and the closes of REGISTERED and MOVING
records (R10, R37, R38, R65, R66). -/

namespace Sys2Proof.Machine

/-! ### Member counts (R114) -/

theorem memberCount_of_tget {s : State} {g : Nat} {x : Group} (h : tget s.groups g = some x) (n : Nat) :
    memberCount s g n = (tget x.counts n).getD 0 := by simp only [memberCount, h]

theorem memberCount_of_none {s : State} {g : Nat} (h : tget s.groups g = none) (n : Nat) : memberCount s g n = 0 := by
  simp only [memberCount, h]

/-- Member counts are read from the groups' lists of counts. -/
theorem memberCount_congr {s t : State} (h : ∀ g, (tget t.groups g).map Group.counts = (tget s.groups g).map Group.counts) (g n : Nat) :
    memberCount t g n = memberCount s g n := by
  have := h g
  unfold memberCount
  cases h1 : tget t.groups g <;> cases h2 : tget s.groups g <;> simp_all

theorem memberCount_modGroup (s : State) (k : Nat) (f : Group → Group) (g n : Nat)
    (hf : ∀ x, (f x).counts = x.counts := by exact fun _ => rfl) : memberCount (modGroup s k f) g n = memberCount s g n := by
  refine memberCount_congr (fun j => ?_) g n
  rw [modGroup_groups, tget_tmod]
  split
  · cases tget s.groups j
    · rfl
    · exact congrArg some (hf _)
  · rfl

theorem memberCount_setCount {s : State} (hc : countsAscend s) (v : Nat → Nat) (k m g n : Nat) (hv : tget s.groups k = none → v 0 = 0) :
    memberCount (modGroup s k fun x => { x with counts := setCount x.counts m (v ((tget x.counts m).getD 0)) }) g n =
      if g = k && n == m then v (memberCount s g n) else memberCount s g n := by
  by_cases hg : g = k
  · subst hg
    cases hx : tget s.groups g with
    | none =>
      rw [memberCount_of_none hx, hv hx, memberCount_of_none (by rw [modGroup_groups, tget_tmod_self, hx]; rfl), ite_self]
    | some x =>
      rw [memberCount_of_tget (by rw [modGroup_groups, tget_tmod_self, hx]; rfl), memberCount_of_tget hx,
        getD_setCount (hc _ (mem_of_tget hx))]
      by_cases hn : n = m <;> simp [hn]
  · rw [if_neg (by simp [hg])]
    unfold memberCount
    rw [modGroup_groups, tget_tmod_ne _ _ hg]

theorem memberCount_addMember {s : State} (hc : countsAscend s) {k : Nat} (hk : tget s.groups k ≠ none) (m g n : Nat) :
    memberCount (addMember s k m) g n = if g = k && n == m then memberCount s g n + 1 else memberCount s g n :=
  memberCount_setCount hc (· + 1) k m g n fun h => absurd h hk

theorem memberCount_subMember {s : State} (hc : countsAscend s) (k m g n : Nat) :
    memberCount (subMember s k m) g n = if g = k && n == m then memberCount s g n - 1 else memberCount s g n :=
  memberCount_setCount hc (· - 1) k m g n fun _ => rfl

/-- Steps that each move the member counts they hit, no count hit twice. -/
theorem memberCount_foldl {β : Type} {op : State → β → State} {hits : β → Nat → Nat → Bool} {h : Nat → Nat} {P : State → Prop}
    {l : List β} (hP : ∀ s, P s → ∀ x ∈ l, P (op s x))
    (hop : ∀ s, P s → ∀ x ∈ l, ∀ g n, memberCount (op s x) g n = if hits x g n then h (memberCount s g n) else memberCount s g n)
    (hd : l.Pairwise fun x y => ∀ g n, hits x g n = true → hits y g n = false) {s : State} (hs : P s) (g n : Nat) :
    memberCount (l.foldl op s) g n = if l.any (hits · g n) then h (memberCount s g n) else memberCount s g n := by
  induction l generalizing s with
  | nil => rfl
  | cons x l ih =>
    rw [List.pairwise_cons] at hd
    rw [List.foldl_cons, ih (fun s hs y hy => hP s hs y (.tail _ hy)) (fun s hs y hy => hop s hs y (.tail _ hy)) hd.2
      (hP s hs x (.head _)), hop s hs x (.head _), List.any_cons]
    cases hx : hits x g n with
    | false => rfl
    | true =>
      have : l.any (hits · g n) = false := List.any_eq_false.2 fun y hy => by
        rw [hd.1 y hy g n hx]
        decide
      rw [this]
      rfl

theorem pairwise_sites {l : List Nat} (h : l.Nodup) (k : Nat) :
    l.Pairwise fun x y => ∀ g n, (g = k && n == x : Bool) = true → (g = k && n == y : Bool) = false := by
  refine h.imp fun {x y} hne g n hx => ?_
  simp only [Bool.and_eq_true, decide_eq_true_eq, beq_iff_eq] at hx
  have : ¬n = y := fun e => hne (hx.2.symm.trans e)
  simp [this]

theorem any_sites (l : List Nat) (k g n : Nat) : (l.any fun m => (g = k && n == m : Bool)) = (g = k && l.contains n : Bool) := by
  rw [Bool.eq_iff_iff]
  by_cases hg : g = k <;> simp [hg]

theorem countsAscend_inner {s t : State} (h : Inner s t) (hc : countsAscend s) : countsAscend t := h.steady.counts hc

/-- A membership that is lost leaves the member counts at the record's sites (R115). -/
theorem memberCount_loseMembership {s : State} {at_ : List Nat} (hc : countsAscend s) (hn : at_.Nodup) (m : Membership) (g n : Nat) :
    memberCount (loseMembership at_ s m) g n = if g = m.group && at_.contains n then memberCount s g n - 1 else memberCount s g n := by
  have h1 : ∀ g n, memberCount (if m.pending then lowerUnreached s m.group else s) g n = memberCount s g n := by
    split
    · rcases lowerUnreached_cases s m.group with h | h <;> rw [h]
      · exact fun g n => memberCount_modGroup s m.group _ g n
      · intro g n
        rw [memberCount_congr (s := modGroup s m.group fun y => { y with unreached := y.unreached - 1 }) (fun j => by rw [raise_groups]),
          memberCount_modGroup s m.group _ g n]
    · exact fun _ _ => rfl
  have hc1 : countsAscend (if m.pending then lowerUnreached s m.group else s) := by
    split
    · exact countsAscend_inner (inner_lowerUnreached s m.group) hc
    · exact hc
  have h2 := memberCount_foldl (op := fun s n => subMember s m.group n) (l := at_) (P := countsAscend) (h := (· - 1))
    (fun s hs n _ => countsAscend_inner (inner_subMember s m.group n) hs) (fun s hs n _ g j => memberCount_subMember hs m.group n g j)
    (pairwise_sites hn m.group) hc1 g n
  rw [any_sites, h1] at h2
  unfold loseMembership
  simp only []
  split
  · exact h2
  · exact (memberCount_modGroup _ m.group (fun x => { x with total := x.total - 1 }) g n).trans h2

/-- A group that is gained enters the member counts at the record's sites (R115). -/
theorem memberCount_gainMembership {s : State} {at_ : List Nat} (hc : countsAscend s) (hn : at_.Nodup) {k : Nat}
    (hk : tget s.groups k ≠ none) (g n : Nat) :
    memberCount (gainMembership at_ s k) g n = if g = k && at_.contains n then memberCount s g n + 1 else memberCount s g n := by
  have hP : ∀ {s t : State}, Inner s t → (countsAscend s ∧ tget s.groups k ≠ none) → countsAscend t ∧ tget t.groups k ≠ none := by
    intro s t h ⟨h1, h2⟩
    refine ⟨countsAscend_inner h h1, fun e => h2 ?_⟩
    have := h.steady.groupValues k
    rw [e] at this
    exact Option.map_eq_none_iff.1 this.symm
  have h1 : ∀ g n, memberCount (if recallStateOf s k = .active then raiseUnreached s k else s) g n = memberCount s g n := by
    split
    · exact fun g n => memberCount_modGroup s k _ g n
    · exact fun _ _ => rfl
  have hs1 : countsAscend (if recallStateOf s k = .active then raiseUnreached s k else s) ∧
      tget (if recallStateOf s k = .active then raiseUnreached s k else s).groups k ≠ none := by
    split
    · exact hP (inner_raiseUnreached s k) ⟨hc, hk⟩
    · exact ⟨hc, hk⟩
  have h2 := memberCount_foldl (op := fun s n => addMember s k n) (l := at_) (h := (· + 1))
    (P := fun s => countsAscend s ∧ tget s.groups k ≠ none)
    (fun s hs n _ => hP (inner_addMember s k n) hs) (fun s hs n _ g j => memberCount_addMember hs.1 hs.2 n g j)
    (pairwise_sites hn k) hs1 g n
  rw [any_sites, h1] at h2
  unfold gainMembership
  simp only []
  split
  · exact h2
  · exact (memberCount_modGroup _ k (fun x => { x with total := x.total + 1 }) g n).trans h2

theorem pairwise_groups {l at_ : List Nat} (h : l.Nodup) :
    l.Pairwise fun x y => ∀ g n, (g = x && at_.contains n : Bool) = true → (g = y && at_.contains n : Bool) = false := by
  refine h.imp fun {x y} hne g n hx => ?_
  simp only [Bool.and_eq_true, decide_eq_true_eq] at hx
  have : ¬g = y := fun e => hne (hx.1.symm.trans e)
  simp [this]

theorem any_groups (l at_ : List Nat) (g n : Nat) :
    (l.any fun k => (g = k && at_.contains n : Bool)) = (l.contains g && at_.contains n : Bool) := by
  rw [Bool.eq_iff_iff]
  by_cases hn : n ∈ at_ <;> simp [hn]

/-- The member counts once a record's group list is changed (R115). -/
theorem memberCount_changeGroupList {s : State} {u : Nat} {r : Radio} {new : List Nat} (hu : tget s.radios u = some r)
    (hc : countsAscend s) (hat : (countedSites r.state).Nodup) (hold : (groupNumbers r.groups).Nodup) (hnew : new.Nodup)
    (hconf : ∀ g ∈ new, tget s.groups g ≠ none) (g n : Nat) :
    memberCount (changeGroupList s u new) g n =
      shifted (groupNumbers r.groups) new (countedSites r.state) g n (memberCount s g n) := by
  let lost := r.groups.filter fun m => !new.contains m.group
  let gained := new.filter fun g => !(groupNumbers r.groups).contains g
  have hP : ∀ {s t : State}, Inner s t → (countsAscend s ∧ ∀ g ∈ new, tget s.groups g ≠ none) →
      countsAscend t ∧ ∀ g ∈ new, tget t.groups g ≠ none := by
    intro s t h ⟨h1, h2⟩
    refine ⟨countsAscend_inner h h1, fun g hg e => h2 g hg ?_⟩
    have := h.steady.groupValues g
    rw [e] at this
    exact Option.map_eq_none_iff.1 this.symm
  have hlost : ∀ g n, memberCount (lost.foldl (loseMembership (countedSites r.state)) s) g n =
      if (groupNumbers lost).contains g && (countedSites r.state).contains n then memberCount s g n - 1 else memberCount s g n := by
    intro g n
    have hnd : (groupNumbers lost).Nodup := hold.sublist (List.filter_sublist.map _)
    have h := memberCount_foldl (op := loseMembership (countedSites r.state)) (l := lost) (P := countsAscend) (h := (· - 1))
      (hits := fun m g n => g = m.group && (countedSites r.state).contains n)
      (fun s hs m _ => countsAscend_inner (inner_loseMembership _ s m) hs) (fun s hs m _ => memberCount_loseMembership hs hat m)
      (List.pairwise_map.1 (pairwise_groups (at_ := countedSites r.state) hnd)) hc g n
    rw [h, ← any_groups, groupNumbers, List.any_map]
    rfl
  have hs1 : countsAscend (lost.foldl (loseMembership (countedSites r.state)) s) ∧
      ∀ g ∈ new, tget (lost.foldl (loseMembership (countedSites r.state)) s).groups g ≠ none :=
    hP (inner_foldl _ (inner_loseMembership _) _ _) ⟨hc, hconf⟩
  have hgained := memberCount_foldl (op := gainMembership (countedSites r.state)) (l := gained) (h := (· + 1))
    (P := fun s => countsAscend s ∧ ∀ g ∈ new, tget s.groups g ≠ none)
    (hits := fun k g n => g = k && (countedSites r.state).contains n)
    (fun s hs k _ => hP (inner_gainMembership _ s k) hs)
    (fun s hs k hk => memberCount_gainMembership hs.1 hat (hs.2 k (List.mem_of_mem_filter hk)))
    (pairwise_groups (hnew.filter _)) hs1 g n
  have hend : memberCount (changeGroupList s u new) g n =
      memberCount (gained.foldl (gainMembership (countedSites r.state)) (lost.foldl (loseMembership (countedSites r.state)) s)) g n := by
    refine memberCount_congr (fun k => ?_) g n
    simp only [changeGroupList, hu]
    rw [(callFrame_passAll _ _).groups]
    rfl
  rw [hend, hgained, any_groups, hlost]
  have hg1 : (groupNumbers lost).contains g = ((groupNumbers r.groups).contains g && !new.contains g) := by
    rw [Bool.eq_iff_iff]
    simp only [lost, groupNumbers, List.contains_iff_mem, List.mem_map, List.mem_filter, Bool.and_eq_true]
    constructor
    · rintro ⟨m, ⟨h1, h2⟩, rfl⟩
      exact ⟨⟨m, h1, rfl⟩, h2⟩
    · rintro ⟨⟨m, h1, rfl⟩, h2⟩
      exact ⟨m, ⟨h1, h2⟩, rfl⟩
  have hg2 : gained.contains g = (new.contains g && !(groupNumbers r.groups).contains g) := by
    rw [Bool.eq_iff_iff]
    simp [gained]
  rw [hg1, hg2]
  unfold shifted
  by_cases h1 : n ∈ countedSites r.state <;> by_cases h2 : g ∈ groupNumbers r.groups <;> by_cases h3 : g ∈ new <;> simp [h1, h2, h3]

end Sys2Proof.Machine

/-! The settle deadline (R33, R37): what the close makes of lists, notices and counts, and the closes of REGISTERED and MOVING records. -/

namespace Sys2Proof.Machine

/-! ### Passing to the Call Table without calls (R116) -/

/-- No configured group has a call. -/
def NoCalls (s : State) : Prop := ∀ g x, tget s.groups g = some x → x.activeCall = none

theorem noCalls_of_noActiveCalls {s : State} (h : noActiveCalls s) : NoCalls s := fun _ _ hx => h _ (mem_of_tget hx)

theorem NoCalls.congr {s t : State} (h : NoCalls s)
    (ha : ∀ g, (tget t.groups g).map Group.activeCall = (tget s.groups g).map Group.activeCall) : NoCalls t := by
  intro g x hx
  have := ha g
  rw [hx] at this
  obtain ⟨y, hy, e⟩ := Option.map_eq_some_iff.1 this.symm
  rw [← e]
  exact h g y hy

theorem passAll_of_noCalls {s : State} (h : NoCalls s) (ps : List (Nat × Nat)) : passAll s ps = s := by
  induction ps with
  | nil => rfl
  | cons p ps ih =>
    have : passToCalls s p = s := by
      unfold passToCalls
      split
      · rename_i g hg
        rw [h _ _ hg]
      · rfl
    rw [passAll, List.foldl_cons, this]
    exact ih

/-! ### The change of a list, before counts are passed (R115) -/

/-- The state in which a changed list stands, its counts and flags following, before the counts that rose are passed. -/
def listChanged (s : State) (u : Nat) (r : Radio) (new : List Nat) : State :=
  modRadio ((new.filter fun g => !(groupNumbers r.groups).contains g).foldl (gainMembership (countedSites r.state))
    ((r.groups.filter fun m => !new.contains m.group).foldl (loseMembership (countedSites r.state)) s)) u
    fun r' => { r' with groups := new.map (newEntry s r.groups) }

/-- The step leaves the sites, the calls, the outbound queue and the groups' active calls. -/
structure Relisted (s t : State) : Prop where
  sites : t.sites = s.sites
  calls : t.calls = s.calls
  outbound : t.outbound = s.outbound
  active : ∀ g, (tget t.groups g).map Group.activeCall = (tget s.groups g).map Group.activeCall

theorem Relisted.refl (s : State) : Relisted s s := ⟨rfl, rfl, rfl, fun _ => rfl⟩
theorem Relisted.trans {a b c : State} (h1 : Relisted a b) (h2 : Relisted b c) : Relisted a c :=
  ⟨h2.sites.trans h1.sites, h2.calls.trans h1.calls, h2.outbound.trans h1.outbound, fun g => (h2.active g).trans (h1.active g)⟩
theorem GroupFrame.relisted {s t : State} (h : GroupFrame s t) : Relisted s t := ⟨h.sites, h.calls, h.outbound, h.active⟩
theorem relisted_modRadio (s : State) (u : Nat) (f : Radio → Radio) : Relisted s (modRadio s u f) := ⟨rfl, rfl, rfl, fun _ => rfl⟩

theorem relisted_listChanged (s : State) (u : Nat) (r : Radio) (new : List Nat) : Relisted s (listChanged s u r new) :=
  ((groupFrame_foldl _ (groupFrame_loseMembership _) _ _).trans (groupFrame_foldl _ (groupFrame_gainMembership _) _ _)).relisted.trans
    (relisted_modRadio _ u _)

/-- Without calls, or for a record that counts nowhere, nothing is passed. -/
theorem changeGroupList_unpassed {s : State} {u : Nat} {r : Radio} (hu : tget s.radios u = some r) (new : List Nat)
    (h : countedSites r.state = [] ∨ NoCalls s) : changeGroupList s u new = listChanged s u r new := by
  have he : ∃ passes, changeGroupList s u new = passAll (listChanged s u r new) passes ∧ (countedSites r.state = [] → passes = []) := by
    refine ⟨_, by simp only [changeGroupList, hu]; rfl, fun hc => ?_⟩
    simp [hc]
  obtain ⟨passes, e, hp⟩ := he
  rw [e]
  rcases h with h | h
  · rw [hp h]
    rfl
  · exact passAll_of_noCalls (h.congr (relisted_listChanged s u r new).active) passes

theorem gainMembership_notices (at_ : List Nat) (s : State) (g : Nat) : (gainMembership at_ s g).notices = s.notices := by
  have h1 : (if recallStateOf s g = .active then raiseUnreached s g else s).notices = s.notices := by split <;> rfl
  have h2 := foldl_keeps State.notices (fun s n => addMember s g n) (fun _ _ => rfl) at_
    (if recallStateOf s g = .active then raiseUnreached s g else s)
  unfold gainMembership
  simp only []
  split
  · exact h2.trans h1
  · exact h2.trans h1

theorem loseMembership_notices (at_ : List Nat) (s : State) {m : Membership} (hm : m.pending = false) :
    (loseMembership at_ s m).notices = s.notices := by
  have h2 := foldl_keeps State.notices (fun s n => subMember s m.group n) (fun _ _ => rfl) at_ s
  unfold loseMembership
  simp only [hm, Bool.false_eq_true, if_false]
  split
  · exact h2
  · exact h2

theorem listChanged_notices {s : State} {u : Nat} {r : Radio} (hflags : ∀ m ∈ r.groups, m.pending = false) (new : List Nat) :
    (listChanged s u r new).notices = s.notices := by
  have hlost : ∀ (l : List Membership) (s : State), (∀ m ∈ l, m.pending = false) →
      (l.foldl (loseMembership (countedSites r.state)) s).notices = s.notices := by
    intro l
    induction l with
    | nil => exact fun _ _ => rfl
    | cons m l ih =>
      intro s hl
      rw [List.foldl_cons, ih _ fun m hm => hl m (.tail _ hm)]
      exact loseMembership_notices _ s (hl m (.head _))
  rw [listChanged, modRadio_notices, foldl_keeps State.notices _ (gainMembership_notices _), hlost]
  exact fun m hm => hflags m (List.mem_of_mem_filter hm)

/-- What a reported list leaves where nothing is passed. -/
theorem reportApplied_unpassed {s : State} {u : Nat} {r : Radio} (hu : tget s.radios u = some r) (rep : Option (List Nat))
    (h : countedSites r.state = [] ∨ NoCalls s) : Relisted s (reportApplied s u rep) ∧
      ((∀ m ∈ r.groups, m.pending = false) → (reportApplied s u rep).notices = s.notices) := by
  cases rep with
  | none => exact ⟨.refl s, fun _ => rfl⟩
  | some l =>
    have hchange := changeGroupList_unpassed hu (trimGroups s l) h
    have hlisted := relisted_listChanged s u r (trimGroups s l)
    have hnotices := fun hf => listChanged_notices (s := s) (u := u) (r := r) hf (trimGroups s l)
    simp only [reportApplied, applyReported, hu, hchange]
    cases r.regroup with
    | none => simp only []; split; exacts [⟨.refl s, fun _ => rfl⟩, ⟨hlisted, hnotices⟩]
    | ordered => simp only []; split; exacts [⟨relisted_modRadio s u _, fun _ => rfl⟩, ⟨.refl s, fun _ => rfl⟩]
    | confirmed => simp only []; split; exacts [⟨.refl s, fun _ => rfl⟩, ⟨hlisted.trans (relisted_modRadio _ u _), hnotices⟩]

/-! ### The member counts of a close (R82, R115) -/

theorem shifted_same (l at_ : List Nat) (g n c : Nat) : shifted l l at_ g n c = c := by
  unfold shifted
  by_cases h : g ∈ l <;> simp [h]

theorem trimGroups_configured {s : State} {l : List Nat} {g : Nat} (h : g ∈ trimGroups s l) : tget s.groups g ≠ none := by
  obtain ⟨-, -, -, hok, -⟩ := keepFirst_nil_spec (groupConfigured s) Config.maxMemberships l
  exact ((groupConfigured_iff s g).1 (hok g h)).2

theorem memberCount_reportApplied {s : State} {u : Nat} {r : Radio} (hu : tget s.radios u = some r) (hc : countsAscend s)
    (hat : (countedSites r.state).Nodup) (hold : (groupNumbers r.groups).Nodup) (rep : Option (List Nat)) (g n : Nat) :
    memberCount (reportApplied s u rep) g n =
      shifted (groupNumbers r.groups) (listAfter s r rep) (countedSites r.state) g n (memberCount s g n) := by
  cases rep with
  | none => exact (shifted_same ..).symm
  | some l =>
    have hchange := memberCount_changeGroupList hu hc hat hold (trimGroups_spec s l).1 (fun g hg => trimGroups_configured hg) g n
    have hmod : ∀ (s' : State) f, memberCount (modRadio s' u f) g n = memberCount s' g n := fun _ _ => rfl
    simp only [reportApplied, applyReported, hu, listAfter]
    cases r.regroup <;> simp only [reduceCtorEq, if_false, if_true] <;> split <;> rename_i he
    · rw [eq_of_beq he, shifted_same]
    · exact hchange
    · rw [hmod, shifted_same]
    · rw [shifted_same]
    · rw [eq_of_beq he, shifted_same]
    · rw [hmod]
      exact hchange

end Sys2Proof.Machine

/-! The settle deadline of records in REGISTERED and MOVING, and the handover that a close starts (R10, R23, R37, R38, R55, R65, R66). -/

namespace Sys2Proof.Machine

/-! ### Notices stand in the order in which they are raised (R160) -/

/-- The step raises notices behind those that wait. -/
def Told (s t : State) : Prop := ∃ more, t.notices = s.notices ++ more

theorem Told.of_eq {s t : State} (h : t.notices = s.notices) : Told s t := ⟨[], by rw [h, List.append_nil]⟩
theorem Told.refl (s : State) : Told s s := .of_eq rfl

theorem Told.trans {a b c : State} (h1 : Told a b) (h2 : Told b c) : Told a c := by
  obtain ⟨m1, e1⟩ := h1
  obtain ⟨m2, e2⟩ := h2
  exact ⟨m1 ++ m2, by rw [e2, e1, List.append_assoc]⟩

theorem told_ite {s a b : State} {p : Prop} [Decidable p] (ha : Told s a) (hb : Told s b) : Told s (if p then a else b) := by
  split
  · exact ha
  · exact hb

theorem told_foldl {β : Type} {f : State → β → State} (h : ∀ s x, Told s (f s x)) (l : List β) (s : State) : Told s (l.foldl f s) :=
  foldl_rel Told .refl .trans f h l s

theorem told_raise (s : State) (b : NoticeBody) : Told s (raise s b) := by
  unfold raise
  split
  · exact ⟨_, rfl⟩
  · exact .refl s

theorem told_setSyncLost (s : State) (n : Nat) : Told s (setSyncLost s n) := by
  rcases setSyncLost_cases s n with h | h <;> rw [h]
  · exact .refl s
  · exact .trans (b := modSite s n fun y => { y with syncLost := true }) (.refl s) (told_raise _ _)

theorem told_sendOrdinary (s : State) (n : Nat) (f : SiteOut) : Told s (sendOrdinary s n f) := by
  rcases sendOrdinary_cases s n f with ⟨_, h⟩ | ⟨_, _, h⟩ | ⟨_, _, ⟨h, _⟩ | ⟨h, _⟩⟩ <;> rw [h]
  · exact .refl s
  · exact .refl s
  · exact told_setSyncLost s n
  · exact .trans (b := setGap s) (.refl s) (told_setSyncLost _ n)

theorem told_sendHandover (s : State) (n : Nat) (f : SiteOut) : Told s (sendHandover s n f) := by
  unfold sendHandover
  exact told_ite (.refl s) (.refl s)

theorem told_setOver (s : State) (n : Nat) : Told s (setOver s n) := by
  rcases setOver_cases s n with h | ⟨b, h⟩ <;> rw [h]
  · exact .refl s
  · exact .trans (b := modSite s n fun y => { y with overFlag := true }) (.refl s) (told_raise _ _)

theorem told_lowerUnreached (s : State) (g : Nat) : Told s (lowerUnreached s g) := by
  rcases lowerUnreached_cases s g with h | h <;> rw [h]
  · exact .refl s
  · exact .trans (b := modGroup s g fun y => { y with unreached := y.unreached - 1 }) (.refl s) (told_raise _ _)

theorem told_freeRecord (s : State) (u : Nat) : Told s (freeRecord s u) := by
  refine .trans (b := clearFlags s u) ?_ (.refl _)
  unfold clearFlags
  split
  · exact .trans (b := modRadio s u _) (.refl s) (told_foldl told_lowerUnreached _ _)
  · exact .refl s

theorem queueCall_notices (s : State) (c n : Nat) : (queueCall s c n).notices = s.notices := by
  unfold queueCall
  simp only []
  split
  · rfl
  · split
    · split <;> rfl
    · rfl

theorem told_arbitrate (s : State) (c n : Nat) : Told s (arbitrate s c n) := by
  unfold arbitrate
  split
  · exact told_ite (.refl s) (.refl s)
  · refine told_ite ?_ (.of_eq (queueCall_notices s c n))
    unfold preempt
    split
    · exact told_ite (.trans (.refl s) (told_raise _ _)) (.refl s)
    · exact .of_eq (queueCall_notices s c n)

theorem told_passAll (s : State) (ps : List (Nat × Nat)) : Told s (passAll s ps) := by
  refine told_foldl (fun s p => ?_) ps s
  unfold passToCalls
  split
  · split
    · exact told_ite (told_arbitrate s _ _) (.refl s)
    · exact .refl s
  · exact .refl s

theorem told_addCounts (s : State) (gs : List Nat) (n : Nat) : Told s (addCounts s gs n) :=
  .trans (b := addMembers (addReg s n) gs n) (.of_eq (addMembers_notices _ gs n)) (told_passAll _ _)

theorem told_adoptAt (s : State) (u b t : Nat) (from_ : Option Nat) (wasLost : Bool) : Told s (adoptAt s u b t from_ wasLost) := by
  have hover : ∀ s', Told s' (markOver s s' b) := fun s' => told_ite (told_setOver s' b) (.refl s')
  have hset : Told s (setRecordState s u (.registered b (leaseFrom s t))) := .refl s
  cases from_ with
  | none =>
    have h1 : Told s (adoptedNew s u b t) := hset.trans ((Told.of_eq (addTotals_notices _ _)).trans (told_addCounts _ _ b))
    have h2 := h1.trans ((hover _).trans (told_sendOrdinary _ b (.adopt b u (groupsOf s u))))
    rw [adoptAt_new]
    exact told_ite (h2.trans (told_raise _ _)) h2
  | some a =>
    by_cases hab : a = b
    · subst hab
      rw [adoptAt_same]
      exact hset.trans (told_sendOrdinary _ a _)
    · have h1 : Told s (adoptedFrom s u a b t) := hset.trans ((Told.of_eq (removeCounts_notices _ _ _)).trans (told_addCounts _ _ b))
      have h2 := h1.trans ((hover _).trans ((told_sendOrdinary _ a (.drop a u)).trans (told_sendOrdinary _ b (.adopt b u (groupsOf s u)))))
      rw [adoptAt_from s u b t hab]
      exact told_ite (h2.trans (told_raise _ _)) h2

/-- The start of a handover with its counts, before its directives. -/
def handoverCounted (s : State) (u a lease p t : Nat) : State :=
  addMembers (addReg (setRecordState { s with tagCounter := nextTag s.tagCounter } u
    (.moving a p lease { tag := s.tagCounter, readySeen := false, quiescedSeen := false,
                         deadline := t + tenths s.params.handoverTimeout })) p) (groupsOf s u) p

theorem told_startHandover (s : State) (u a lease p t : Nat) : Told s (startHandover s u a lease p t) := by
  obtain ⟨passes, e⟩ := startHandover_eq s u a lease p t
  rw [e]
  refine .trans ?_ (told_passAll _ _)
  have hcounted : Told s (handoverCounted s u a lease p t) := .of_eq (addMembers_notices _ _ p)
  exact hcounted.trans ((told_sendHandover _ p _).trans (told_sendHandover _ a _))

theorem told_selectSite (s : State) (u t : Nat) (inSet : List Nat) : Told s (selectSite s u t inSet) := by
  unfold selectSite
  split
  · split
    · split
      · exact told_startHandover s u _ _ _ t
      · exact .refl s
    · exact .refl s
    · split
      · exact told_adoptAt s u _ t _ _
      · exact told_ite (.refl s) (told_freeRecord s u)
    · split
      · exact told_adoptAt s u _ t _ _
      · exact .refl s
    · split
      · exact told_adoptAt s u _ t _ _
      · exact .refl s
    · exact .refl s
  · exact .refl s

theorem told_repeatAdopt (s : State) (u : Nat) : Told s (repeatAdopt s u) := by
  unfold repeatAdopt
  split
  · split
    · exact told_sendOrdinary s _ _
    · exact .refl s
  · exact .refl s

/-- Site selection and the end of a close raise their notices behind those of the steps before. -/
theorem told_closeEnd (s s3 : State) (u t : Nat) (b : Burst) : Told s3 (closeEnd s (selectSite s3 u t b.sites) u b) :=
  (told_selectSite s3 u t b.sites).trans (told_ite (p := (b.first && isRegistered s u &&
    isRegistered (selectSite s3 u t b.sites) u) = true) (told_repeatAdopt _ u) (.refl _))

/-- A close that activates the emergency raises its notice first, where the list before it raised none (R23). -/
theorem closeWork_emergency {s : State} {u t n : Nat} {r : Radio} {b : Burst} (hu : tget s.radios u = some r)
    (hb : b.emergency = some n) (hr : r.emergency = none) (hroom : s.notices.length < 64)
    (hquiet : b.reported = none ∨ (NoCalls s ∧ ∀ m ∈ r.groups, m.pending = false)) :
    ∃ more, (closeWork s u t b).notices = s.notices ++ { time := s.partTime, body := .emergency u n (stateName r.state) } :: more := by
  have h1 : tget (renewLease s u t).radios u = some { r with state := renewed s t r.state } := by
    rw [renewLease_eq, modRadio_radios, tget_tmod_self, hu]
    rfl
  obtain ⟨gs, h2, -, -⟩ := reportApplied_record h1 b.reported
  have hn2 : (reportApplied (renewLease s u t) u b.reported).notices = s.notices := by
    rcases hquiet with h | ⟨h, hf⟩
    · rw [h]
      rfl
    · exact (reportApplied_unpassed h1 b.reported (.inr (h.congr fun _ => rfl))).2 hf
  have ht2 : (reportApplied (renewLease s u t) u b.reported).partTime = s.partTime :=
    (closeFrame_reportApplied (renewLease s u t) u b.reported).partTime
  have h3 : (closeReady s u t b).notices = s.notices ++ [{ time := s.partTime, body := .emergency u n (stateName r.state) }] := by
    rw [closeReady, hb, emergencyTaken, activateEmergency_of_some h2, hr, if_neg (by decide),
      raise_of_room (by rw [modRadio_notices, hn2]; exact hroom)]
    simp only [modRadio_notices, modRadio_partTime, hn2, ht2, stateName_renewed]
  obtain ⟨more, e⟩ := told_closeEnd s (closeReady s u t b) u t b
  exact ⟨more, by rw [closeWork_eq, e, h3, List.append_assoc]; rfl⟩

/-! ### Closes without a list and an emergency to take -/

theorem closeReady_plain {s : State} {u : Nat} {r : Radio} {b : Burst} (hu : tget s.radios u = some r) (hrep : b.reported = none)
    (he : b.emergency = none) (t : Nat) :
    closeReady s u t b = { s with radios := tput s.radios u { r with state := renewed s t r.state } } := by
  rw [closeReady, hrep, he, reportApplied, emergencyTaken, renewLease_eq, modRadio, tmod_of_some _ _ hu]

/-- The replacement of an entry that is not counted by one that is not counted either leaves the number counted. -/
theorem countP_tput_still {α : Type} (p : Nat × α → Bool) {t : Table α} {k : Nat} {v : α} (hv : p (k, v) = false)
    (h : ∀ w, tget t k = some w → p (k, w) = false) : (tput t k v).countP p = t.countP p := by
  induction t with
  | nil => simp [tput, hv]
  | cons e t ih =>
    obtain ⟨j, w⟩ := e
    unfold tput
    split
    · simp [hv]
    · split
      · rename_i hj
        subst hj
        have := h w (by simp [tget])
        simp [hv, this]
      · rename_i hne
        rw [List.countP_cons, List.countP_cons, ih fun w' hw' => h w' (by simpa [tget, hne] using hw')]

theorem movingCount_tput_still {s : State} {u : Nat} {r r1 : Radio} (hu : tget s.radios u = some r) (h : isMoving r.state = false)
    (h1 : isMoving r1.state = false) : movingCount { s with radios := tput s.radios u r1 } = movingCount s :=
  countP_tput_still _ h1 fun w hw => by rw [hu] at hw; cases hw; exact h

theorem hasRoom_tput_still {s : State} {u : Nat} {r r1 : Radio} (hu : tget s.radios u = some r) (h : isMoving r.state = false)
    (h1 : isMoving r1.state = false) (n : Nat) : hasRoom { s with radios := tput s.radios u r1 } n = hasRoom s n := by
  unfold hasRoom
  rw [decide_eq_decide]
  simp only [occupancy, handoverReserve, movingCount_tput_still hu h h1]

theorem handoverDecision_tput_still {s : State} {u : Nat} {r r1 : Radio} (hu : tget s.radios u = some r) (h : isMoving r.state = false)
    (h1 : isMoving r1.state = false) (t a : Nat) (inSet : List Nat) (l : List Hearing) :
    handoverDecision { s with radios := tput s.radios u r1 } t inSet a l = handoverDecision s t inSet a l := by
  unfold handoverDecision
  rw [hasRoom_tput_still hu h h1]
  rfl

/-- A decision for a target tells that both sites work. -/
theorem handoverDecision_works {s : State} {t a p : Nat} {inSet : List Nat} {l : List Hearing}
    (h : handoverDecision s t inSet a l = some p) : siteWorks s a = true ∧ siteWorks s p = true := by
  unfold handoverDecision at h
  split at h
  · rename_i ss b x hss hb hx
    split at h
    · cases h
      obtain ⟨e, -, y, hs, hy, ⟨-, hw, -⟩, -⟩ := mem_eligibleTargets.1 (bestOf_mem hb)
      refine ⟨?_, ?_⟩
      · unfold servingScore at hss
        split at hss
        · rename_i y' _ hy' _
          split at hss
          · rename_i hw'
            rw [siteWorks_of_tget hy', hw']
          · cases hss
        · cases hss
      · rw [siteWorks_of_tget hy, hw]
    · cases h
  · cases h

/-- What the start of a handover to a working site leaves. -/
theorem startHandover_facts (s : State) (u a lease p t : Nat) (hwp : siteWorks s p = true) :
    (startHandover s u a lease p t).tagCounter = nextTag s.tagCounter ∧
      (∃ more, (startHandover s u a lease p t).outbound = s.outbound ++ .prepare p u s.tagCounter (groupsOf s u) ::
        ((if siteWorks s a then [.quiesce a u s.tagCounter] else []) ++ more)) ∧
      (∀ j, (tget (startHandover s u a lease p t).sites j).map Site.count =
        (tget s.sites j).map fun x => if j = p then x.count + 1 else x.count) ∧
      engine (startHandover s u a lease p t) = engine s ∧ outer (startHandover s u a lease p t) = outer s := by
  have hmem : GroupFrame _ (handoverCounted s u a lease p t) := groupFrame_addMembers _ (groupsOf s u) p
  have hworks : ∀ n, siteWorks (handoverCounted s u a lease p t) n = siteWorks s n := fun n =>
    (hmem.sent.works n).trans ((sent_addReg _ p).works n)
  have hbegun : handoverBegun s u a lease p t = { handoverCounted s u a lease p t with
      outbound := s.outbound ++ [.prepare p u s.tagCounter (groupsOf s u)] ++
        if siteWorks s a then [.quiesce a u s.tagCounter] else [] } := by
    have h := closing_eq (handoverCounted s u a lease p t) p a (.prepare p u s.tagCounter (groupsOf s u)) (.quiesce a u s.tagCounter)
    rw [hworks, hworks, hwp, if_pos rfl, hmem.outbound] at h
    exact h
  obtain ⟨passes, hpass⟩ := startHandover_eq s u a lease p t
  have hcall := callFrame_passAll (handoverBegun s u a lease p t) passes
  rw [← hpass, hbegun] at hcall
  obtain ⟨more, hout⟩ := hcall.outbound
  refine ⟨hcall.tag.trans hmem.tag, ⟨more, by rw [hout]; simp⟩, fun j => ?_, hcall.engine.trans hmem.engine, hcall.outer.trans hmem.outer⟩
  rw [hcall.counts]
  simp only [hmem.sites]
  rw [addReg_sites, tget_tmod, setRecordState_sites]
  split
  · cases tget s.sites j <;> rfl
  · rfl

/-- Settles O33: the close renews the lease, decides for the target, and starts the handover. -/
theorem settleStartsAHandover : Obligations.SettleStartsAHandover := by
  intro s u a l p r b ha hu hst hb hd hrep he hdec
  let r1 : Radio := { r with state := .registered a (leaseFrom s b.settle) }
  let s1 : State := { s with radios := tput s.radios u r1 }
  have h3 : closeReady s u b.settle b = s1 := by
    rw [closeReady_plain hu hrep he, hst]
    rfl
  have hu1 : tget s1.radios u = some r1 := tget_tput_self ..
  have hdec1 : handoverDecision s1 b.settle b.sites a r1.hearing = some p :=
    (handoverDecision_tput_still hu (by rw [hst]; rfl) rfl ..).trans hdec
  have h4 : selectSite s1 u b.settle b.sites = startHandover s1 u a (leaseFrom s b.settle) p b.settle := by
    simp only [selectSite, hu1, r1, hdec1]
  have hmoving : isRegistered (startHandover s1 u a (leaseFrom s b.settle) p b.settle) u = false := by
    simp only [isRegistered, startHandover_radios hu1, tget_tput_self]
    rfl
  have hfinal : closeWork s u b.settle b = modRadio (startHandover s1 u a (leaseFrom s b.settle) p b.settle) u fun r =>
      { r with burst := none, prev := some (setOf b) } := by
    rw [closeWork_eq, h3, h4, closeEnd, hmoving, Bool.and_false, if_neg (by decide)]
  obtain ⟨hwa, hwp⟩ := handoverDecision_works hdec1
  obtain ⟨htag, ⟨more, hout⟩, hcounts, hengine, houter⟩ := startHandover_facts s1 u a (leaseFrom s b.settle) p b.settle hwp
  rw [show groupsOf s1 u = groupNumbers r.groups from groupsOf_of_some (r := r1) hu1, if_pos hwa] at hout
  refine ⟨_, more, exec_settleExpiry_due hu hb hd, ?_⟩
  rw [hfinal]
  refine ⟨?_, fun v hv => ?_, htag, hout, hcounts, hengine, houter⟩
  · rw [modRadio_radios, tget_tmod_self, startHandover_radios hu1, tget_tput_self]
    rfl
  · rw [modRadio_radios, tget_tmod_ne _ _ hv, startHandover_radios hu1, tget_tput_ne _ _ hv]
    exact tget_tput_ne _ _ hv

/-! ### The close of a REGISTERED record that stays (R10, R38) -/

/-- An ordinary directive without room is dropped, and the sync-lost flag of its site is set (R102). -/
theorem sendOrdinary_dropped {s : State} {n : Nat} {f : SiteOut} (hw : siteWorks s n = true) (hroom : hasOrdinaryRoom s = false) :
    (sendOrdinary s n f).radios = s.radios ∧ (sendOrdinary s n f).outbound = s.outbound ∧
      (tget (sendOrdinary s n f).sites n).map Site.syncLost = some true := by
  have hlost : ∀ s' : State, s'.sites = s.sites → (tget (setSyncLost s' n).sites n).map Site.syncLost = some true := by
    intro s' hs'
    unfold siteWorks at hw
    cases hx : tget s.sites n with
    | none =>
      rw [hx] at hw
      cases hw
    | some x =>
      unfold setSyncLost
      rw [hs', hx]
      simp only []
      split
      · rename_i h
        rw [hs', hx]
        exact congrArg some h
      · rw [raise_sites, modSite_sites, hs', tget_tmod_self, hx]
        rfl
  have hsame : ∀ s' : State, (setSyncLost s' n).radios = s'.radios ∧ (setSyncLost s' n).outbound = s'.outbound := by
    intro s'
    rcases setSyncLost_cases s' n with h | h <;> rw [h]
    · exact ⟨rfl, rfl⟩
    · exact ⟨by simp, by simp⟩
  rcases sendOrdinary_cases s n f with ⟨h, -⟩ | ⟨-, h, -⟩ | ⟨-, -, ⟨h, -⟩ | ⟨h, -⟩⟩
  · rw [hw] at h
    cases h
  · rw [hroom] at h
    cases h
  · rw [h]
    exact ⟨(hsame s).1, (hsame s).2, hlost s rfl⟩
  · rw [h]
    exact ⟨(hsame _).1, (hsame _).2, hlost (setGap s) rfl⟩

/-- The close of a REGISTERED record for which no handover is decided: a first-flagged burst tells its site again. -/
theorem closeWork_stays_registered {s : State} {u a l : Nat} {r : Radio} {b : Burst} (hu : tget s.radios u = some r)
    (hst : r.state = .registered a l) (hrep : b.reported = none) (he : b.emergency = none) (t : Nat)
    (hdec : handoverDecision s t b.sites a r.hearing = none) :
    closeWork s u t b = modRadio
      (if b.first then
        sendOrdinary { s with radios := tput s.radios u { r with state := .registered a (leaseFrom s t) } } a
          (.adopt a u (groupNumbers r.groups))
      else { s with radios := tput s.radios u { r with state := .registered a (leaseFrom s t) } }) u
      fun r => { r with burst := none, prev := some (setOf b) } := by
  let r1 : Radio := { r with state := .registered a (leaseFrom s t) }
  let s1 : State := { s with radios := tput s.radios u r1 }
  have h3 : closeReady s u t b = s1 := by
    rw [closeReady_plain hu hrep he, hst]
    rfl
  have hu1 : tget s1.radios u = some r1 := tget_tput_self ..
  have hdec1 : handoverDecision s1 t b.sites a r1.hearing = none := (handoverDecision_tput_still hu (by rw [hst]; rfl) rfl ..).trans hdec
  have h4 : selectSite s1 u t b.sites = s1 := by simp only [selectSite, hu1, r1, hdec1]
  have hreg : isRegistered s u = true := by
    simp only [isRegistered, hu, hst]
    rfl
  have hreg1 : isRegistered s1 u = true := by
    simp only [isRegistered, hu1, r1]
    rfl
  have hrepeat : repeatAdopt s1 u = sendOrdinary s1 a (.adopt a u (groupNumbers r.groups)) := by
    simp only [repeatAdopt, hu1, r1]
  rw [closeWork_eq, h3, h4, closeEnd, hreg, hreg1, hrepeat, Bool.and_true, Bool.and_true]

theorem memberCount_emergencyTaken (s : State) (u t : Nat) (e : Option Nat) (g n : Nat) :
    memberCount (emergencyTaken s u t e) g n = memberCount s g n := by
  cases e with
  | none => rfl
  | some site =>
    refine memberCount_congr (fun k => ?_) g n
    rw [emergencyTaken]
    unfold activateEmergency
    split
    · split
      · rfl
      · rw [raise_groups]
        rfl
    · rfl

/-- Settles O32: the record of the close with its notice, the member counts of a MOVING record, and a REGISTERED record that stays. -/
theorem settleClosesTheBurst : Obligations.SettleClosesTheBurst := by
  have notJoining : ∀ {st : RecordState}, servingSite st ≠ none ∨ stateName st = .lost → st ≠ .joining := by
    rintro st h rfl
    simp [servingSite, stateName] at h
  refine ⟨fun s u r b hu hb hd => ⟨fun hs => ?_, fun a p l k hst hrep he => ?_⟩,
    fun s u r b hu hb hd => ⟨fun hs => ?_, fun a p l k hst hok hc => ?_, fun a l hst hrep he hdec => ?_⟩⟩
  · obtain ⟨st, gs, hrec, -, -, hothers⟩ := closeWork_stays hu (notJoining hs) b.settle b
    exact ⟨_, _, exec_settleExpiry_due hu hb hd, hrec, rfl, rfl, rfl, rfl, hothers, (sent_closeWork s u b.settle b).engine,
      (inner_closeWork s u b.settle b).steady.outer⟩
  · rw [exec_settleExpiry_due hu hb hd, closeWork_moving_plain hu hst hrep he]
    rfl
  · obtain ⟨st, gs, hrec, hlist, hfollow, -⟩ := closeWork_stays hu (notJoining hs) b.settle b
    exact ⟨_, _, exec_settleExpiry_due hu hb hd, hrec, ⟨hlist, hfollow, rfl⟩, fun n hbe hre hquiet hroom =>
      closeWork_emergency hu hbe hre hroom (hquiet.imp_right fun h => ⟨noCalls_of_noActiveCalls h.1, h.2⟩)⟩
  · obtain ⟨-, -, -, -, hnd, hne⟩ := hok
    rw [hst] at hne
    have hat : (countedSites r.state).Nodup := by
      rw [hst]
      simpa [countedSites, servingSite, pendingSite] using hne
    have h1 : tget (renewLease s u b.settle).radios u = some { r with state := renewed s b.settle r.state } := by
      rw [renewLease_eq, modRadio_radios, tget_tmod_self, hu]
      rfl
    have hcounted : countedSites (renewed s b.settle r.state) = [a, p] := by
      rw [hst]
      rfl
    obtain ⟨gs, h3, -, -⟩ := closeReady_record hu b.settle b
    have hframe := closeFrame_closeReady s u b.settle b
    have h4 : selectSite (closeReady s u b.settle b) u b.settle b.sites = closeReady s u b.settle b := by
      simp only [selectSite, h3, hst, renewed]
    have hreg : isRegistered s u = false := by
      simp only [isRegistered, hu, hst]
      rfl
    have hfinal : closeWork s u b.settle b = modRadio (closeReady s u b.settle b) u fun r =>
        { r with burst := none, prev := some (setOf b) } := by
      rw [closeWork_eq, h4, closeEnd, hreg, Bool.and_false, Bool.false_and, if_neg (by decide)]
    have hrec : tget (closeWork s u b.settle b).radios u = some
        { r with
          state := renewed s b.settle r.state
          groups := gs
          regroup := regroupAfter s r b.reported
          emergency := emergencyAfter r b b.settle
          burst := none
          prev := some (setOf b) } := by
      rw [hfinal, modRadio_radios, tget_tmod_self, h3]
      rfl
    refine ⟨_, _, exec_settleExpiry_due hu hb hd, hrec, by rw [hst]; rfl, ?_⟩
    rw [hfinal]
    refine ⟨fun g j => ?_, fun j => ?_, hframe.tag⟩
    · have hrepc := memberCount_reportApplied h1 (by exact hc) (by rw [hcounted, ← hcounted, hst]; rw [hst] at hat; exact hat) hnd
        b.reported g j
      rw [hcounted] at hrepc
      exact (memberCount_emergencyTaken _ u b.settle b.emergency g j).trans hrepc
    · exact hframe.values Site.count (fun _ => rfl) j
  · intro stays
    have hexec := (exec_settleExpiry_due hu hb hd).trans (congrArg _ (closeWork_stays_registered hu hst hrep he b.settle hdec))
    let r1 : Radio := { r with state := .registered a (leaseFrom s b.settle) }
    have hroom : hasOrdinaryRoom { s with radios := tput s.radios u r1 } = true ↔ s.outbound.length + 1 ≤ 448 ∧ roomForOne s := by
      rw [hasOrdinaryRoom_iff]
      unfold roomForOne
      rw [movingCount_tput_still hu (by rw [hst]; rfl) rfl]
    have hclosed : ∀ out, modRadio { s with radios := tput s.radios u r1, outbound := out } u (fun r =>
        { r with burst := none, prev := some (setOf b) }) = { stays with outbound := out } := fun out => by
      rw [modRadio]
      simp only [tmod_tput]
      rfl
    refine ⟨fun h => ?_, fun hf hw hl hr => ?_, fun hf hw hno => ?_⟩
    · rw [hexec]
      rcases h with h | h
      · simp only [h, Bool.false_eq_true, if_false]
        exact congrArg _ (hclosed s.outbound)
      · rw [sendOrdinary_of_not (by exact h), ite_self]
        exact congrArg _ (hclosed s.outbound)
    · rw [hexec, hf, if_pos rfl, sendOrdinary_of_room (by exact hw) (hroom.2 ⟨hl, hr⟩)]
      exact congrArg _ (hclosed _)
    · have hno' : hasOrdinaryRoom { s with radios := tput s.radios u r1 } = false := by
        rw [← Bool.not_eq_true, hroom]
        exact hno
      obtain ⟨d1, d2, d3⟩ := sendOrdinary_dropped (f := .adopt a u (groupNumbers r.groups)) (by exact hw) hno'
      refine ⟨_, hexec, ?_⟩
      rw [hf, if_pos rfl]
      refine ⟨?_, d2, d3⟩
      rw [modRadio_radios, d1, tmod_tput]
      rfl

end Sys2Proof.Machine

/-! The close that adopts a record (R9, R15, R17, R61): counts, directives and notices of an adoption, and the close that finds no site. -/

namespace Sys2Proof.Machine

/-! ### The counts of an adoption -/

/-- The counts of an adoption that moves the record to site c (R61). -/
def adoptCounted (s : State) (u c t : Nat) : Option Nat → State
  | none => adoptedNew s u c t
  | some a => adoptedFrom s u a c t

/-- The directives of an adoption: DROP to the site left, and ADOPT (R61). -/
def adoptTold (s : State) (u c : Nat) (from_ : Option Nat) (gs : List Nat) : State :=
  sendOrdinary (match from_ with
    | some a => sendOrdinary s a (.drop a u)
    | none => s) c (.adopt c u gs)

theorem adoptAt_moves (s : State) {u c t : Nat} {from_ : Option Nat} (h : from_ ≠ some c) (wasLost : Bool) :
    adoptAt s u c t from_ wasLost =
      if wasLost then raise (adoptTold (markOver s (adoptCounted s u c t from_) c) u c from_ (groupsOf s u)) (.found u c)
      else adoptTold (markOver s (adoptCounted s u c t from_) c) u c from_ (groupsOf s u) := by
  cases from_ with
  | none => exact adoptAt_new s u c t wasLost
  | some a => exact adoptAt_from s u c t (fun e => h (congrArg some e)) wasLost

theorem adoptCounted_radios (s : State) (u c t : Nat) (from_ : Option Nat) :
    (adoptCounted s u c t from_).radios = tmod s.radios u fun r => { r with state := .registered c (leaseFrom s t) } := by
  have hadd : ∀ s gs b, (addCounts s gs b).radios = s.radios := fun s gs b => by
    rw [addCounts, (callFrame_passAll _ _).radios, (groupFrame_addMembers _ _ _).radios, addReg_radios]
  cases from_ with
  | none =>
    rw [adoptCounted, adoptedNew, hadd, (groupFrame_addTotals _ _).radios]
    rfl
  | some a =>
    rw [adoptCounted, adoptedFrom, hadd, removeCounts_radios]
    rfl

theorem addCounts_site (s : State) (gs : List Nat) (c j : Nat) : (tget (addCounts s gs c).sites j).map noQueue =
    (tget s.sites j).map fun x => noQueue (if j = c then { x with count := x.count + 1 } else x) := by
  rw [addCounts, (callFrame_passAll _ _).sites, (groupFrame_addMembers _ gs c).sites, addReg_sites, tget_tmod]
  split <;> cases tget s.sites j <;> rfl

theorem adoptCounted_site (s : State) {u c : Nat} (t : Nat) {from_ : Option Nat} (h : from_ ≠ some c) (j : Nat) :
    (tget (adoptCounted s u c t from_).sites j).map noQueue = (tget s.sites j).map fun x =>
      noQueue (if j = c then { x with count := x.count + 1 } else if from_ = some j then fallen x else x) := by
  cases from_ with
  | none =>
    rw [adoptCounted, adoptedNew, addCounts_site, (groupFrame_addTotals _ _).sites]
    rfl
  | some a =>
    rw [adoptCounted, adoptedFrom, addCounts_site, removeCounts_sites, setRecordState_sites, tget_tmod]
    by_cases hj : j = a
    · subst hj
      have hjc : j ≠ c := fun e => h (congrArg some e)
      rw [if_pos rfl, Option.map_map]
      simp [Function.comp_def, hjc]
    · have hja : ¬(some a = some j) := fun e => hj (Option.some.inj e).symm
      rw [if_neg hj]
      simp only [hja, if_false]

theorem sent_adoptCounted (s : State) (u c t : Nat) (from_ : Option Nat) : Sent s (adoptCounted s u c t from_) := by
  have hset : Sent s (setRecordState s u (.registered c (leaseFrom s t))) := sent_modRadio s u _
  cases from_ with
  | none => exact hset.trans ((groupFrame_addTotals _ _).sent.trans (sent_addCounts _ _ c))
  | some a => exact hset.trans ((sent_removeCounts _ _ a).trans (sent_addCounts _ _ c))

theorem steady_adoptCounted (s : State) (u c t : Nat) (from_ : Option Nat) : Steady s (adoptCounted s u c t from_) := by
  cases from_ with
  | none => exact (inner_adoptedNew s u c t).steady
  | some a => exact (inner_adoptedFrom s u a c t).steady

/-- Without calls the counts of an adoption send and raise nothing. -/
theorem adoptCounted_quiet {s : State} (h : NoCalls s) (u c t : Nat) (from_ : Option Nat) :
    (adoptCounted s u c t from_).outbound = s.outbound ∧ (adoptCounted s u c t from_).notices = s.notices := by
  have hadd : ∀ (s' : State) gs, (∀ g, (tget s'.groups g).map Group.activeCall = (tget s.groups g).map Group.activeCall) →
      (addCounts s' gs c).outbound = s'.outbound ∧ (addCounts s' gs c).notices = s'.notices := by
    intro s' gs hs'
    have hframe := groupFrame_addMembers (addReg s' c) gs c
    rw [addCounts, passAll_of_noCalls (h.congr fun g => (hframe.active g).trans (hs' g))]
    exact ⟨hframe.outbound, addMembers_notices _ gs c⟩
  cases from_ with
  | none =>
    have hframe := groupFrame_addTotals (setRecordState s u (.registered c (leaseFrom s t))) (groupsOf s u)
    obtain ⟨h1, h2⟩ := hadd _ (groupsOf s u) hframe.active
    exact ⟨h1.trans hframe.outbound, h2.trans (addTotals_notices _ _)⟩
  | some a =>
    have hframe := removeCounts_group (setRecordState s u (.registered c (leaseFrom s t))) (groupsOf s u) a
    obtain ⟨h1, h2⟩ := hadd (removeCounts (setRecordState s u (.registered c (leaseFrom s t))) (groupsOf s u) a) (groupsOf s u)
      fun g => hframe.active g
    exact ⟨h1.trans (removeCounts_outbound _ _ _), h2.trans (removeCounts_notices _ _ _)⟩

theorem memberCount_addMembers {s : State} (hc : countsAscend s) {gs : List Nat} (hd : gs.Nodup) {g : Nat}
    (hg : tget s.groups g ≠ none) (c n : Nat) :
    memberCount (addMembers s gs c) g n = memberCount s g n + if g ∈ gs ∧ n = c then 1 else 0 := by
  induction gs generalizing s with
  | nil => simp [addMembers]
  | cons k gs ih =>
    obtain ⟨hk, hd⟩ := List.nodup_cons.1 hd
    have hg' : tget (addMember s k c).groups g ≠ none := fun e => hg (by
      have := (inner_addMember s k c).steady.groupValues g
      rw [e] at this
      exact Option.map_eq_none_iff.1 this.symm)
    have hstep := ih (countsAscend_inner (inner_addMember s k c) hc) hd hg'
    rw [addMembers, List.foldl_cons]
    rw [addMembers] at hstep
    rw [hstep]
    by_cases hgk : g = k
    · subst hgk
      rw [memberCount_addMember hc hg]
      by_cases hn : n = c <;> simp [hk, hn]
    · have : memberCount (addMember s k c) g n = memberCount s g n := by
        simp only [memberCount, addMember, modGroup_groups, tget_tmod_ne _ _ hgk]
      rw [this]
      simp [hgk]

/-- The groups of a record counted nowhere count it at the site of its adoption. -/
theorem memberCount_adoptedNew {s : State} {u : Nat} (hc : countsAscend s) (hd : (groupsOf s u).Nodup) {g : Nat}
    (hg : tget s.groups g ≠ none) (c t n : Nat) :
    memberCount (adoptedNew s u c t) g n = memberCount s g n + if g ∈ groupsOf s u ∧ n = c then 1 else 0 := by
  let s1 : State := addTotals (setRecordState s u (.registered c (leaseFrom s t))) (groupsOf s u)
  have hin : Inner s s1 := (inner_setRecordState s u _).trans (inner_addTotals _ _)
  have hg1 : tget (addReg s1 c).groups g ≠ none := fun e => hg (by
    have := hin.steady.groupValues g
    rw [show tget s1.groups g = none from e] at this
    exact Option.map_eq_none_iff.1 this.symm)
  have htotals : ∀ (gs : List Nat) (s' : State), memberCount (addTotals s' gs) g n = memberCount s' g n := by
    intro gs
    induction gs with
    | nil => exact fun _ => rfl
    | cons k gs ih =>
      intro s'
      rw [addTotals, List.foldl_cons]
      exact (ih _).trans (memberCount_modGroup s' k _ g n)
  have hpass : ∀ s' ps, memberCount (passAll s' ps) g n = memberCount s' g n := fun s' ps => by
    simp only [memberCount, (callFrame_passAll s' ps).groups]
  rw [adoptedNew, addCounts, hpass, memberCount_addMembers (s := addReg s1 c) (countsAscend_inner (hin.trans (inner_addReg s1 c)) hc) hd hg1]
  exact congrArg (· + _) (htotals _ _)

/-! ### The directives of an adoption -/

/-- A directive keeps every over flag. -/
theorem sendOrdinary_over (s : State) (n : Nat) (f : SiteOut) (j : Nat) :
    (tget (sendOrdinary s n f).sites j).map Site.overFlag = (tget s.sites j).map Site.overFlag := by
  have hlost : ∀ s' : State, (tget (setSyncLost s' n).sites j).map Site.overFlag = (tget s'.sites j).map Site.overFlag := by
    intro s'
    rcases setSyncLost_cases s' n with h | h <;> rw [h]
    rw [raise_sites, modSite_sites, tget_tmod]
    split <;> cases tget s'.sites j <;> rfl
  rcases sendOrdinary_cases s n f with ⟨_, h⟩ | ⟨_, _, h⟩ | ⟨_, _, ⟨h, _⟩ | ⟨h, _⟩⟩ <;> rw [h]
  · rfl
  · exact hlost s
  · exact hlost (setGap s)

theorem adoptTold_frame (s : State) (u c : Nat) (from_ : Option Nat) (gs : List Nat) : SendFrame s (adoptTold s u c from_ gs) := by
  cases from_ with
  | none => exact sendFrame_sendOrdinary s c _
  | some a => exact (sendFrame_sendOrdinary s a _).trans (sendFrame_sendOrdinary _ c _)

theorem adoptTold_over (s : State) (u c : Nat) (from_ : Option Nat) (gs : List Nat) (j : Nat) :
    (tget (adoptTold s u c from_ gs).sites j).map Site.overFlag = (tget s.sites j).map Site.overFlag := by
  cases from_ with
  | none => exact sendOrdinary_over s c _ j
  | some a => exact (sendOrdinary_over _ c _ j).trans (sendOrdinary_over s a _ j)

/-- The DROP of an adoption that leaves a site, while that site works. -/
def dropOf (s : State) (u : Nat) : Option Nat → List SiteOut
  | some a => if siteWorks s a then [.drop a u] else []
  | none => []

theorem adoptTold_of_room {s : State} {u c : Nat} (from_ : Option Nat) (gs : List Nat) (hw : siteWorks s c = true)
    (h1 : s.outbound.length + 2 ≤ 448) (h2 : s.outbound.length + 2 * movingCount s + 2 ≤ 512) :
    adoptTold s u c from_ gs = { s with outbound := s.outbound ++ dropOf s u from_ ++ [.adopt c u gs] } := by
  have hroom : ∀ out : List SiteOut, out.length ≤ 1 → hasOrdinaryRoom { s with outbound := s.outbound ++ out } = true := by
    intro out hout
    rw [hasOrdinaryRoom_iff, roomForOne]
    simp only [movingCount, List.length_append] at h2 ⊢
    omega
  have hsend : ∀ out : List SiteOut, out.length ≤ 1 → sendOrdinary { s with outbound := s.outbound ++ out } c (.adopt c u gs) =
      { s with outbound := s.outbound ++ out ++ [.adopt c u gs] } := fun out hout =>
    sendOrdinary_of_room (by exact hw) (hroom out hout)
  have hself : ({ s with outbound := s.outbound ++ [] } : State) = s := by rw [List.append_nil]
  have hnone := hsend [] (by decide)
  have hroom0 := hroom [] (by decide)
  rw [hself] at hnone hroom0
  cases from_ with
  | none => exact hnone
  | some a =>
    cases ha : siteWorks s a with
    | false =>
      simp only [adoptTold, dropOf, sendOrdinary_of_not ha, ha, Bool.false_eq_true, if_false]
      exact hnone
    | true =>
      simp only [adoptTold, dropOf, sendOrdinary_of_room ha hroom0, ha, if_true]
      exact hsend [.drop a u] (by simp)

theorem adoptTold_dropped {s : State} {u c : Nat} (from_ : Option Nat) (gs : List Nat) (hw : siteWorks s c = true)
    (hno : hasOrdinaryRoom s = false) :
    (adoptTold s u c from_ gs).outbound = s.outbound ∧ (tget (adoptTold s u c from_ gs).sites c).map Site.syncLost = some true := by
  cases from_ with
  | none => exact (sendOrdinary_dropped hw hno).2
  | some a =>
    cases ha : siteWorks s a with
    | false =>
      simp only [adoptTold, sendOrdinary_of_not ha]
      exact (sendOrdinary_dropped hw hno).2
    | true =>
      obtain ⟨hr, ho, -⟩ := sendOrdinary_dropped (f := .drop a u) ha hno
      have hno' : hasOrdinaryRoom (sendOrdinary s a (.drop a u)) = false := by
        rw [← Bool.not_eq_true, hasOrdinaryRoom_iff] at hno ⊢
        simpa only [roomForOne, movingCount, hr, ho] using hno
      obtain ⟨-, ho', hl⟩ := sendOrdinary_dropped (f := .adopt c u gs)
        (((sendFrame_sendOrdinary s a (.drop a u)).works c).trans hw) hno'
      exact ⟨ho'.trans ho, hl⟩

/-! ### The over flag of an adoption (R61, R98) -/

theorem markOver_frame (s s' : State) (c : Nat) : SendFrame s' (markOver s s' c) := by
  unfold markOver
  split
  · exact sendFrame_setOver s' c
  · exact .refl s'

theorem atCapacity_of_tget {s : State} {c : Nat} {x : Site} (h : tget s.sites c = some x) :
    atCapacity s c = decide (x.capacity ≤ x.count) := by simp only [atCapacity, h]

theorem markOver_over {s s' : State} {c : Nat} {x y : Site} (hx : tget s.sites c = some x) (hy : tget s'.sites c = some y) :
    (tget (markOver s s' c).sites c).map Site.overFlag = some (y.overFlag || decide (x.capacity ≤ x.count)) := by
  rw [markOver, atCapacity_of_tget hx]
  split
  · rename_i h
    rw [h, Bool.or_true]
    simp only [setOver, hy]
    split
    · rename_i ho
      rw [hy]
      exact congrArg some ho
    · rw [raise_sites, modSite_sites, tget_tmod_self, hy]
      rfl
  · rename_i h
    rw [Bool.not_eq_true] at h
    rw [h, Bool.or_false, hy]
    rfl

theorem markOver_outbound (s s' : State) (c : Nat) : (markOver s s' c).outbound = s'.outbound := by
  unfold markOver
  split
  · rcases setOver_cases s' c with h | ⟨b, h⟩ <;> rw [h]
    exact raise_outbound _ b
  · rfl

theorem markOver_notices {s s' : State} {c : Nat} {x y : Site} (hx : tget s.sites c = some x) (hy : tget s'.sites c = some y)
    (hroom : s'.notices.length < 64) : (markOver s s' c).notices = s'.notices ++
      if x.capacity ≤ x.count ∧ y.overFlag = false then [{ time := s'.partTime, body := .siteOver c y.count y.capacity }] else [] := by
  rw [markOver, atCapacity_of_tget hx]
  by_cases hcap : x.capacity ≤ x.count
  · rw [if_pos (decide_eq_true hcap)]
    simp only [setOver, hy, hcap, true_and]
    cases y.overFlag with
    | true => simp
    | false =>
      rw [if_neg (by decide), if_pos rfl, raise_of_room (by exact hroom)]
      rfl
  · rw [if_neg (by simpa using hcap), if_neg fun h => hcap h.1, List.append_nil]

/-! ### The adoption (R61) -/

section
variable {s : State} {u c t : Nat} {r : Radio} {x : Site}

theorem adoptAt_sites (hx : tget s.sites c = some x) (u t : Nat) (from_ : Option Nat) (wasLost : Bool) :
    (tget (adoptAt s u c t from_ wasLost).sites c).map Site.count = some (if from_ = some c then x.count else x.count + 1) ∧
    (tget (adoptAt s u c t from_ wasLost).sites c).map Site.overFlag =
      some (if from_ = some c then x.overFlag else x.overFlag || decide (x.capacity ≤ x.count)) ∧
    ∀ j, j ≠ c → (tget (adoptAt s u c t from_ wasLost).sites j).map Site.count =
      (tget s.sites j).map fun y => if from_ = some j then y.count - 1 else y.count := by
  by_cases hf : from_ = some c
  · subst hf
    rw [adoptAt_same, if_pos rfl, if_pos rfl, (sendFrame_sendOrdinary _ c _).counts, sendOrdinary_over, setRecordState_sites, hx]
    refine ⟨rfl, rfl, fun j hj => ?_⟩
    rw [(sendFrame_sendOrdinary _ c _).counts, setRecordState_sites]
    simp [hj.symm]
  · have hsite := adoptCounted_site s (u := u) t hf
    obtain ⟨y, hy, hyx⟩ : ∃ y, tget (adoptCounted s u c t from_).sites c = some y ∧
        noQueue y = noQueue { x with count := x.count + 1 } := by
      have := hsite c
      rw [hx] at this
      simpa using this
    have hframe := (markOver_frame s (adoptCounted s u c t from_) c).trans (adoptTold_frame _ u c from_ (groupsOf s u))
    have hcount : ∀ j, (tget (adoptAt s u c t from_ wasLost).sites j).map Site.count =
        (tget (adoptCounted s u c t from_).sites j).map Site.count := by
      intro j
      rw [adoptAt_moves s hf]
      split
      · rw [raise_sites, hframe.counts]
      · exact hframe.counts j
    have hover : (tget (adoptAt s u c t from_ wasLost).sites c).map Site.overFlag =
        some (y.overFlag || decide (x.capacity ≤ x.count)) := by
      rw [adoptAt_moves s hf]
      split
      · rw [raise_sites, adoptTold_over, markOver_over hx hy]
      · rw [adoptTold_over, markOver_over hx hy]
    have hyc : y.count = x.count + 1 := congrArg Site.count hyx
    have hyo : y.overFlag = x.overFlag := by simpa [noQueue] using congrArg Site.overFlag hyx
    rw [if_neg hf, if_neg hf, hcount, hover, hy, hyo]
    refine ⟨congrArg some hyc, rfl, fun j hj => ?_⟩
    have := congrArg (Option.map Site.count) (hsite j)
    rw [hcount]
    simpa only [Option.map_map, Function.comp_def, noQueue, if_neg hj, apply_ite Site.count, fallen_count] using this

theorem movingCount_adopted (hu : tget s.radios u = some r) (hm : isMoving r.state = false) {s' : State}
    (h : s'.radios = tmod s.radios u fun r => { r with state := .registered c (leaseFrom s t) }) :
    movingCount s' = movingCount s := by
  unfold movingCount
  rw [h, tmod_of_some _ _ hu]
  exact countP_tput_still _ rfl fun w hw => by rw [hu] at hw; cases hw; exact hm

/-- The directives and notices of an adoption without calls, while they have room. -/
theorem adoptAt_of_room (hu : tget s.radios u = some r) (hm : isMoving r.state = false) (hx : tget s.sites c = some x)
    (hw : siteWorks s c = true) (hcalls : NoCalls s) (h1 : s.outbound.length + 2 ≤ 448)
    (h2 : s.outbound.length + 2 * movingCount s + 2 ≤ 512) (from_ : Option Nat) (wasLost : Bool) :
    (adoptAt s u c t from_ wasLost).outbound = s.outbound ++ (if from_ = some c then [] else dropOf s u from_) ++
      [.adopt c u (groupNumbers r.groups)] ∧
    (s.notices.length + 2 ≤ 64 → (adoptAt s u c t from_ wasLost).notices = s.notices ++
      (if from_ ≠ some c ∧ x.capacity ≤ x.count ∧ x.overFlag = false then
        [{ time := s.partTime, body := .siteOver c (x.count + 1) x.capacity }] else []) ++
      if from_ ≠ some c ∧ wasLost = true then [{ time := s.partTime, body := .found u c }] else []) := by
  have hgs : groupsOf s u = groupNumbers r.groups := groupsOf_of_some hu
  by_cases hf : from_ = some c
  · subst hf
    have hroom : hasOrdinaryRoom (setRecordState s u (.registered c (leaseFrom s t))) = true := by
      rw [hasOrdinaryRoom_iff, roomForOne, movingCount_adopted (c := c) (t := t) hu hm rfl, setRecordState_outbound]
      omega
    rw [adoptAt_same, hgs, sendOrdinary_of_room (by exact hw) hroom]
    simp
  · obtain ⟨hout, hnotices⟩ := adoptCounted_quiet hcalls u c t from_
    have hsite := adoptCounted_site s (u := u) t hf c
    rw [hx, Option.map_some, if_pos rfl] at hsite
    obtain ⟨y, hy, hyx⟩ := Option.map_eq_some_iff.1 hsite
    have hyc : y.count = x.count + 1 := congrArg Site.count hyx
    have hyo : y.overFlag = x.overFlag := by simpa [noQueue] using congrArg Site.overFlag hyx
    have hycap : y.capacity = x.capacity := by simpa [noQueue] using congrArg Site.capacity hyx
    have hframe := markOver_frame s (adoptCounted s u c t from_) c
    have hmoving : movingCount (markOver s (adoptCounted s u c t from_) c) = movingCount s :=
      movingCount_adopted (c := c) (t := t) hu hm (hframe.radios.trans (adoptCounted_radios s u c t from_))
    have hworks : ∀ n, siteWorks (markOver s (adoptCounted s u c t from_) c) n = siteWorks s n := fun n =>
      (hframe.works n).trans ((sent_adoptCounted s u c t from_).works n)
    have hout' : (markOver s (adoptCounted s u c t from_) c).outbound = s.outbound := (markOver_outbound s _ c).trans hout
    have htime : (adoptCounted s u c t from_).partTime = s.partTime := (steady_adoptCounted s u c t from_).partTime
    have hdrop : dropOf (markOver s (adoptCounted s u c t from_) c) u from_ = dropOf s u from_ := by
      cases from_ with
      | none => rfl
      | some a => simp only [dropOf, hworks]
    have htold := adoptTold_of_room (s := markOver s (adoptCounted s u c t from_) c) (u := u) from_ (groupsOf s u)
      ((hworks c).trans hw) (by rw [hout']; exact h1) (by rw [hout', hmoving]; exact h2)
    rw [hdrop, hout', hgs] at htold
    have hpart : (markOver s (adoptCounted s u c t from_) c).partTime = s.partTime :=
      (congrArg Outer.partTime hframe.outer).trans htime
    rw [adoptAt_moves s hf, hgs, htold, if_neg hf]
    refine ⟨by split <;> simp, fun hn => ?_⟩
    have hover := markOver_notices hx hy (by rw [hnotices]; omega)
    rw [hyc, hyo, hycap, hnotices, htime] at hover
    simp only [hf, not_false_eq_true, true_and, ne_eq]
    cases wasLost with
    | false => simp [hover]
    | true =>
      rw [if_pos rfl, raise_of_room (by
        show (markOver s (adoptCounted s u c t from_) c).notices.length < 64
        rw [hover, List.length_append]
        split <;> simp only [List.length_cons, List.length_nil] <;> omega)]
      simp [hover, hpart]

/-- The directives of an adoption without calls and without room are dropped. -/
theorem adoptAt_dropped (hu : tget s.radios u = some r) (hm : isMoving r.state = false) (hw : siteWorks s c = true)
    (hcalls : NoCalls s) (hno : ¬(s.outbound.length + 1 ≤ 448 ∧ roomForOne s)) (t : Nat) (from_ : Option Nat) (wasLost : Bool) :
    (adoptAt s u c t from_ wasLost).outbound = s.outbound ∧
      (tget (adoptAt s u c t from_ wasLost).sites c).map Site.syncLost = some true := by
  have full : ∀ s' : State, s'.outbound = s.outbound → movingCount s' = movingCount s → hasOrdinaryRoom s' = false := by
    intro s' ho hmov
    rw [← Bool.not_eq_true, hasOrdinaryRoom_iff, roomForOne, ho, hmov]
    exact hno
  by_cases hf : from_ = some c
  · subst hf
    rw [adoptAt_same]
    exact (sendOrdinary_dropped (s := setRecordState s u (.registered c (leaseFrom s t))) hw
      (full _ rfl (movingCount_adopted (c := c) (t := t) hu hm rfl))).2
  · have hframe := markOver_frame s (adoptCounted s u c t from_) c
    have hout : (markOver s (adoptCounted s u c t from_) c).outbound = s.outbound :=
      (markOver_outbound s _ c).trans (adoptCounted_quiet hcalls u c t from_).1
    have hdropped := adoptTold_dropped (s := markOver s (adoptCounted s u c t from_) c) (u := u) from_ (groupsOf s u)
      ((hframe.works c).trans (((sent_adoptCounted s u c t from_).works c).trans hw))
      (full _ hout (movingCount_adopted (c := c) (t := t) hu hm (hframe.radios.trans (adoptCounted_radios s u c t from_))))
    rw [hout] at hdropped
    rw [adoptAt_moves s hf]
    split
    · rw [raise_outbound, raise_sites]
      exact hdropped
    · exact hdropped

theorem memberCount_adoptAt (hc : countsAscend s) (hd : (groupsOf s u).Nodup) {g : Nat} (hg : tget s.groups g ≠ none)
    (c t : Nat) (wasLost : Bool) (n : Nat) :
    memberCount (adoptAt s u c t none wasLost) g n = memberCount s g n + if g ∈ groupsOf s u ∧ n = c then 1 else 0 := by
  have hgroups : (adoptAt s u c t none wasLost).groups = (adoptedNew s u c t).groups := by
    have hframe := (markOver_frame s (adoptedNew s u c t) c).trans (adoptTold_frame _ u c none (groupsOf s u))
    rw [adoptAt_moves s (from_ := none) (by simp)]
    split
    · rw [raise_groups]
      exact hframe.groups
    · exact hframe.groups
  rw [← memberCount_adoptedNew hc hd hg c t n]
  simp only [memberCount, hgroups]

end

end Sys2Proof.Machine

/-! The close of a burst of a JOINING, PRESUMED or LOST record (R9, R15, R17): it adopts the record, frees it or leaves it. -/

namespace Sys2Proof.Machine

/-! ### Tables -/

/-- Tables in ascending order that read alike are one table. -/
theorem ascending_ext {α : Type} {t t' : Table α} (h : Ascending t) (h' : Ascending t') (e : ∀ k, tget t k = tget t' k) : t = t' := by
  induction t generalizing t' with
  | nil =>
    cases t' with
    | nil => rfl
    | cons q t' =>
      have := e q.1
      simp [tget] at this
  | cons p t ih =>
    obtain ⟨k, v⟩ := p
    rw [ascending_cons] at h
    cases t' with
    | nil =>
      have := e k
      simp [tget] at this
    | cons q t' =>
      obtain ⟨k', v'⟩ := q
      rw [ascending_cons] at h'
      have hk : k = k' := by
        rcases Nat.lt_trichotomy k k' with hlt | heq | hlt
        · have hnone : tget t' k = none := tget_none_of_lt t' k fun a ha => Nat.lt_trans hlt (h'.1 a ha)
          have := e k
          rw [tget, tget, if_pos rfl, if_neg (Nat.ne_of_lt hlt), hnone] at this
          cases this
        · exact heq
        · have hnone : tget t k' = none := tget_none_of_lt t k' fun a ha => Nat.lt_trans hlt (h.1 a ha)
          have := e k'
          rw [tget, tget, if_pos rfl, if_neg (Nat.ne_of_lt hlt), hnone] at this
          cases this
      subst hk
      have hv := e k
      simp only [tget, if_true, Option.some.injEq] at hv
      subst hv
      refine congrArg _ (ih h.2 h'.2 fun j => ?_)
      by_cases hj : j = k
      · subst hj
        rw [tget_none_of_lt t j h.1, tget_none_of_lt t' j h'.1]
      · have := e j
        rwa [tget, tget, if_neg hj, if_neg hj] at this

theorem eq_tput_of_others {α : Type} {t t' : Table α} (h : Ascending t) (h' : Ascending t') {u : Nat} {v : α}
    (hu : tget t' u = some v) (hv : ∀ k, k ≠ u → tget t' k = tget t k) : t' = tput t u v := by
  refine ascending_ext h' (ascending_tput t u v h) fun k => ?_
  by_cases hk : k = u
  · rw [hk, hu, tget_tput_self]
  · rw [hv k hk, tget_tput_ne _ _ hk]

/-! ### Site selection of a record that is counted at no working site (R48) -/

/-- JOINING, PRESUMED or LOST: the states in which site selection adopts. -/
def adoptable (st : RecordState) : Prop := st = .joining ∨ stateName st = .presumed ∨ stateName st = .lost

theorem adoptable.still {st : RecordState} (h : adoptable st) : isMoving st = false := by
  cases st <;> simp_all [adoptable, stateName, isMoving]

theorem adoptable.not_registered {s : State} {u : Nat} {r : Radio} (hu : tget s.radios u = some r) (h : adoptable r.state) :
    isRegistered s u = false := by
  simp only [isRegistered, hu]
  cases hst : r.state <;> simp_all [adoptable, stateName]

theorem adoptable.renewed {st : RecordState} (h : adoptable st) (s : State) (t : Nat) : renewed s t st = st := by
  cases st <;> simp_all [adoptable, stateName, Machine.renewed]

theorem selectSite_adopts {s : State} {u t c : Nat} {r : Radio} {inSet : List Nat} (hu : tget s.radios u = some r)
    (ha : adoptable r.state) (hc : adoptionChoice s t inSet r.state r.hearing = some c) :
    selectSite s u t inSet = adoptAt s u c t (servingSite r.state) (decide (stateName r.state = .lost)) := by
  unfold selectSite
  rw [hu]
  cases hst : r.state <;> rw [hst] at hc ha <;> simp only [hst, hc]
  case registered => simp [adoptable, stateName] at ha
  case moving => simp [adoptable, stateName] at ha
  case retired => simp [adoptable, stateName] at ha
  all_goals rfl

theorem selectSite_without {s : State} {u t : Nat} {r : Radio} {inSet : List Nat} (hu : tget s.radios u = some r)
    (ha : adoptable r.state) (hc : adoptionChoice s t inSet r.state r.hearing = none) :
    selectSite s u t inSet = if r.state = .joining ∧ r.emergency = none then freeRecord s u else s := by
  unfold selectSite
  rw [hu]
  cases hst : r.state <;> rw [hst] at hc ha <;> simp only [hst, hc]
  case registered => simp [adoptable, stateName] at ha
  case moving => simp [adoptable, stateName] at ha
  case retired => simp [adoptable, stateName] at ha
  case joining => cases he : r.emergency <;> simp
  all_goals simp

theorem adoptionChoice_works {s : State} {t c : Nat} {inSet : List Nat} {st : RecordState} {l : List Hearing}
    (h : adoptionChoice s t inSet st l = some c) : siteWorks s c = true := by
  rw [adoptionChoice_eq, Option.map_eq_some_iff] at h
  obtain ⟨e, he, rfl⟩ := h
  obtain ⟨hh, -, hs, x, hx, hw, -⟩ := mem_candidates.1 (bestOf_mem he)
  rw [hs] at hx
  rw [siteWorks_of_tget hx, hw]

theorem adoptAt_tag (s : State) (u c t : Nat) (from_ : Option Nat) (wasLost : Bool) :
    (adoptAt s u c t from_ wasLost).tagCounter = s.tagCounter := by
  have hadd : ∀ s' gs, (addCounts s' gs c).tagCounter = s'.tagCounter := fun s' gs =>
    (callFrame_passAll _ _).tag.trans (groupFrame_addMembers (addReg s' c) gs c).tag
  have hcounted : (adoptCounted s u c t from_).tagCounter = s.tagCounter := by
    cases from_ with
    | none => exact (hadd _ _).trans (groupFrame_addTotals (setRecordState s u _) _).tag
    | some a => exact (hadd _ _).trans (removeCounts_tagCounter (setRecordState s u _) _ a)
  by_cases hf : from_ = some c
  · subst hf
    rw [adoptAt_same]
    exact (sendFrame_sendOrdinary _ c _).tag
  · have hframe := (markOver_frame s (adoptCounted s u c t from_) c).trans (adoptTold_frame _ u c from_ (groupsOf s u))
    rw [adoptAt_moves s hf]
    split
    · rw [raise_tagCounter]
      exact hframe.tag.trans hcounted
    · exact hframe.tag.trans hcounted

/-! ### The close before site selection, where nothing is passed -/

theorem relisted_emergencyTaken (s : State) (u t : Nat) (e : Option Nat) : Relisted s (emergencyTaken s u t e) := by
  cases e with
  | none => exact .refl s
  | some site =>
    rw [emergencyTaken]
    unfold activateEmergency
    split
    · split
      · exact .refl s
      · exact (relisted_modRadio s u _).trans ⟨raise_sites _ _, raise_calls _ _, raise_outbound _ _, fun g => by rw [raise_groups]⟩
    · exact .refl s

section
variable {s : State} {u t : Nat} {r : Radio} {b : Burst}

theorem closeReady_relisted (hu : tget s.radios u = some r) (ha : adoptable r.state)
    (hq : servingSite r.state = none ∨ NoCalls s) : Relisted s (closeReady s u t b) := by
  have h1 : tget (renewLease s u t).radios u = some { r with state := renewed s t r.state } := by
    rw [renewLease_eq, modRadio_radios, tget_tmod_self, hu]
    rfl
  have hnowhere : servingSite r.state = none → countedSites (renewed s t r.state) = [] := by
    rw [ha.renewed]
    cases hst : r.state <;> rw [hst] at ha <;> simp_all [servingSite, countedSites, pendingSite, adoptable, stateName]
  have hrenew : Relisted s (renewLease s u t) := ⟨rfl, rfl, rfl, fun _ => rfl⟩
  have hlist := (reportApplied_unpassed h1 b.reported (hq.imp hnowhere fun h => h.congr fun _ => rfl)).1
  exact (hrenew.trans hlist).trans (relisted_emergencyTaken _ u t b.emergency)

/-- Where the list raises nothing, the notice of the emergency stands alone. -/
theorem closeReady_notices (hu : tget s.radios u = some r) (hcalls : NoCalls s) (hlist : b.reported = none ∨ r.groups = [])
    (hroom : s.notices.length < 64) : (closeReady s u t b).notices = s.notices ++
      match b.emergency, r.emergency with
        | some n, none => [{ time := s.partTime, body := .emergency u n (stateName r.state) }]
        | _, _ => [] := by
  have h1 : tget (renewLease s u t).radios u = some { r with state := renewed s t r.state } := by
    rw [renewLease_eq, modRadio_radios, tget_tmod_self, hu]
    rfl
  obtain ⟨gs, h2, -, -⟩ := reportApplied_record h1 b.reported
  have hn2 : (reportApplied (renewLease s u t) u b.reported).notices = s.notices := by
    rcases hlist with h | h
    · rw [h]
      rfl
    · exact (reportApplied_unpassed h1 b.reported (.inr (hcalls.congr fun _ => rfl))).2 (by simp [h])
  have ht2 : (reportApplied (renewLease s u t) u b.reported).partTime = s.partTime :=
    (closeFrame_reportApplied (renewLease s u t) u b.reported).partTime
  rw [closeReady]
  cases hb : b.emergency with
  | none => simp [emergencyTaken, hn2]
  | some n =>
    rw [emergencyTaken, activateEmergency_of_some h2]
    cases hr : r.emergency with
    | some x => simp [hn2]
    | none =>
      rw [if_neg (by decide), raise_of_room (by rw [modRadio_notices, hn2]; exact hroom)]
      simp only [modRadio_notices, modRadio_partTime, hn2, ht2, stateName_renewed]

theorem closeReady_moving (hasc : Ascending s.radios) (hu : tget s.radios u = some r) (ha : adoptable r.state) :
    movingCount (closeReady s u t b) = movingCount s := by
  obtain ⟨gs, h3, -, -⟩ := closeReady_record hu t b
  unfold movingCount
  rw [eq_tput_of_others hasc (closeReady_ascending hasc u t b) h3 (closeFrame_closeReady s u t b).others]
  refine countP_tput_still _ (by rw [ha.renewed]; exact ha.still) fun w hw => ?_
  rw [hu] at hw
  cases hw
  exact ha.still

/-- A record counted nowhere keeps every member count at the close of its burst. -/
theorem memberCount_closeReady (hu : tget s.radios u = some r) (hst : countedSites (renewed s t r.state) = [])
    (hc : countsAscend s) (hd : (groupNumbers r.groups).Nodup) (g n : Nat) :
    memberCount (closeReady s u t b) g n = memberCount s g n := by
  have h1 : tget (renewLease s u t).radios u = some { r with state := renewed s t r.state } := by
    rw [renewLease_eq, modRadio_radios, tget_tmod_self, hu]
    rfl
  rw [closeReady, memberCount_emergencyTaken,
    memberCount_reportApplied h1 (by exact hc) (by rw [hst]; exact .nil) hd b.reported g n, hst]
  simp only [shifted, List.not_mem_nil, if_false]
  rfl

end

/-! ### The obligation -/

section
variable {s : State} {u : Nat} {r : Radio} {b : Burst}

theorem closeWork_of_adoptable (hu : tget s.radios u = some r) (ha : adoptable r.state) (t : Nat) :
    closeWork s u t b = modRadio (selectSite (closeReady s u t b) u t b.sites) u fun r =>
      { r with burst := none, prev := some (setOf b) } := by
  rw [closeWork_eq, closeEnd, ha.not_registered hu, Bool.and_false, Bool.false_and, if_neg (by decide)]

/-- The record of the close in a state st, where site selection leaves no more than the state to it. -/
def closedRecord (s : State) (r : Radio) (b : Burst) (t : Nat) (st : RecordState) (gs : List Membership) : Radio := { r with
  state := st, groups := gs, regroup := regroupAfter s r b.reported, emergency := emergencyAfter r b t, burst := none,
  prev := some (setOf b) }

theorem settle_adopts (hasc : Ascending s.radios) (hu : tget s.radios u = some r) (hb : r.burst = some b)
    (hd : b.settle ≤ s.partTime) (ha : adoptable r.state) {c : Nat} {x : Site}
    (hc : adoptionChoice s b.settle b.sites r.state r.hearing = some c) (hx : tget s.sites c = some x) :
    ∃ t r', exec (.settleExpiry u) s = .next t ∧ tget t.radios u = some r' ∧ closedBy s r r' b b.settle ∧
        r'.state = .registered c (b.settle + s.params.lease * 10) ∧
        (∀ v, v ≠ u → tget t.radios v = tget s.radios v) ∧
        (servingSite r.state = some c → (tget t.sites c).map Site.count = some x.count ∧
          (tget t.sites c).map Site.overFlag = some x.overFlag) ∧
        (servingSite r.state ≠ some c → (tget t.sites c).map Site.count = some (x.count + 1) ∧
          (tget t.sites c).map Site.overFlag = some (x.overFlag || decide (x.capacity ≤ x.count))) ∧
        (∀ j, j ≠ c → (tget t.sites j).map Site.count =
          (tget s.sites j).map fun y => if servingSite r.state = some j then y.count - 1 else y.count) ∧
        (servingSite r.state = none → countsAscend s → (groupNumbers r.groups).Nodup →
          ∀ g y, tget s.groups g = some y → ∀ j,
            memberCount t g j = memberCount s g j + if g ∈ listAfter s r b.reported ∧ j = c then 1 else 0) ∧
        (noActiveCalls s → b.reported = none ∨ r.groups = [] →
          (s.outbound.length + 2 ≤ 448 → s.outbound.length + 2 * movingCount s + 2 ≤ 512 →
            t.outbound = s.outbound ++ (if servingSite r.state = some c then [] else dropOf s u (servingSite r.state)) ++
              [.adopt c u (listAfter s r b.reported)] ∧
            (s.notices.length + 3 ≤ 64 → t.notices = s.notices ++
              (match b.emergency, r.emergency with
                | some n, none => [{ time := s.partTime, body := .emergency u n (stateName r.state) }]
                | _, _ => []) ++
              (if servingSite r.state ≠ some c ∧ x.capacity ≤ x.count ∧ x.overFlag = false then
                [{ time := s.partTime, body := .siteOver c (x.count + 1) x.capacity }] else []) ++
              (if stateName r.state = .lost then [{ time := s.partTime, body := .found u c }] else []))) ∧
          (¬(s.outbound.length + 1 ≤ 448 ∧ roomForOne s) →
            t.outbound = s.outbound ∧ (tget t.sites c).map Site.syncLost = some true)) ∧
        t.tagCounter = s.tagCounter ∧ engineButGap t = engineButGap s ∧ outer t = outer s := by
  obtain ⟨gs, h3, hlist, hfollow⟩ := closeReady_record hu b.settle b
  rw [ha.renewed] at h3
  have hframe := closeFrame_closeReady s u b.settle b
  have hchoice : adoptionChoice (closeReady s u b.settle b) b.settle b.sites r.state r.hearing = some c :=
    (hframe.choice ..).trans hc
  have hw := adoptionChoice_works hchoice
  obtain ⟨x3, hx3, hsite⟩ : ∃ x3, tget (closeReady s u b.settle b).sites c = some x3 ∧ noQueue x3 = noQueue x := by
    have := hframe.sites c
    rw [hx] at this
    exact Option.map_eq_some_iff.1 this
  have hcount : x3.count = x.count := by simpa [noQueue] using congrArg Site.count hsite
  have hcap : x3.capacity = x.capacity := by simpa [noQueue] using congrArg Site.capacity hsite
  have hover : x3.overFlag = x.overFlag := by simpa [noQueue] using congrArg Site.overFlag hsite
  have hlease : leaseFrom (closeReady s u b.settle b) b.settle = b.settle + s.params.lease * 10 := by
    rw [leaseFrom, hframe.params]
    rfl
  have hfinal : closeWork s u b.settle b = modRadio (adoptAt (closeReady s u b.settle b) u c b.settle (servingSite r.state)
      (decide (stateName r.state = .lost))) u fun r => { r with burst := none, prev := some (setOf b) } := by
    rw [closeWork_of_adoptable hu ha, selectSite_adopts h3 ha hchoice]
  obtain ⟨hsc, hso, hsj⟩ := adoptAt_sites hx3 u b.settle (servingSite r.state) (decide (stateName r.state = .lost))
  rw [hcount] at hsc
  rw [hcount, hcap, hover] at hso
  have hrec : tget (closeWork s u b.settle b).radios u =
      some (closedRecord s r b b.settle (.registered c (b.settle + s.params.lease * 10)) gs) := by
    rw [hfinal, modRadio_radios, tget_tmod_self, adoptAt_radios, tget_tmod_self, h3, hlease]
    rfl
  refine ⟨_, _, exec_settleExpiry_due hu hb hd, hrec, ⟨hlist, hfollow, rfl⟩, rfl, fun v hv => ?_, fun hs => ?_, fun hs => ?_,
    fun j hj => ?_, fun hs hca hnd g y hg j => ?_, fun hno hl => ?_, ?_, (sent_closeWork s u b.settle b).engine,
    (inner_closeWork s u b.settle b).steady.outer⟩
  · rw [hfinal, modRadio_radios, tget_tmod_ne _ _ hv, adoptAt_radios, tget_tmod_ne _ _ hv]
    exact hframe.others v hv
  · rw [if_pos hs] at hsc hso
    rw [hfinal]
    exact ⟨hsc, hso⟩
  · rw [if_neg hs] at hsc hso
    rw [hfinal]
    exact ⟨hsc, hso⟩
  · rw [hfinal]
    refine (hsj j hj).trans ?_
    have := hframe.values (fun y => if servingSite r.state = some j then y.count - 1 else y.count) (fun _ => rfl) j
    exact this
  · have hgs : groupsOf (closeReady s u b.settle b) u = listAfter s r b.reported := (groupsOf_of_some h3).trans hlist
    have hnowhere : countedSites (renewed s b.settle r.state) = [] := by
      rw [ha.renewed]
      cases hst : r.state <;> rw [hst] at ha hs <;> simp_all [servingSite, countedSites, pendingSite, adoptable, stateName]
    have hsteady := closeReady_steady s u b.settle b
    have hnd3 : (listAfter s r b.reported).Nodup := by
      unfold listAfter
      split
      · exact hnd
      · split
        · exact hnd
        · exact (trimGroups_spec s _).1
    have hg3 : tget (closeReady s u b.settle b).groups g ≠ none := fun e => by
      have := hsteady.groupValues g
      rw [e, hg] at this
      cases this
    have hcounts := memberCount_adoptAt (s := closeReady s u b.settle b) (u := u) (hsteady.counts hca) (by rw [hgs]; exact hnd3) hg3 c
      b.settle (decide (stateName r.state = .lost)) j
    rw [hgs, memberCount_closeReady hu hnowhere hca hnd] at hcounts
    rw [hfinal, hs]
    exact hcounts
  · have hcalls := noCalls_of_noActiveCalls hno
    have hrel : Relisted s (closeReady s u b.settle b) := closeReady_relisted hu ha (.inr hcalls)
    have hmoving : movingCount (closeReady s u b.settle b) = movingCount s := closeReady_moving hasc hu ha
    have hcalls3 := hcalls.congr hrel.active
    refine ⟨fun h1 h2 => ?_, fun hfull => ?_⟩
    · obtain ⟨hout, hnotices⟩ := adoptAt_of_room (t := b.settle) h3 ha.still hx3 hw hcalls3 (by rw [hrel.outbound]; exact h1)
        (by rw [hrel.outbound, hmoving]; exact h2) (servingSite r.state) (decide (stateName r.state = .lost))
      have hdrop : dropOf (closeReady s u b.settle b) u (servingSite r.state) = dropOf s u (servingSite r.state) := by
        cases servingSite r.state with
        | none => rfl
        | some a => simp only [dropOf, hframe.works]
      rw [hrel.outbound, hdrop, hlist] at hout
      rw [hfinal]
      refine ⟨hout, fun hn => ?_⟩
      have hn3 := closeReady_notices (t := b.settle) hu hcalls hl (by omega)
      have hlost : (servingSite r.state ≠ some c ∧ decide (stateName r.state = .lost) = true) ↔ stateName r.state = .lost := by
        cases r.state <;> simp [servingSite, stateName]
      have := hnotices (by
        rw [hn3, List.length_append]
        split <;> simp only [List.length_cons, List.length_nil] <;> omega)
      rw [hn3, hcount, hcap, hover, hframe.partTime] at this
      simp only [hlost] at this
      exact this
    · have hdropped := adoptAt_dropped h3 ha.still hw hcalls3 (by rw [roomForOne, hrel.outbound, hmoving]; exact hfull) b.settle
        (servingSite r.state) (decide (stateName r.state = .lost))
      rw [hrel.outbound] at hdropped
      rw [hfinal]
      exact hdropped
  · rw [hfinal]
    exact (adoptAt_tag ..).trans hframe.tag

theorem settle_without_site (hasc : Ascending s.radios) (hu : tget s.radios u = some r) (hb : r.burst = some b)
    (hd : b.settle ≤ s.partTime) (ha : adoptable r.state)
    (hc : adoptionChoice s b.settle b.sites r.state r.hearing = none) :
    ∃ t, exec (.settleExpiry u) s = .next t ∧
        (∀ v, v ≠ u → tget t.radios v = tget s.radios v) ∧
        (r.state = .joining → r.emergency = none → b.emergency = none →
          tget t.radios u = none ∧ t.sites = s.sites ∧ t.calls = s.calls ∧ t.outbound = s.outbound ∧
          (b.reported = none → (∀ m ∈ r.groups, m.pending = false) → t = { s with radios := tdel s.radios u })) ∧
        (r.state ≠ .joining ∨ emergencyAfter r b b.settle ≠ none →
          ∃ r', tget t.radios u = some r' ∧ closedBy s r r' b b.settle ∧ r'.state = r.state ∧
            ∀ j, (tget t.sites j).map Site.count = (tget s.sites j).map Site.count) ∧
        t.tagCounter = s.tagCounter ∧ engineButGap t = engineButGap s ∧ outer t = outer s := by
  obtain ⟨gs, h3, hlist, hfollow⟩ := closeReady_record hu b.settle b
  rw [ha.renewed] at h3
  have hframe := closeFrame_closeReady s u b.settle b
  have hasc3 := closeReady_ascending hasc u b.settle b
  have hchoice : adoptionChoice (closeReady s u b.settle b) b.settle b.sites r.state r.hearing = none :=
    (hframe.choice ..).trans hc
  have hselect := selectSite_without h3 ha hchoice
  have hfinal := closeWork_of_adoptable (b := b) hu ha b.settle
  rw [hselect] at hfinal
  refine ⟨_, exec_settleExpiry_due hu hb hd, fun v hv => ?_, fun hj he hbe => ?_, fun hne => ?_, ?_,
    (sent_closeWork s u b.settle b).engine, (inner_closeWork s u b.settle b).steady.outer⟩
  · rw [closeWork_eq, closeEnd_radios, tget_tmod_ne _ _ hv]
    exact (selectSite_others hasc3 h3 b.settle b.sites hv).trans (hframe.others v hv)
  · have hquiet : emergencyAfter r b b.settle = none := by rw [emergencyAfter, he, hbe]
    rw [if_pos ⟨hj, hquiet⟩] at hfinal
    have hrel : Relisted s (closeReady s u b.settle b) := closeReady_relisted hu ha (.inl (by rw [hj]; rfl))
    obtain ⟨-, hsites, hout, hcalls, -⟩ := freeRecord_frame (closeReady s u b.settle b) u
    refine ⟨?_, ?_, ?_, ?_, fun hrep hflags => closeWork_joining_plain hasc hu hj hrep hbe he hflags b.settle (by rw [← hj]; exact hc)⟩
    · rw [hfinal, modRadio_radios, tget_tmod_self, freeRecord_radios _ _ hasc3, tget_tdel_self _ _ hasc3]
      rfl
    · rw [hfinal]
      exact hsites.trans hrel.sites
    · rw [hfinal]
      exact hcalls.trans hrel.calls
    · rw [hfinal]
      exact hout.trans hrel.outbound
  · rw [if_neg fun h => hne.elim (fun h1 => h1 h.1) fun h2 => h2 h.2] at hfinal
    have hrec : tget (closeWork s u b.settle b).radios u = some (closedRecord s r b b.settle r.state gs) := by
      rw [hfinal, modRadio_radios, tget_tmod_self, h3]
      rfl
    refine ⟨_, hrec, ⟨hlist, hfollow, rfl⟩, rfl, fun j => ?_⟩
    rw [hfinal]
    exact hframe.values Site.count (fun _ => rfl) j
  · rw [hfinal]
    split
    · obtain ⟨-, -, -, -, htag, -⟩ := freeRecord_frame (closeReady s u b.settle b) u
      exact htag.trans hframe.tag
    · exact hframe.tag

end

/-- Settles O35: the choice is the first of the candidates in R60's order, and the close that adopts follows the steps of R61. -/
theorem adoptionPlacesTheRecord : Obligations.AdoptionPlacesTheRecord := by
  refine ⟨fun s t inSet st l hnd => ⟨adoptionChoice_none_iff s t inSet st l, fun c => adoptionChoice_some_iff s t inSet st hnd c⟩,
    fun s u r b hasc hu hb hd ha => ⟨fun c x hc hx => ?_, settle_without_site hasc hu hb hd ha⟩⟩
  have hdrop : (if servingSite r.state = some c then [] else dropOf s u (servingSite r.state)) =
      match servingSite r.state with
        | some a => if a ≠ c ∧ siteWorks s a = true then [.drop a u] else []
        | none => [] := by
    cases servingSite r.state with
    | none => rfl
    | some a =>
      by_cases hac : a = c
      · subst hac
        simp
      · simp [hac, dropOf]
  obtain ⟨t, r', he, hr, hclosed, hst, hothers, hsame, henter, hleft, hmembers, htold, hrest⟩ := settle_adopts hasc hu hb hd ha hc hx
  refine ⟨t, r', he, hr, hclosed, hst, hothers, hsame, henter, hleft, hmembers, fun hno hl => ⟨fun h1 h2 => ?_, (htold hno hl).2⟩, hrest⟩
  have := (htold hno hl).1 h1 h2
  rw [hdrop] at this
  exact this

end Sys2Proof.Machine

/-! The SITE-STATUS that finds a site working or brings it up (R14, R90, R91, R95, R96). -/

namespace Sys2Proof.Machine

/-! ### Ordinary directives without room (R102) -/

/-- The notice SYNC-LOST of a site whose flag was clear. -/
def syncLostOf (s : State) (n : Nat) (x : Site) : List Notice := if x.syncLost = false then [timed s (.syncLost n)] else []

theorem syncLostOf_length (s : State) (n : Nat) (x : Site) : (syncLostOf s n x).length ≤ 1 := by
  unfold syncLostOf
  split <;> simp

theorem setSyncLost_notices {s : State} {n : Nat} {x : Site} (hx : tget s.sites n = some x)
    (hroom : x.syncLost = true ∨ s.notices.length < 64) : (setSyncLost s n).notices = s.notices ++ syncLostOf s n x := by
  unfold setSyncLost syncLostOf
  rw [hx]
  cases h : x.syncLost with
  | true => simp [h]
  | false =>
    simp only [h, Bool.false_eq_true, if_false, if_true]
    rw [raise_of_room (by exact hroom.resolve_left (by simp [h]))]
    rfl

theorem sendOrdinary_dropped_notices {s : State} {n : Nat} {f : SiteOut} {x : Site} (hw : siteWorks s n = true)
    (hno : hasOrdinaryRoom s = false) (hx : tget s.sites n = some x) (hroom : x.syncLost = true ∨ s.notices.length < 64) :
    (sendOrdinary s n f).notices = s.notices ++ syncLostOf s n x := by
  rcases sendOrdinary_cases s n f with ⟨h, -⟩ | ⟨-, h, -⟩ | ⟨-, -, ⟨h, -⟩ | ⟨h, -⟩⟩
  · rw [hw] at h
    cases h
  · rw [hno] at h
    cases h
  · rw [h, setSyncLost_notices hx hroom]
  · rw [h]
    exact setSyncLost_notices (s := setGap s) hx hroom

/-! ### The records of a site that comes up (R14) -/

/-- A record when its site n comes up. -/
def restored (s : State) (n : Nat) (r : Radio) : Radio :=
  if awaitsSite n r then { r with state := .registered n (leaseFrom s s.partTime) } else r

theorem awaitsSite_still {n : Nat} {r : Radio} (h : awaitsSite n r = true) : isMoving r.state = false := by
  unfold awaitsSite at h
  split at h
  · rename_i hs
    rw [hs]
    rfl
  · cases h

/-- What restorations leave, beside the records: what directives leave. -/
def SentOnly (s t : State) : Prop := SendFrame { s with radios := t.radios } t

theorem SendFrame.with_radios {s t : State} (h : SendFrame s t) (radios : Table Radio) :
    SendFrame { s with radios := radios } { t with radios := radios } :=
  ⟨h.outer, rfl, h.groups, h.calls, h.tag, h.engine, h.sites, h.outbound⟩

theorem SentOnly.refl (s : State) : SentOnly s s := SendFrame.refl s

theorem SentOnly.trans {a b c : State} (h1 : SentOnly a b) (h2 : SentOnly b c) : SentOnly a c :=
  (h1.with_radios c.radios).trans h2

theorem restoreRecord_frame (n : Nat) (s : State) (u : Nat) : SentOnly s (restoreRecord n s u) := by
  unfold restoreRecord
  split
  · split
    · rename_i r _ _
      have h := sendFrame_sendOrdinary (setRecordState s u (.registered n (leaseFrom s s.partTime))) n (.adopt n u (groupNumbers r.groups))
      unfold SentOnly
      rw [h.radios]
      exact h
    · exact .refl s
  · exact .refl s

theorem restoreRecord_radios (n : Nat) (s : State) (u v : Nat) : tget (restoreRecord n s u).radios v =
    (tget s.radios v).map fun r => if v = u then restored s n r else r := by
  unfold restoreRecord
  split
  · rename_i r hu
    split
    · rename_i ha
      rw [(sendFrame_sendOrdinary _ n _).radios, setRecordState_radios, tget_tmod]
      split
      · rename_i hv
        rw [hv, hu]
        simp [restored, ha]
      · cases tget s.radios v <;> rfl
    · rename_i ha
      by_cases hv : v = u
      · subst hv
        simp [hu, restored, ha]
      · simp [hv]
  · rename_i hu
    by_cases hv : v = u
    · subst hv
      simp [hu]
    · simp [hv]

theorem restored_congr {s t : State} (h : outer t = outer s) (n : Nat) : restored t n = restored s n := by
  have hp : t.params = s.params := congrArg Outer.params h
  have ht : t.partTime = s.partTime := congrArg Outer.partTime h
  funext r
  simp only [restored, leaseFrom, hp, ht]

theorem restored_twice (s : State) (n : Nat) (r : Radio) : restored s n (restored s n r) = restored s n r := by
  cases h : awaitsSite n r with
  | true =>
    have hr : restored s n r = { r with state := .registered n (leaseFrom s s.partTime) } := by rw [restored, h, if_pos rfl]
    rw [hr]
    rfl
  | false =>
    have hr : restored s n r = r := by rw [restored, h, if_neg (by decide)]
    rw [hr, hr]

theorem restoreRecords_radios (n : Nat) (us : List Nat) (s : State) (v : Nat) : tget (us.foldl (restoreRecord n) s).radios v =
    (tget s.radios v).map fun r => if v ∈ us then restored s n r else r := by
  induction us generalizing s with
  | nil => simp
  | cons u us ih =>
    have hsame : restored (restoreRecord n s u) n = restored s n := restored_congr (restoreRecord_frame n s u).outer n
    rw [List.foldl_cons, ih, restoreRecord_radios, hsame, Option.map_map]
    congr 1
    funext r
    simp only [Function.comp_apply, List.mem_cons]
    by_cases hv : v = u
    · rw [if_pos hv, if_pos (Or.inl hv)]
      split
      · exact restored_twice s n r
      · rfl
    · simp [hv]

theorem restoreRecords_frame (n : Nat) (us : List Nat) (s : State) : SentOnly s (us.foldl (restoreRecord n) s) :=
  foldl_rel SentOnly .refl .trans _ (restoreRecord_frame n) us s

/-- The ADOPTs of a coming up of site n, in the order of the records (R14). -/
def adoptsOf (n : Nat) (l : Table Radio) : List SiteOut :=
  (l.filter fun p => awaitsSite n p.2).map fun p => .adopt n p.1 (groupNumbers p.2.groups)

theorem restoreRecord_of_not {n u : Nat} {s : State} {r : Radio} (hu : tget s.radios u = some r) (h : awaitsSite n r = false) :
    restoreRecord n s u = s := by simp only [restoreRecord, hu, h, Bool.false_eq_true, if_false]

theorem restoreRecord_of_awaits {n u : Nat} {s : State} {r : Radio} (hu : tget s.radios u = some r) (h : awaitsSite n r = true) :
    restoreRecord n s u = sendOrdinary { s with
      radios := tput s.radios u { r with state := .registered n (leaseFrom s s.partTime) } } n
        (.adopt n u (groupNumbers r.groups)) := by
  simp only [restoreRecord, hu, h, if_true, setRecordState, modRadio, tmod_of_some _ _ hu]

/-- The records of l are those that the Directory holds for their units, each unit once. -/
def Listed (l radios : Table Radio) : Prop := (tkeys l).Nodup ∧ ∀ p ∈ l, tget radios p.1 = some p.2

theorem Listed.tail {p : Nat × Radio} {l radios : Table Radio} (h : Listed (p :: l) radios) : Listed l radios :=
  ⟨(List.nodup_cons.1 h.1).2, fun q hq => h.2 q (.tail _ hq)⟩

theorem Listed.tput {p : Nat × Radio} {l radios : Table Radio} (h : Listed (p :: l) radios) (r : Radio) :
    Listed l (tput radios p.1 r) := by
  refine ⟨h.tail.1, fun q hq => ?_⟩
  have hne : q.1 ≠ p.1 := fun e => (List.nodup_cons.1 h.1).1 (e ▸ List.mem_map_of_mem hq)
  rw [tget_tput_ne _ _ hne]
  exact h.2 q (.tail _ hq)

theorem listed_self {radios : Table Radio} (h : Ascending radios) : Listed radios radios :=
  ⟨h.nodup, fun _ hp => tget_of_mem h hp⟩

/-- While they have room, the restorations send every ADOPT and leave all else but the records. -/
theorem restoreRecords_of_room {n : Nat} (l : Table Radio) {s : State} (hl : Listed l s.radios) (hw : siteWorks s n = true)
    (h1 : s.outbound.length + (l.filter fun p => awaitsSite n p.2).length ≤ 448)
    (h2 : s.outbound.length + 2 * movingCount s + (l.filter fun p => awaitsSite n p.2).length ≤ 512) :
    ∃ radios, (tkeys l).foldl (restoreRecord n) s = { s with radios := radios, outbound := s.outbound ++ adoptsOf n l } := by
  induction l generalizing s with
  | nil => exact ⟨s.radios, by simp [tkeys, adoptsOf]⟩
  | cons p l ih =>
    have hp : tget s.radios p.1 = some p.2 := hl.2 p (.head _)
    rw [tkeys, List.map_cons, List.foldl_cons]
    cases ha : awaitsSite n p.2 with
    | false =>
      rw [List.filter_cons_of_neg (by simp [ha])] at h1 h2
      obtain ⟨radios, h⟩ := ih hl.tail hw h1 h2
      refine ⟨radios, ?_⟩
      rw [restoreRecord_of_not hp ha]
      simpa [adoptsOf, ha, tkeys] using h
    | true =>
      rw [List.filter_cons_of_pos (by simp [ha]), List.length_cons] at h1 h2
      let r' : Radio := { p.2 with state := .registered n (leaseFrom s s.partTime) }
      have hmoving : movingCount { s with radios := tput s.radios p.1 r' } = movingCount s :=
        movingCount_tput_still hp (awaitsSite_still ha) rfl
      have hroom : hasOrdinaryRoom { s with radios := tput s.radios p.1 r' } = true := by
        rw [hasOrdinaryRoom_iff, roomForOne, hmoving]
        simp only []
        omega
      have hstep : restoreRecord n s p.1 = { s with
          radios := tput s.radios p.1 r', outbound := s.outbound ++ [.adopt n p.1 (groupNumbers p.2.groups)] } := by
        rw [restoreRecord_of_awaits hp ha, sendOrdinary_of_room (by exact hw) hroom]
        rfl
      have hmoving' : movingCount (restoreRecord n s p.1) = movingCount s := by
        rw [hstep]
        exact hmoving
      obtain ⟨radios, h⟩ := ih (s := restoreRecord n s p.1) (by rw [hstep]; exact hl.tput r') (by rw [hstep]; exact hw)
        (by rw [hstep]; simp only [List.length_append, List.length_singleton]; omega)
        (by rw [hmoving', hstep]; simp only [List.length_append, List.length_singleton]; omega)
      refine ⟨radios, ?_⟩
      rw [tkeys] at h
      rw [h, hstep]
      simp [adoptsOf, ha]

/-- Without room the restorations send nothing; the first sets the sync-lost flag, with its notice where the flag was clear. -/
theorem restoreRecords_dropped {n : Nat} (l : Table Radio) {s : State} {x : Site} (hl : Listed l s.radios)
    (hw : siteWorks s n = true) (hno : hasOrdinaryRoom s = false) (hx : tget s.sites n = some x) :
    ((tkeys l).foldl (restoreRecord n) s).outbound = s.outbound ∧
      (x.syncLost = true ∨ (l.filter fun p => awaitsSite n p.2) ≠ [] →
        (tget ((tkeys l).foldl (restoreRecord n) s).sites n).map Site.syncLost = some true) ∧
      (x.syncLost = true ∨ s.notices.length < 64 → ((tkeys l).foldl (restoreRecord n) s).notices = s.notices ++
        if (l.filter fun p => awaitsSite n p.2) ≠ [] then syncLostOf s n x else []) := by
  induction l generalizing s x with
  | nil => exact ⟨rfl, fun h => (congrArg _ hx).trans (congrArg some (h.resolve_right fun h => h rfl)), fun _ => (List.append_nil _).symm⟩
  | cons p l ih =>
    have hp : tget s.radios p.1 = some p.2 := hl.2 p (.head _)
    rw [tkeys, List.map_cons, List.foldl_cons]
    cases ha : awaitsSite n p.2 with
    | false =>
      rw [List.filter_cons_of_neg (by simp [ha]), restoreRecord_of_not hp ha]
      exact ih hl.tail hw hno hx
    | true =>
      let r' : Radio := { p.2 with state := .registered n (leaseFrom s s.partTime) }
      let s' : State := { s with radios := tput s.radios p.1 r' }
      have hmoving : movingCount s' = movingCount s := movingCount_tput_still hp (awaitsSite_still ha) rfl
      have hno' : hasOrdinaryRoom s' = false := by
        rw [← Bool.not_eq_true, hasOrdinaryRoom_iff] at hno ⊢
        rw [roomForOne, hmoving]
        exact hno
      rw [restoreRecord_of_awaits hp ha, List.filter_cons_of_pos (by simp [ha])]
      obtain ⟨hr, ho, hlost⟩ := sendOrdinary_dropped (s := s') (f := .adopt n p.1 (groupNumbers p.2.groups)) hw hno'
      have hnotice := sendOrdinary_dropped_notices (s := s') (f := .adopt n p.1 (groupNumbers p.2.groups)) hw hno' hx
      have hframe := sendFrame_sendOrdinary s' n (.adopt n p.1 (groupNumbers p.2.groups))
      obtain ⟨y, hy, hyl⟩ := Option.map_eq_some_iff.1 hlost
      have hno'' : hasOrdinaryRoom (sendOrdinary s' n (.adopt n p.1 (groupNumbers p.2.groups))) = false := by
        rw [← Bool.not_eq_true, hasOrdinaryRoom_iff] at hno' ⊢
        simpa only [roomForOne, movingCount, hr, ho] using hno'
      obtain ⟨i1, i2, i3⟩ := ih (s := sendOrdinary s' n (.adopt n p.1 (groupNumbers p.2.groups))) (by rw [hr]; exact hl.tput r')
        ((hframe.works n).trans hw) hno'' hy
      refine ⟨i1.trans ho, fun _ => i2 (.inl hyl), fun hroom => ?_⟩
      · have hsame : syncLostOf (sendOrdinary s' n (.adopt n p.1 (groupNumbers p.2.groups))) n y = [] := by
          rw [syncLostOf, hyl]
          rfl
        have := i3 (.inl hyl)
        rw [hsame, ite_self, List.append_nil] at this
        rw [if_pos (by simp)]
        exact this.trans (hnotice hroom)

/-! ### The status of a working site (R91, R92) -/

section
variable {s : State} {n : Nat} {x : Site}

/-- The condition GOOD, or STRAINED where d holds, is recorded at site n, whose state it sets. -/
def marked (s : State) (n : Nat) (x : Site) (d : Bool) : State := { s with
  sites := tput s.sites n { x with
    condition := some (if d then .strained else .good), state := workingState d (heartbeatFrom s) } }

theorem modSite_twice (hx : tget s.sites n = some x) (f g : Site → Site) :
    modSite (modSite s n f) n g = { s with sites := tput s.sites n (g (f x)) } := by
  simp only [modSite, tmod_of_some _ _ hx, tmod_tput]

theorem takeStatus_good (hp : s.phase = .service) (hn : wfSite n = true) (hx : tget s.sites n = some x) (d : Bool) :
    takeStatus s n (if d then 2 else 1) =
      statusActs (modSite s n fun y => { y with condition := some (if d then .strained else .good) }) n x.state
        (if d then .strained else .good) := by
  have hf : findSite s n = some x := (if_pos hn).trans hx
  unfold takeStatus
  rw [hp, if_neg (by decide), hf]
  cases d <;> rfl

theorem takeStatus_of_working (hp : s.phase = .service) (hn : wfSite n = true) (hx : tget s.sites n = some x) (d : Bool) {e : Nat}
    (hst : x.state = .up e ∨ x.state = .degraded e) : takeStatus s n (if d then 2 else 1) = marked s n x d := by
  rw [takeStatus_good hp hn hx]
  rcases hst with h | h <;> rw [h] <;> cases d <;> exact modSite_twice hx _ _

theorem comeUp_eq (hx : tget s.sites n = some x) (d wasDark : Bool) :
    comeUp (modSite s n fun y => { y with condition := some (if d then .strained else .good) }) n d wasDark =
      raise (if wasDark then (tkeys s.radios).foldl (restoreRecord n) (marked s n x d) else marked s n x d)
        (.siteUp n (if d then .degraded else .up) (if wasDark then s.radios.countP fun p => awaitsSite n p.2 else 0)) := by
  unfold comeUp
  rw [modSite_twice hx]
  rfl

theorem takeStatus_of_down (hp : s.phase = .service) (hn : wfSite n = true) (hx : tget s.sites n = some x) (d : Bool)
    (hst : x.state = .down) (hroom : s.notices.length < 64) : takeStatus s n (if d then 2 else 1) = { marked s n x d with
      notices := s.notices ++ [timed s (.siteUp n (if d then .degraded else .up) 0)] } := by
  have h : takeStatus s n (if d then 2 else 1) =
      comeUp (modSite s n fun y => { y with condition := some (if d then .strained else .good) }) n d false := by
    rw [takeStatus_good hp hn hx, hst]
    cases d <;> rfl
  rw [h, comeUp_eq hx]
  simp only [Bool.false_eq_true, if_false]
  rw [raise_of_room (by exact hroom)]
  rfl

/-- What the coming up of a DARK site leaves. -/
structure CameUp (s : State) (n : Nat) (x : Site) (d : Bool) (t : State) : Prop where
  state : (tget t.sites n).map Site.state = some (workingState d (heartbeatFrom s))
  condition : (tget t.sites n).map Site.condition = some (some (if d then .strained else .good))
  records : ∀ u r, tget s.radios u = some r → tget t.radios u = some (restored s n r)
  absent : ∀ u, tget s.radios u = none → tget t.radios u = none
  counts : ∀ j, (tget t.sites j).map Site.count = (tget s.sites j).map Site.count
  sent : s.outbound.length + (s.radios.filter fun p => awaitsSite n p.2).length ≤ 448 →
    s.outbound.length + 2 * movingCount s + (s.radios.filter fun p => awaitsSite n p.2).length ≤ 512 →
    t.outbound = s.outbound ++ adoptsOf n s.radios ∧ t.sites = (marked s n x d).sites ∧
      (s.notices.length < 64 → t.notices = s.notices ++
        [timed s (.siteUp n (if d then .degraded else .up) (s.radios.filter fun p => awaitsSite n p.2).length)])
  dropped : ¬(s.outbound.length + 1 ≤ 448 ∧ roomForOne s) →
    t.outbound = s.outbound ∧ ((s.radios.filter fun p => awaitsSite n p.2) ≠ [] → (tget t.sites n).map Site.syncLost = some true) ∧
      (s.notices.length + 2 ≤ 64 → t.notices = s.notices ++
        (if (s.radios.filter fun p => awaitsSite n p.2) ≠ [] then syncLostOf s n x else []) ++
        [timed s (.siteUp n (if d then .degraded else .up) (s.radios.filter fun p => awaitsSite n p.2).length)])
  groups : t.groups = s.groups
  calls : t.calls = s.calls
  tag : t.tagCounter = s.tagCounter
  engine : engineButGap t = engineButGap s
  outer : outer t = outer s

theorem takeStatus_of_dark (ha : Ascending s.radios) (hp : s.phase = .service) (hn : wfSite n = true)
    (hx : tget s.sites n = some x) (d : Bool) (hst : x.state = .dark) : CameUp s n x d (takeStatus s n (if d then 2 else 1)) := by
  have h : takeStatus s n (if d then 2 else 1) =
      comeUp (modSite s n fun y => { y with condition := some (if d then .strained else .good) }) n d true := by
    rw [takeStatus_good hp hn hx, hst]
    cases d <;> rfl
  rw [h, comeUp_eq hx, if_pos rfl, if_pos rfl, List.countP_eq_length_filter]
  have hsite : tget (marked s n x d).sites n = some { x with
      condition := some (if d then .strained else .good), state := workingState d (heartbeatFrom s) } := tget_tput_self ..
  have hw : siteWorks (marked s n x d) n = true := by
    rw [siteWorks_of_tget hsite]
    cases d <;> rfl
  have hframe := restoreRecords_frame n (tkeys s.radios) (marked s n x d)
  have hrecords := restoreRecords_radios n (tkeys s.radios) (marked s n x d)
  obtain ⟨y, hy, hyx⟩ : ∃ y, tget ((tkeys s.radios).foldl (restoreRecord n) (marked s n x d)).sites n = some y ∧
      ({ y with syncLost := false, overFlag := false } : Site) = { x with
        condition := some (if d then .strained else .good), state := workingState d (heartbeatFrom s)
        syncLost := false, overFlag := false } := by
    have := hframe.sites n
    simp only [hsite, Option.map_some] at this
    exact Option.map_eq_some_iff.1 this
  constructor
  · rw [raise_sites, hy]
    exact congrArg some (by simpa using congrArg Site.state hyx)
  · rw [raise_sites, hy]
    exact congrArg some (by simpa using congrArg Site.condition hyx)
  · intro u r hu
    have hmem : u ∈ tkeys s.radios := List.mem_map_of_mem (mem_of_tget hu)
    rw [raise_radios, hrecords, show tget (marked s n x d).radios u = some r from hu, Option.map_some, if_pos hmem]
    rfl
  · intro u hu
    rw [raise_radios, hrecords, show tget (marked s n x d).radios u = none from hu]
    rfl
  · intro j
    rw [raise_sites, hframe.counts]
    show (tget (tput s.sites n _) j).map Site.count = _
    by_cases hj : j = n
    · rw [hj, tget_tput_self, hx]
      rfl
    · rw [tget_tput_ne _ _ hj]
  · intro h1 h2
    obtain ⟨radios, e⟩ := restoreRecords_of_room (s := marked s n x d) s.radios (listed_self ha) hw h1 h2
    rw [e]
    refine ⟨raise_outbound _ _, raise_sites _ _, fun hroom => ?_⟩
    rw [raise_of_room (by exact hroom)]
    rfl
  · intro hno
    have hfull : hasOrdinaryRoom (marked s n x d) = false := by
      rw [← Bool.not_eq_true, hasOrdinaryRoom_iff]
      exact hno
    obtain ⟨d1, d2, d3⟩ := restoreRecords_dropped (s := marked s n x d) s.radios (listed_self ha) hw hfull hsite
    refine ⟨(raise_outbound _ _).trans d1, fun h => by rw [raise_sites]; exact d2 (.inr h), fun hroom => ?_⟩
    have hn3 := d3 (.inr (by show s.notices.length < 64; omega))
    have htime : ((tkeys s.radios).foldl (restoreRecord n) (marked s n x d)).partTime = s.partTime :=
      congrArg Outer.partTime hframe.outer
    rw [raise_of_room (by
      rw [hn3, List.length_append]
      show s.notices.length + _ < 64
      have := syncLostOf_length (marked s n x d) n { x with
        condition := some (if d then .strained else .good), state := workingState d (heartbeatFrom s) }
      split
      · omega
      · simp only [List.length_nil]
        omega)]
    simp only [hn3, htime]
    rfl
  · exact (raise_groups _ _).trans hframe.groups
  · exact (raise_calls _ _).trans hframe.calls
  · exact (raise_tagCounter _ _).trans hframe.tag
  · exact (sendFrame_raise _ _).engine.trans hframe.engine
  · exact (outer_raise _ _).trans hframe.outer

end

/-- Settles O38: at a working site only the site changes; a site that comes up restores its records in the order of their units. -/
theorem statusesMoveTheSiteState : Obligations.StatusesMoveTheSiteState := by
  have hexec : ∀ (s : State) (n v : Nat) (rest : List SiteMsg), s.siteIn = .status n v :: rest →
      exec .siteStatus s = .next (takeStatus { s with siteIn := rest } n v) := fun s n v rest hm => by
    show execSiteStatus s = _
    simp only [execSiteStatus, hm]
  refine ⟨fun s n v x rest c st name hp hn hx hm hv => ?_, fun s n x rest hp hn hx => ⟨fun e hst => ⟨fun hm => ?_, fun hm => ?_⟩,
    fun hm hst hroom => ?_, fun hm hst ha => ?_⟩⟩
  · obtain ⟨d, rfl, rfl, rfl, rfl⟩ : ∃ d : Bool, v = (if d then 2 else 1) ∧ c = (if d then .strained else .good) ∧
        st = workingState d (heartbeatFrom s) ∧ name = (if d then .degraded else .up) := by
      rcases hv with ⟨h1, h2, h3, h4⟩ | ⟨h1, h2, h3, h4⟩
      · exact ⟨false, h1, h2, h3, h4⟩
      · exact ⟨true, h1, h2, h3, h4⟩
    refine ⟨fun hst hroom => ?_, fun hst ha => ?_⟩
    · exact (hexec s n _ rest hm).trans (congrArg _ (takeStatus_of_down (s := { s with siteIn := rest }) hp hn hx d hst hroom))
    · have hup := takeStatus_of_dark (s := { s with siteIn := rest }) ha hp hn hx d hst
      refine ⟨_, hexec s n _ rest hm, hup.state, hup.condition, hup.records, hup.absent, hup.counts, hup.sent,
        fun hno => ?_, hup.groups, hup.calls, hup.tag, hup.engine, hup.outer⟩
      obtain ⟨h1, h2, h3⟩ := hup.dropped hno
      refine ⟨h1, h2, fun hroom => (h3 hroom).trans ?_⟩
      congr 2
      by_cases hb : (s.radios.filter fun p => awaitsSite n p.2) = [] <;> simp [hb, syncLostOf, timed]
  · exact (hexec s n 1 rest hm).trans (congrArg _ (takeStatus_of_working (s := { s with siteIn := rest }) hp hn hx false hst))
  · exact (hexec s n 2 rest hm).trans (congrArg _ (takeStatus_of_working (s := { s with siteIn := rest }) hp hn hx true hst))
  · exact (hexec s n 1 rest hm).trans (congrArg _ (takeStatus_of_down (s := { s with siteIn := rest }) hp hn hx false hst hroom))
  · have hup := takeStatus_of_dark (s := { s with siteIn := rest }) ha hp hn hx false hst
    exact ⟨_, hexec s n 1 rest hm, hup.state, hup.records, hup.absent, hup.counts, hup.groups, hup.calls, hup.tag, hup.engine, hup.outer⟩

end Sys2Proof.Machine

/-! The site that goes DARK (R13, R78, R79, R92 to R94). -/

namespace Sys2Proof.Machine

/-! ### The fall of a count (R97, R98) -/

/-- A count that has fallen k times, with the over flag that R98 leaves. -/
theorem fallen_iterate (k : Nat) (x : Site) : fallen^[k] x = { x with
    count := x.count - k, overFlag := x.overFlag && !(decide (0 < k) && decide (x.count - k < x.capacity)) } := by
  induction k with
  | zero => simp
  | succ k ih =>
    rw [Function.iterate_succ_apply', ih]
    have hsub : x.count - (k + 1) = x.count - k - 1 := by omega
    simp only [fallen, clearOver, Nat.zero_lt_succ, decide_true, Bool.true_and, ← hsub]
    by_cases hlt : x.count - (k + 1) < x.capacity
    · simp [hlt]
    · have : ¬x.count - k < x.capacity := by omega
      simp [hlt, this]

theorem commitHandover_sites (s : State) (u a p l tag : Nat) : (commitHandover s u a p l tag).sites = tmod s.sites a fallen := by
  unfold commitHandover
  simp only [closing_eq, modRadio_sites, removeCounts_sites]

theorem unwindHandover_sites (s : State) (u a p l tag : Nat) (how : HandoverEnd) :
    (unwindHandover s u a p l tag how).sites = tmod s.sites p fallen := by
  unfold unwindHandover
  simp only [closing_eq, modRadio_sites, removeCounts_sites]

/-! ### The records of a site that goes DARK -/

/-- A record once site n has gone DARK. -/
def darkened (s : State) (n : Nat) (r : Radio) : Radio :=
  match r.state with
  | .registered a _ => if a = n then { r with state := .presumed n .siteDark (presumeFrom s) } else r
  | .moving a p l k =>
    if a = n then
      if k.readySeen then { r with state := .registered p l, lastHandover := some (.completed, p) }
      else { r with state := .moving a p l { k with quiescedSeen := true } }
    else if p = n then { r with
      state := if siteWorks s a then .registered a l else .presumed a .siteDark (presumeFrom s)
      lastHandover := some (.aborted, n) }
    else r
  | _ => r

/-- What the darkening of site n makes of the records in l, and what it leaves. -/
structure Darkening (n : Nat) (l : Table Radio) (s t : State) : Prop where
  records : ∀ p ∈ l, tget t.radios p.1 = some (darkened s n p.2)
  others : ∀ v, v ∉ tkeys l → tget t.radios v = tget s.radios v
  sites : ∀ j, tget t.sites j = (tget s.sites j).map fun x => if j = n then fallen^[l.countP fun p => leavesDark n p.2] x else x
  outbound : t.outbound = s.outbound ++ l.flatMap (darkDirectives s n)
  calls : t.calls = s.calls
  notices : t.notices = s.notices
  tag : t.tagCounter = s.tagCounter
  engine : engine t = engine s
  outer : outer t = outer s

theorem Darkening.works {n : Nat} {l : Table Radio} {s t : State} (h : Darkening n l s t) (j : Nat) : siteWorks t j = siteWorks s j := by
  refine siteWorks_congr ?_
  rw [h.sites, Option.map_map]
  congr 1
  funext x
  rw [Function.comp_apply]
  split
  · rw [fallen_iterate]
  · rfl

theorem darkened_congr {s t : State} {n : Nat} (h : ∀ j, j ≠ n → siteWorks t j = siteWorks s j) (ho : outer t = outer s) (r : Radio) :
    darkened t n r = darkened s n r := by
  have hfrom : presumeFrom t = presumeFrom s := by
    rw [presumeFrom, presumeFrom, show t.partTime = s.partTime from congrArg Outer.partTime ho,
      show t.params = s.params from congrArg Outer.params ho]
  unfold darkened
  split
  · rw [hfrom]
  · split
    · rfl
    · rename_i ha
      rw [h _ ha, hfrom]
  · rfl

theorem darkDirectives_congr {s t : State} {n : Nat} (h : ∀ j, j ≠ n → siteWorks t j = siteWorks s j) (p : Nat × Radio) :
    darkDirectives t n p = darkDirectives s n p := by
  unfold darkDirectives
  split
  · rename_i a q _ _ _
    split
    · by_cases hq : q = n
      · simp [hq]
      · rw [h q hq]
    · rename_i ha
      rw [h a ha]
  · rfl

/-- The darkening of one record. -/
theorem darkening_one {s : State} {n u : Nat} {r : Radio} (hu : tget s.radios u = some r) (hw : siteWorks s n = false) :
    Darkening n [(u, r)] s (darkenRecord n s u) := by
  have built : ∀ t : State, tget t.radios u = some (darkened s n r) → (∀ v, v ≠ u → tget t.radios v = tget s.radios v) →
      t.sites = (if leavesDark n r then tmod s.sites n fallen else s.sites) → t.outbound = s.outbound ++ darkDirectives s n (u, r) →
      t.calls = s.calls ∧ t.notices = s.notices ∧ t.tagCounter = s.tagCounter ∧ engine t = engine s ∧ outer t = outer s →
      Darkening n [(u, r)] s t := by
    rintro t h1 h2 h3 h4 ⟨hcalls, hnotices, htag, hengine, houter⟩
    refine ⟨fun p hp => by rw [List.mem_singleton.1 hp]; exact h1, fun v hv => h2 v (by simpa [tkeys] using hv), fun j => ?_,
      by simpa using h4, hcalls, hnotices, htag, hengine, houter⟩
    rw [h3]
    cases hl : leavesDark n r with
    | false => simp [hl]
    | true =>
      rw [if_pos rfl, tget_tmod]
      split <;> simp [hl]
  have hset : ∀ st, tget (setRecordState s u st).radios u = some { r with state := st } := fun st => by
    rw [setRecordState_radios, tget_tmod_self, hu]
    rfl
  have hrest : ∀ st v, v ≠ u → tget (setRecordState s u st).radios v = tget s.radios v := fun st v hv => by
    rw [setRecordState_radios, tget_tmod_ne _ _ hv]
  cases hst : r.state with
  | registered a l =>
    have hl : leavesDark n r = false := by simp only [leavesDark, hst]
    have hnone : darkDirectives s n (u, r) = [] := by simp only [darkDirectives, hst]
    by_cases ha : a = n
    · have hstep : darkenRecord n s u = setRecordState s u (.presumed n .siteDark (presumeFrom s)) := by
        simp only [darkenRecord, hu, hst, ha, if_true]
      have hd : darkened s n r = { r with state := .presumed n .siteDark (presumeFrom s) } := by
        simp only [darkened, hst, ha, if_true]
      rw [hstep]
      exact built _ (by rw [hd]; exact hset _) (hrest _) (by rw [hl]; rfl) (by rw [hnone, List.append_nil]; rfl) ⟨rfl, rfl, rfl, rfl, rfl⟩
    · have hstep : darkenRecord n s u = s := by simp only [darkenRecord, hu, hst, ha, if_false]
      have hd : darkened s n r = r := by simp only [darkened, hst, ha, if_false]
      rw [hstep]
      exact built s (by rw [hd]; exact hu) (fun _ _ => rfl) (by rw [hl]; rfl) (by rw [hnone, List.append_nil]) ⟨rfl, rfl, rfl, rfl, rfl⟩
  | moving a p l c =>
    by_cases ha : a = n
    · have hl : leavesDark n r = c.readySeen := by simp only [leavesDark, hst, ha, if_true]
      have hstep : darkenRecord n s u = seeFlags s u n p l { c with quiescedSeen := true } := by
        simp only [darkenRecord, hu, hst, ha, if_true]
      rw [hstep]
      cases hready : c.readySeen with
      | true =>
        obtain ⟨h1, h2, h3, -, h5⟩ := commitHandover_facts s u n p l c.tag hu
        rw [seeFlags_second _ _ _ _ _ (by simp [bothSeen])]
        refine built _ (h1.trans ?_) h2 (by rw [hl, hready]; exact commitHandover_sites ..) (h3.trans ?_) h5
        · simp only [darkened, hst, ha, hready, if_true]
        · rw [hw]
          by_cases hp : p = n
          · simp [darkDirectives, hst, ha, hp, hw]
          · simp [darkDirectives, hst, ha, hp, hready]
      | false =>
        rw [seeFlags_first hu (by simp [bothSeen])]
        refine built _ ?_ (fun v hv => tget_tput_ne _ _ hv) (by rw [hl, hready]; rfl) ?_ ⟨rfl, rfl, rfl, rfl, rfl⟩
        · simp only [tget_tput_self, darkened, hst, ha, hready, if_true]
          simp
        · simp [darkDirectives, hst, ha, hready]
    · by_cases hp : p = n
      · have hstep : darkenRecord n s u = unwindHandover s u a p l c.tag .aborted := by
          simp only [darkenRecord, hu, hst, ha, hp, if_true, if_false]
        obtain ⟨h1, h2, h3, -, h5⟩ := unwindHandover_facts s u a p l c.tag .aborted hu
        rw [hstep]
        refine built _ (h1.trans ?_) h2 ?_ (h3.trans ?_) h5
        · simp only [darkened, hst, ha, hp, if_true, if_false]
          rfl
        · rw [unwindHandover_sites, hp]
          simp [leavesDark, hst, ha, hp]
        · rw [hp, hw]
          simp [darkDirectives, hst, ha, hp]
      · have hstep : darkenRecord n s u = s := by simp only [darkenRecord, hu, hst, ha, hp, if_false]
        have hd : darkened s n r = r := by simp only [darkened, hst, ha, hp, if_false]
        rw [hstep]
        refine built s (by rw [hd]; exact hu) (fun _ _ => rfl) ?_ ?_ ⟨rfl, rfl, rfl, rfl, rfl⟩
        · simp [leavesDark, hst, ha, hp]
        · simp [darkDirectives, hst, ha, hp]
  | joining | presumed | lost | retired =>
    have hstep : darkenRecord n s u = s := by simp only [darkenRecord, hu, hst]
    have hd : darkened s n r = r := by simp only [darkened, hst]
    have hl : leavesDark n r = false := by simp only [leavesDark, hst]
    rw [hstep]
    refine built s (by rw [hd]; exact hu) (fun _ _ => rfl) (by rw [hl]; rfl) ?_ ⟨rfl, rfl, rfl, rfl, rfl⟩
    simp only [darkDirectives, hst, List.append_nil]

/-- The darkening of the records of a list, each unit once. -/
theorem darkening_all {n : Nat} (l : Table Radio) {s : State} (hl : Listed l s.radios) (hw : siteWorks s n = false) :
    Darkening n l s ((tkeys l).foldl (darkenRecord n) s) := by
  induction l generalizing s with
  | nil => exact ⟨fun p hp => (nomatch hp), fun _ _ => rfl, fun j => by simp [tkeys], by simp [tkeys], rfl, rfl, rfl, rfl, rfl⟩
  | cons p l ih =>
    obtain ⟨u, r⟩ := p
    have hone : Darkening n [(u, r)] s (darkenRecord n s u) := darkening_one (hl.2 _ (.head _)) hw
    have hfresh : u ∉ tkeys l := (List.nodup_cons.1 hl.1).1
    have hlist : Listed l (darkenRecord n s u).radios := by
      refine ⟨hl.tail.1, fun q hq => ?_⟩
      rw [hone.others q.1 fun h => hfresh (by
        have : q.1 = u := by simpa [tkeys] using h
        rw [← this]
        exact List.mem_map_of_mem hq)]
      exact hl.2 q (.tail _ hq)
    have hall := ih hlist ((hone.works n).trans hw)
    rw [tkeys, List.map_cons, List.foldl_cons]
    refine ⟨fun q hq => ?_, fun v hv => ?_, fun j => ?_, ?_, hall.calls.trans hone.calls, hall.notices.trans hone.notices,
      hall.tag.trans hone.tag, hall.engine.trans hone.engine, hall.outer.trans hone.outer⟩
    · rcases List.mem_cons.1 hq with rfl | hq
      · exact (hall.others u hfresh).trans (hone.records _ (.head _))
      · exact (hall.records q hq).trans (congrArg some (darkened_congr (fun j _ => hone.works j) hone.outer _))
    · simp only [tkeys, List.map_cons, List.mem_cons, not_or] at hv
      rw [← hone.others v (by simpa [tkeys] using hv.1)]
      exact hall.others v hv.2
    · refine (hall.sites j).trans ?_
      rw [hone.sites, Option.map_map]
      congr 1
      funext x
      simp only [Function.comp_apply, List.countP_cons, List.countP_nil, Nat.zero_add]
      split
      · rw [← Function.iterate_add_apply]
      · rfl
    · refine hall.outbound.trans ?_
      rw [hone.outbound, List.flatMap_cons, List.flatMap_cons, List.flatMap_nil, List.append_nil, List.append_assoc]
      congr 2
      exact congrArg (fun f => l.flatMap f) (funext (darkDirectives_congr fun j _ => hone.works j))

/-! ### The site, its calls and its notice (R93) -/

theorem tget_map_values {α : Type} (f : α → α) (t : Table α) (k : Nat) :
    tget (t.map fun p => (p.1, f p.2)) k = (tget t k).map f := by
  induction t with
  | nil => rfl
  | cons p t ih =>
    obtain ⟨j, v⟩ := p
    rw [List.map_cons, tget, tget]
    split
    · rfl
    · exact ih

/-- What the loss of a site's calls leaves of each status. -/
theorem callStatus_loseSiteCalls {s : State} (hm : ∀ p ∈ s.calls, Ascending p.2.map) (n k j : Nat) :
    callStatus (loseSiteCalls s n) k j = if j = n then none else callStatus s k j := by
  have hcalls : tget (loseSiteCalls s n).calls k = (tget s.calls k).map fun y => { y with map := tdel y.map n } :=
    tget_map_values (fun y : Call => { y with map := tdel y.map n }) s.calls k
  unfold callStatus
  rw [hcalls]
  cases hy : tget s.calls k with
  | none => simp
  | some y =>
    by_cases hj : j = n
    · subst hj
      simp [tget_tdel_self _ _ (hm _ (mem_of_tget hy))]
    · simp [hj, tget_tdel_ne _ hj]

/-- The site x once it has gone DARK. -/
def darkSite (s : State) (n : Nat) (x : Site) : Site :=
  { x with
    state := .dark, queue := [], count := x.count - s.radios.countP fun p => leavesDark n p.2
    overFlag := x.overFlag && !(decide (0 < s.radios.countP fun p => leavesDark n p.2) &&
      decide (x.count - (s.radios.countP fun p => leavesDark n p.2) < x.capacity)) }

/-- What the darkening of site n leaves. -/
structure GoneDark (s : State) (n : Nat) (x : Site) (failing : Bool) (t : State) : Prop where
  site : tget t.sites n = some (darkSite s n x)
  statuses : ∀ k j, callStatus t k j = if j = n then none else callStatus s k j
  records : ∀ u r, tget s.radios u = some r → tget t.radios u = some (darkened s n r)
  others : ∀ j, j ≠ n → tget t.sites j = tget s.sites j
  outbound : t.outbound = s.outbound ++ s.radios.flatMap (darkDirectives s n)
  notices : s.notices.length < 64 → t.notices = s.notices ++ [timed s (.siteDark n failing (darkSite s n x).count)]
  tag : t.tagCounter = s.tagCounter
  engine : engine t = engine s
  outer : outer t = outer s

theorem goDark_leaves {s : State} {n : Nat} {x : Site} (ha : Ascending s.radios) (hm : ∀ p ∈ s.calls, Ascending p.2.map)
    (hx : tget s.sites n = some x) (failing : Bool) : GoneDark s n x failing (goDark s n failing) := by
  let s1 : State := modSite s n fun x => { x with state := .dark }
  have hx1 : tget s1.sites n = some { x with state := .dark } := by
    rw [modSite_sites, tget_tmod_self, hx]
    rfl
  have hworks : ∀ j, j ≠ n → siteWorks s1 j = siteWorks s j := fun j hj => by
    unfold siteWorks
    rw [modSite_sites, tget_tmod_ne _ _ hj]
  have hall := darkening_all s1.radios (s := s1) (listed_self ha) (by rw [siteWorks_of_tget hx1]; rfl)
  let s2 : State := (tkeys s1.radios).foldl (darkenRecord n) s1
  have hx2 : tget (loseSiteCalls s2 n).sites n = some (darkSite s n x) := by
    rw [loseSiteCalls, modSite_sites, tget_tmod_self, hall.sites, hx1, Option.map_some, if_pos rfl, fallen_iterate]
    rfl
  have he : goDark s n failing = raise (loseSiteCalls s2 n) (.siteDark n failing (darkSite s n x).count) := by
    show raise (loseSiteCalls s2 n) (.siteDark n failing (match tget (loseSiteCalls s2 n).sites n with
      | some x => x.count
      | none => 0)) = _
    rw [hx2]
  rw [he]
  constructor
  · rw [raise_sites, hx2]
  · intro k j
    have hstatus := callStatus_loseSiteCalls (s := s2) (by rw [hall.calls]; exact hm) n k j
    have hsame : callStatus s2 k j = callStatus s k j := by
      unfold callStatus
      rw [hall.calls]
      rfl
    unfold callStatus at hstatus ⊢
    rw [raise_calls, hstatus]
    split
    · rfl
    · exact hsame
  · intro u r hu
    rw [raise_radios]
    exact (hall.records (u, r) (mem_of_tget hu)).trans (congrArg some (darkened_congr hworks rfl r))
  · intro j hj
    rw [raise_sites, loseSiteCalls, modSite_sites, tget_tmod_ne _ _ hj, hall.sites, modSite_sites, tget_tmod_ne _ _ hj]
    simp [hj]
  · rw [raise_outbound]
    refine hall.outbound.trans ?_
    exact congrArg (fun f => s.outbound ++ s.radios.flatMap f) (funext (darkDirectives_congr hworks))
  · intro hroom
    have htime : (loseSiteCalls s2 n).partTime = s.partTime := congrArg Outer.partTime hall.outer
    have hn : (loseSiteCalls s2 n).notices = s.notices := hall.notices
    rw [raise_of_room (by rw [hn]; exact hroom)]
    simp only [hn, htime]
    rfl
  · exact (raise_tagCounter _ _).trans hall.tag
  · exact (engine_raise _ _).trans hall.engine
  · exact (outer_raise _ _).trans hall.outer

theorem takeStatus_failing {s : State} {n : Nat} {x : Site} (hp : s.phase = .service) (hn : wfSite n = true)
    (hx : tget s.sites n = some x) : takeStatus s n 3 =
      statusActs (modSite s n fun y => { y with condition := some .failing }) n x.state .failing := by
  have hf : findSite s n = some x := (if_pos hn).trans hx
  unfold takeStatus
  rw [hp, if_neg (by decide), hf]
  rfl

/-- Settles O39: the records are darkened one by one, each with its directive and the fall of its count, and the site then loses its calls. -/
theorem silentOrFailingSitesGoDark : Obligations.SilentOrFailingSitesGoDark := by
  intro s n d x ha hac hm hx hst c after hc
  obtain ⟨t, sites, he, hsites, hdark⟩ : ∃ t sites, exec c s = .next t ∧ (∀ j, j ≠ n → tget sites j = tget s.sites j) ∧
      GoneDark { s with siteIn := after, sites := sites } n
        { x with condition := if c = .siteStatus then some .failing else x.condition } (decide (c = .siteStatus)) t := by
    rcases hc with ⟨rfl, hd, rfl⟩ | ⟨rfl, hp, hn, hin⟩
    · refine ⟨goDark s n false, s.sites, ?_, fun _ _ => rfl, goDark_leaves ha hm hx false⟩
      show execHeartbeatExpiry n s = _
      rcases hst with h | h <;> simp only [execHeartbeatExpiry, hx, Option.map_some, h, hd, if_true]
    · let s0 : State := modSite { s with siteIn := after } n fun y => { y with condition := some .failing }
      have hx0 : tget s0.sites n = some { x with condition := some .failing } := by
        rw [modSite_sites, tget_tmod_self]
        exact congrArg (Option.map _) hx
      refine ⟨goDark s0 n true, s0.sites, ?_, fun j hj => tget_tmod_ne _ _ hj, goDark_leaves (s := s0) ha hm hx0 true⟩
      have hacts := takeStatus_failing (s := { s with siteIn := after }) hp hn hx
      show execSiteStatus s = _
      simp only [execSiteStatus, hin, hacts]
      rcases hst with h | h <;> rw [h] <;> rfl
  have hworks : ∀ j, j ≠ n → siteWorks { s with siteIn := after, sites := sites } j = siteWorks s j := fun j hj => by
    simp only [siteWorks, hsites j hj]
  have hrecord : ∀ u r, tget s.radios u = some r → tget t.radios u = some (darkened s n r) := fun u r hu =>
    (hdark.records u r hu).trans (congrArg some (by
      unfold darkened
      split
      · rfl
      · split
        · rfl
        · rename_i h
          rw [hworks _ h]
          rfl
      · rfl))
  refine ⟨t, _, he, hdark.site, rfl, rfl, fun k => ?_, fun k j hj => ?_, fun u r a l hu hr => ?_, fun u r p l k hu hr hpn => ?_,
    fun u r a l k hu hr hw han => ?_, fun u r hu hr => ?_, rfl, fun j hj => (hdark.others j hj).trans (hsites j hj), ?_,
    hdark.notices, hdark.tag, hdark.engine, hdark.outer⟩
  · rw [hdark.statuses, if_pos rfl]
  · rw [hdark.statuses, if_neg hj]
    rfl
  · rw [hrecord u r hu]
    simp only [darkened, hr]
    rfl
  · rw [hrecord u r hu]
    simp only [darkened, hr, if_true]
  · rw [hrecord u r hu]
    simp only [darkened, hr, han, hw, if_true, if_false]
  · rw [hrecord u r hu]
    refine congrArg some ?_
    cases hs : r.state <;> simp only [darkened, hs]
    case registered a l =>
      rw [if_neg]
      rintro rfl
      simp [hs, countedSites, servingSite, stateName] at hr
    case moving a p l k =>
      rw [if_neg, if_neg]
      · rintro rfl
        simp [hs, countedSites, servingSite, pendingSite, stateName] at hr
      · rintro rfl
        simp [hs, countedSites, servingSite, pendingSite, stateName] at hr
  · refine hdark.outbound.trans ?_
    exact congrArg (fun f => s.outbound ++ s.radios.flatMap f) (funext (darkDirectives_congr hworks))

end Sys2Proof.Machine

/-! Arbitration (R135 to R137, R141, R142) and the deadline of a queue place (R138). -/

namespace Sys2Proof.Machine

/-! ### The best of a list -/

/-- What comes before every other, and no other before it, is the best. -/
theorem bestOf_of_best {α : Type} {before : α → α → Bool} {l : List α} {b : α} (hb : b ∈ l)
    (h : ∀ x ∈ l, x = b ∨ before b x = true ∧ before x b = false) : bestOf before l = some b := by
  induction l with
  | nil => cases hb
  | cons a l ih =>
    have hrest : ∀ x ∈ l, x = b ∨ before b x = true ∧ before x b = false := fun x hx => h x (.tail _ hx)
    rw [bestOf]
    rcases h a (.head _) with rfl | ⟨h1, -⟩
    · cases hc : bestOf before l with
      | none => rfl
      | some c =>
        rcases hrest c (bestOf_mem hc) with rfl | ⟨-, h2⟩
        · simp
        · simp [h2]
    · have hmem : b ∈ l ∨ b = a := (List.mem_cons.1 hb).symm
      rcases hmem with hb' | rfl
      · simp [ih hb' hrest, h1]
      · cases hc : bestOf before l with
        | none => rfl
        | some c =>
          rcases hrest c (bestOf_mem hc) with rfl | ⟨-, h2⟩
          · simp
          · simp [h2]

/-! ### The channels and the queue of a site -/

section
variable {s : State} {c n : Nat} {x : Call} {z : Site}

theorem voiceChannels_of_tget (hz : tget s.sites n = some z) : voiceChannels s n = z.voice := by simp only [voiceChannels, hz]
theorem joinedQueue_of_tget (hz : tget s.sites n = some z) : joinedQueue s n = z.queue := by simp only [joinedQueue, hz]
theorem callPriority_of_tget (hx : tget s.calls c = some x) : callPriority s c = x.priority := by simp only [callPriority, hx]
theorem callStatus_of_tget (hx : tget s.calls c = some x) (n : Nat) : callStatus s c n = tget x.map n := by simp only [callStatus, hx]

theorem freeChannel_of_lowest {ch : Nat} (hz : tget s.sites n = some z) (h1 : 1 ≤ ch) (h2 : ch ≤ z.voice)
    (hfree : ch ∉ channelsHeld s n) (hlow : ∀ k, 1 ≤ k → k < ch → k ∈ channelsHeld s n) : freeChannel s n = some ch := by
  rw [freeChannel, voiceChannels_of_tget hz, List.find?_map]
  have hfind : (List.range z.voice).find? ((fun ch => !(channelsHeld s n).contains ch) ∘ (· + 1)) = some (ch - 1) := by
    rw [List.find?_range_eq_some]
    refine ⟨?_, List.mem_range.2 (by omega), fun j hj => ?_⟩
    · simp only [Function.comp_apply, Nat.sub_add_cancel h1]
      simpa using hfree
    · have := hlow (j + 1) (by omega) (by omega)
      simpa using this
  rw [hfind, Option.map_some, Nat.sub_add_cancel h1]

theorem freeChannel_of_full (hz : tget s.sites n = some z) (h : noChannelFree s n z) : freeChannel s n = none := by
  rw [freeChannel, voiceChannels_of_tget hz, List.find?_eq_none]
  intro ch hch
  obtain ⟨k, hk, rfl⟩ := List.mem_map.1 hch
  have := h (k + 1) (by omega) (by have := List.mem_range.1 hk; omega)
  simpa using this

theorem setStatus_of_tget (hx : tget s.calls c = some x) (n : Nat) (st : CallStatus) :
    setStatus s c n st = { s with calls := tput s.calls c { x with map := tput x.map n st } } := by
  rw [setStatus, modCall, tmod_of_some _ _ hx]

theorem grantChannel_of_tget (hx : tget s.calls c = some x) (n ch : Nat) : grantChannel s c n ch = { s with
    calls := tput s.calls c { x with map := tput x.map n (.granted ch s.partTime) }
    outbound := s.outbound ++ [.callGrant n c x.group ch] } := by
  simp only [grantChannel, hx, setStatus_of_tget hx]
  rfl

theorem joinQueue_of_tget (hz : tget s.sites n = some z) (c : Nat) :
    joinQueue s n c = { s with sites := tput s.sites n { z with queue := z.queue ++ [c] } } := by
  rw [joinQueue, modSite, tmod_of_some _ _ hz]

theorem leaveQueue_of_tget (hz : tget s.sites n = some z) (c : Nat) :
    leaveQueue s n c = { s with sites := tput s.sites n { z with queue := z.queue.erase c } } := by
  rw [leaveQueue, modSite, tmod_of_some _ _ hz]

/-! ### The order of a channel queue (R137) -/

theorem filter_ofPriority (s : State) (q : List Nat) (p p' : Priority) :
    (ofPriority s q p').filter (fun k => callPriority s k == p) = if p' = p then q.filter fun k => callPriority s k == p else [] := by
  rw [ofPriority, List.filter_filter]
  split
  · rename_i h
    subst h
    simp
  · rename_i h
    rw [List.filter_eq_nil_iff]
    intro k _ hk
    simp only [Bool.and_eq_true, beq_iff_eq] at hk
    exact h (hk.2.symm.trans hk.1)

theorem channelQueue_filter (s : State) (n : Nat) (p : Priority) : (channelQueue s n).filter (fun k => callPriority s k == p) =
    (joinedQueue s n).filter fun k => callPriority s k == p := by
  simp only [channelQueue, List.filter_append, filter_ofPriority]
  cases p <;> simp

theorem channelQueue_ordered (s : State) (n : Nat) :
    (channelQueue s n).Pairwise fun k l => priorityRank (callPriority s l) ≤ priorityRank (callPriority s k) := by
  have part : ∀ p, (ofPriority s (joinedQueue s n) p).Pairwise
      fun k l => priorityRank (callPriority s l) ≤ priorityRank (callPriority s k) := by
    refine fun p => List.pairwise_of_forall_mem_list fun k hk l hl => ?_
    rw [((mem_ofPriority ..).1 hk).2, ((mem_ofPriority ..).1 hl).2]
  have above : ∀ {p q : Priority} {k l : Nat}, priorityRank q ≤ priorityRank p → k ∈ ofPriority s (joinedQueue s n) p →
      l ∈ ofPriority s (joinedQueue s n) q → priorityRank (callPriority s l) ≤ priorityRank (callPriority s k) := by
    intro p q k l hpq hk hl
    rw [((mem_ofPriority ..).1 hk).2, ((mem_ofPriority ..).1 hl).2]
    exact hpq
  simp only [channelQueue, List.pairwise_append, part, true_and, List.mem_append]
  refine ⟨⟨fun k hk l hl => above (by decide) hk hl, ?_⟩, ?_⟩
  · rintro k (hk | hk) l hl
    · exact above (by decide) hk hl
    · exact above (by decide) hk hl
  · rintro k ((hk | hk) | hk) l hl
    · exact above (by decide) hk hl
    · exact above (by decide) hk hl
    · exact above (by decide) hk hl

/-! ### Arbitration without a free channel (R136, R137) -/

/-- Where nothing below EMERGENCY is GRANTED at the site, there is no victim. -/
theorem victims_of_none (ha : Ascending s.calls) (h : ∀ k y ch since, tget s.calls k = some y →
    tget y.map n = some (.granted ch since) → y.priority = .emergency) : victims s n = [] := by
  rw [List.eq_nil_iff_forall_not_mem]
  intro v hv
  obtain ⟨y, hy, hst, hp, -⟩ := mem_victims ha hv
  exact hp (h _ _ _ _ hy hst)

/-- The victim of R136 is the one that arbitration finds. -/
theorem bestOf_victims (ha : Ascending s.calls) {v : Nat} {y : Call} {ch since : Nat} (h : victimAt s n v y ch since) :
    bestOf preemptedBefore (victims s n) = some { call := v, priority := y.priority, channel := ch, since := since } := by
  obtain ⟨hv, hst, hp, hbest⟩ := h
  refine bestOf_of_best ?_ fun w hw => ?_
  · refine List.mem_filterMap.2 ⟨(v, y), mem_of_tget hv, ?_⟩
    simp only [hst, hp, if_false]
  · obtain ⟨k, p, ch', since'⟩ := w
    obtain ⟨y', hy', hst', hp', rfl⟩ := mem_victims ha hw
    by_cases hk : k = v
    · left
      subst hk
      rw [hv] at hy'
      cases hy'
      rw [hst] at hst'
      cases hst'
      rfl
    · right
      have hlt := hbest k y' ch' since' hk hy' hst' hp'
      simp only [preemptedBefore]
      rcases hlt with hlt | ⟨heq, hlt⟩
      · have hne : y.priority ≠ y'.priority := fun e => by rw [e] at hlt; exact absurd hlt (Nat.lt_irrefl _)
        have hge : ¬priorityRank y'.priority < priorityRank y.priority := by omega
        simp [hlt, hge, hne.symm]
      · rw [heq]
        rcases hlt with hlt | ⟨rfl, hlt⟩
        · have hne : since' ≠ since := by omega
          have hge : ¬since < since' := by omega
          simp [hlt, hne, hge]
        · have hge : ¬ch < ch' := by omega
          simp [hlt, hge]

theorem preempt_of_victim (ha : Ascending s.calls) (hx : tget s.calls c = some x) (hp : x.priority = .emergency) {v : Nat}
    {y : Call} {ch since : Nat} (hv : victimAt s n v y ch since) (hroom : hasRoom s 2 = true) (hn : s.notices.length < 64) :
    preempt s c n = { s with
      calls := tput (tput s.calls v { y with map := tput y.map n .busyOut }) c
        { x with map := tput x.map n (.granted ch s.partTime) }
      outbound := s.outbound ++ [.callDrop n v ch, .callGrant n c x.group ch]
      notices := s.notices ++ [{ time := s.partTime, body := .callPreempted v y.group n c }] } := by
  obtain ⟨hy, -, hvp, -⟩ := id hv
  have hne : c ≠ v := by
    rintro rfl
    rw [hx] at hy
    cases hy
    exact hvp hp
  have hx' : tget (pushOut (setStatus s v n .busyOut) (.callDrop n v ch)).calls c = some x := by
    rw [setStatus_of_tget hy]
    exact (tget_tput_ne _ _ hne).trans hx
  simp only [preempt, bestOf_victims ha hv, hroom, if_true, hy]
  rw [grantChannel_of_tget hx', setStatus_of_tget hy, raise_of_room (by exact hn)]
  simp [pushOut]

theorem preempt_without_room (ha : Ascending s.calls) (hx : tget s.calls c = some x) {v : Nat} {y : Call} {ch since : Nat}
    (hv : victimAt s n v y ch since) (hroom : hasRoom s 2 = false) :
    preempt s c n = { s with calls := tput s.calls c { x with map := tput x.map n .busyOut } } := by
  simp only [preempt, bestOf_victims ha hv, hroom, Bool.false_eq_true, if_false, setStatus_of_tget hx]

theorem queueCall_joins (hx : tget s.calls c = some x) (hz : tget s.sites n = some z) (hq : z.queue.length < 8) :
    queueCall s c n = { s with
      sites := tput s.sites n { z with queue := z.queue ++ [c] }
      calls := tput s.calls c { x with
        map := tput x.map n (.queued s.partTime (s.partTime + s.params.queueHold * 10)) } } := by
  simp only [queueCall, joinedQueue_of_tget hz, Config.maxChannelQueue, hq, if_true]
  rw [joinQueue_of_tget hz]
  exact setStatus_of_tget (by exact hx) n _

theorem queueCall_displaces (hx : tget s.calls c = some x) (hz : tget s.sites n = some z) (hq : 8 ≤ z.queue.length) {k : Nat} {y : Call}
    (hlast : (channelQueue s n).getLast? = some k) (hk : k ≠ c) (hy : tget s.calls k = some y)
    (hr : priorityRank y.priority < priorityRank x.priority) :
    queueCall s c n = { s with
      sites := tput s.sites n { z with queue := z.queue.erase k ++ [c] }
      calls := tput (tput s.calls k { y with map := tput y.map n .busyOut }) c { x with
        map := tput x.map n (.queued s.partTime (s.partTime + s.params.queueHold * 10)) } } := by
  have hx' : tget (tput s.calls k { y with map := tput y.map n .busyOut }) c = some x := (tget_tput_ne _ _ (Ne.symm hk)).trans hx
  have hfull : ¬z.queue.length < 8 := by omega
  simp only [queueCall, joinedQueue_of_tget hz, Config.maxChannelQueue, hfull, if_false, hlast, callPriority_of_tget hx,
    callPriority_of_tget hy, hr, if_true]
  rw [leaveQueue_of_tget hz, setStatus_of_tget (c := k) (by exact hy), joinQueue_of_tget (by exact tget_tput_self ..), tput_tput,
    setStatus_of_tget (by exact hx')]
  rfl

theorem queueCall_busy (hx : tget s.calls c = some x) (hz : tget s.sites n = some z) (hq : 8 ≤ z.queue.length) {k : Nat} {y : Call}
    (hlast : (channelQueue s n).getLast? = some k) (hy : tget s.calls k = some y)
    (hr : priorityRank x.priority ≤ priorityRank y.priority) :
    queueCall s c n = { s with calls := tput s.calls c { x with map := tput x.map n .busyOut } } := by
  have hfull : ¬z.queue.length < 8 := by omega
  have hnot : ¬priorityRank y.priority < priorityRank x.priority := by omega
  simp only [queueCall, joinedQueue_of_tget hz, Config.maxChannelQueue, hfull, if_false, hlast, callPriority_of_tget hx,
    callPriority_of_tget hy, hnot, setStatus_of_tget hx]

theorem arbitrate_of_free {ch : Nat} (hfree : freeChannel s n = some ch) :
    arbitrate s c n = if hasRoom s 1 then grantChannel s c n ch else setStatus s c n .busyOut := by
  simp only [arbitrate, hfree]

theorem arbitrate_of_full (hx : tget s.calls c = some x) (hfull : freeChannel s n = none) :
    arbitrate s c n = if x.priority = .emergency then preempt s c n else queueCall s c n := by
  simp only [arbitrate, hfull, callPriority_of_tget hx]

/-- With nothing to preempt, a call that finds no channel is queued. -/
theorem arbitrate_queues (ha : Ascending s.calls) (hx : tget s.calls c = some x) (hfull : freeChannel s n = none)
    (h : x.priority ≠ .emergency ∨ ∀ k y ch since, tget s.calls k = some y → tget y.map n = some (.granted ch since) →
      y.priority = .emergency) : arbitrate s c n = queueCall s c n := by
  rw [arbitrate_of_full hx hfull]
  split
  · rename_i hp
    rw [preempt, victims_of_none ha (h.resolve_left fun hne => hne hp)]
    rfl
  · rfl

end

/-! ### The obligations -/

/-- Settles O43: the lowest free channel, then the victim's, then a place in the queue. -/
theorem arbitrationGrantsTheLowestFreeChannel : Obligations.ArbitrationGrantsTheLowestFreeChannel := by
  refine ⟨fun s c n ch x z hx hz h1 h2 hfree hlow => ⟨fun hroom => ?_, fun hno => ?_⟩, fun s n z hz => ⟨channelQueue_ordered s n, fun p => ?_⟩,
    fun s c n x z ha hx hz hfull => ⟨fun v y ch since hp hv => ⟨fun hroom hn => ?_, fun hno => ?_⟩, fun hquiet => ⟨fun hq => ?_,
      fun k y hq hlast hk hy => ⟨fun hr => ?_, fun hr => ?_⟩⟩⟩,
    fun s g n x hg => ⟨fun c hc hw hst => ?_, fun hno => ?_⟩⟩
  · rw [arbitrate_of_free (freeChannel_of_lowest hz h1 h2 hfree hlow), (roomForOne_iff s).1 hroom, if_pos rfl, grantChannel_of_tget hx]
  · have hno' : hasRoom s 1 = false := by rw [← Bool.not_eq_true, ← roomForOne_iff]; exact hno
    rw [arbitrate_of_free (freeChannel_of_lowest hz h1 h2 hfree hlow), hno', if_neg (by decide), setStatus_of_tget hx]
  · rw [channelQueue_filter, joinedQueue_of_tget hz]
  · rw [arbitrate_of_full hx (freeChannel_of_full hz hfull), if_pos hp]
    exact preempt_of_victim ha hx hp hv ((hasRoom_iff s 2).2 hroom) hn
  · rw [arbitrate_of_full hx (freeChannel_of_full hz hfull), if_pos hp]
    exact preempt_without_room ha hx hv (by rw [← Bool.not_eq_true, hasRoom_iff]; exact hno)
  · rw [arbitrate_queues ha hx (freeChannel_of_full hz hfull) hquiet]
    exact queueCall_joins hx hz hq
  · rw [arbitrate_queues ha hx (freeChannel_of_full hz hfull) hquiet]
    exact queueCall_displaces hx hz hq hlast hk hy hr
  · rw [arbitrate_queues ha hx (freeChannel_of_full hz hfull) hquiet]
    exact queueCall_busy hx hz hq hlast hy hr
  · simp only [passToCalls, hg, hc, lateEntry, hw, hst, Option.isNone_none, Bool.and_self, if_true]
  · simp only [passToCalls, hg]
    cases hc : x.activeCall with
    | none => rfl
    | some c =>
      have hentry : (siteWorks s n && (callStatus s c n).isNone) = false := by
        rcases hno c hc with h | h
        · rw [h, Bool.false_and]
        · rw [Option.isNone_eq_false_iff.2 (Option.isSome_iff_ne_none.2 h), Bool.and_false]
      simp only [lateEntry, hentry, Bool.false_eq_true, if_false]

/-- Settles O42: the place leaves the queue, and the call's status at the site alone changes. -/
theorem queueHoldExpiryMakesBusyOut : Obligations.QueueHoldExpiryMakesBusyOut := by
  intro s n c y h hst hh
  obtain ⟨x, hx⟩ := call_of_queued hst
  have hstatus := statuses_setStatus_self (s := leaveQueue s n c) hx n .busyOut
  refine ⟨setStatus (leaveQueue s n c) c n .busyOut, ?_, ?_, fun k j hkj => ?_, fun j => ?_, rfl⟩
  · show execQueueHoldExpiry n c s = _
    simp only [execQueueHoldExpiry, hst, hh, if_true]
  · exact (congrFun hstatus c).trans (by rw [Function.update_self])
  · by_cases hj : j = n
    · subst hj
      exact (congrFun hstatus k).trans (Function.update_of_ne (hkj.resolve_right fun h => h rfl) ..)
    · exact congrFun (statuses_setStatus_ne (leaveQueue s n c) c hj .busyOut) k
  · show tget (tmod s.sites n _) j = _
    rw [tget_tmod]
    split
    · rfl
    · cases tget s.sites j <;> rfl

end Sys2Proof.Machine

/-! The end of a call (R140, R143 to R145): its places leave the queues, and its channels are handed on. -/

namespace Sys2Proof.Machine

/-! ### What the end of a call leaves -/

/-- What every end of a call leaves: the other calls' groups, the records, the notices and the engine. -/
structure CallEnded (s t : State) (c : Nat) (x : Call) : Prop where
  gone : tget t.calls c = none
  others : ∀ k, k ≠ c → (tget t.calls k).map Call.group = (tget s.calls k).map Call.group
  active : ∀ g, (tget t.groups g).map Group.activeCall =
    (tget s.groups g).map fun y => if g = x.group then none else y.activeCall
  radios : t.radios = s.radios
  tag : t.tagCounter = s.tagCounter
  notices : t.notices = s.notices
  engine : engine t = engine s

theorem endCall_leaves {s : State} {c : Nat} {x : Call} (hx : tget s.calls c = some x) (ha : Ascending s.calls) :
    CallEnded s (endCall s c) c x ∧ outer (endCall s c) = outer s := by
  obtain ⟨t, hf, hn, he⟩ := endCall_of_some hx
  refine ⟨⟨endCall_removes hx ha, fun k hk => ?_, fun g => ?_, ?_, ?_, ?_, ?_⟩, ?_⟩ <;> rw [he]
  · simp only []
    rw [tget_tdel_ne _ hk]
    exact hf.callGroups k
  · simp only [hf.groups, tget_tmod]
    split <;> cases tget s.groups g <;> rfl
  · exact hf.radios
  · exact hf.tag
  · exact hn
  · exact hf.engine
  · exact hf.outer

/-! ### The places in the queues (R144, step 1) -/

/-- The queue of a site after the call's own entry there, of status st, has left it. -/
def queueLeft (c : Nat) (st : Option CallStatus) (q : List Nat) : List Nat :=
  match st with
  | some (.queued _ _) => q.erase c
  | _ => q

theorem tget_none_of_not_mem {α : Type} {t : Table α} {k : Nat} (h : k ∉ tkeys t) : tget t k = none := by
  cases hv : tget t k with
  | none => rfl
  | some v => exact absurd (List.mem_map_of_mem (mem_of_tget hv)) h

/-- What the removal of the queue entries in l leaves. -/
structure PlacesLeft (c : Nat) (l : Table CallStatus) (s t : State) : Prop where
  outbound : t.outbound = s.outbound
  radios : t.radios = s.radios
  partTime : t.partTime = s.partTime
  others : ∀ k, k ≠ c → tget t.calls k = tget s.calls k
  sites : ∀ j, tget t.sites j = (tget s.sites j).map fun z => { z with queue := queueLeft c (tget l j) z.queue }

theorem placesLeft_one (c : Nat) (s : State) (p : Nat × CallStatus) : PlacesLeft c [p] s (dropQueued c s p) := by
  obtain ⟨n, st⟩ := p
  have hother : (∀ y z, st ≠ .queued y z) → PlacesLeft c [(n, st)] s s := by
    intro h
    refine ⟨rfl, rfl, rfl, fun _ _ => rfl, fun j => ?_⟩
    have hq : ∀ q, queueLeft c (tget [(n, st)] j) q = q := fun q => by
      simp only [tget]
      split
      · cases st <;> simp_all [queueLeft]
      · rfl
    simp only [hq]
    cases tget s.sites j <;> rfl
  cases st with
  | queued y z =>
    refine ⟨rfl, rfl, rfl, fun k hk => tget_tmod_ne _ _ hk, fun j => ?_⟩
    show tget (tmod s.sites n _) j = _
    rw [tget_tmod]
    simp only [tget]
    split
    · rfl
    · cases tget s.sites j <;> rfl
  | granted ch y => exact hother (by simp)
  | busyOut => exact hother (by simp)

theorem placesLeft_all (c : Nat) (l : Table CallStatus) (hl : (tkeys l).Nodup) (s : State) :
    PlacesLeft c l s (l.foldl (dropQueued c) s) := by
  induction l generalizing s with
  | nil => exact ⟨rfl, rfl, rfl, fun _ _ => rfl, fun j => by cases h : tget s.sites j <;> simp [h, tget, queueLeft]⟩
  | cons p l ih =>
    obtain ⟨hfresh, hl⟩ := List.nodup_cons.1 hl
    have h1 := placesLeft_one c s p
    have h2 := ih hl (dropQueued c s p)
    rw [List.foldl_cons]
    refine ⟨h2.outbound.trans h1.outbound, h2.radios.trans h1.radios, h2.partTime.trans h1.partTime,
      fun k hk => (h2.others k hk).trans (h1.others k hk), fun j => ?_⟩
    rw [h2.sites, h1.sites, Option.map_map]
    congr 1
    funext z
    obtain ⟨n, st⟩ := p
    by_cases hj : j = n
    · subst hj
      have hnone : tget l j = none := tget_none_of_not_mem hfresh
      simp [tget, hnone, queueLeft]
    · simp [tget, hj, queueLeft]

/-! ### The channels (R140, R144, step 2) -/

/-- The queue of site j after a channel of the call there, of status st, has been handed on. -/
def queueHanded (s : State) (j : Nat) (st : Option CallStatus) (q : List Nat) : List Nat :=
  match st with
  | some (.granted _ _) =>
    match channelQueue s j with
    | k :: _ => q.erase k
    | [] => q
  | _ => q

/-- The status of call k at site j, its own before, after a channel of status st there has been handed on. -/
def statusHanded (s : State) (j k : Nat) (st own : Option CallStatus) : Option CallStatus :=
  match st with
  | some (.granted ch _) => if (channelQueue s j).head? = some k then some (.granted ch s.partTime) else own
  | _ => own

/-- What the hand-on of the channels in l leaves. -/
structure Handed (c : Nat) (l : Table CallStatus) (s t : State) : Prop where
  outbound : t.outbound = s.outbound ++ l.flatMap (endDirectives s c)
  sites : ∀ j z, tget s.sites j = some z → tget t.sites j = some { z with queue := queueHanded s j (tget l j) z.queue }
  statuses : ∀ k y j, k ≠ c → tget s.calls k = some y → callStatus t k j = statusHanded s j k (tget l j) (tget y.map j)

theorem channelQueue_congr {s t : State} {n : Nat} (hj : joinedQueue t n = joinedQueue s n)
    (hp : ∀ k, callPriority t k = callPriority s k) : channelQueue t n = channelQueue s n := by
  have h : ∀ p q, ofPriority t q p = ofPriority s q p := fun p q => by
    unfold ofPriority
    simp only [hp]
  simp only [channelQueue, hj, h]

theorem CallFrame.priority {s t : State} (h : CallFrame s t) (k : Nat) : callPriority t k = callPriority s k := by
  have := h.calls k
  unfold callPriority
  cases h1 : tget t.calls k <;> cases h2 : tget s.calls k <;> rw [h1, h2] at this
  case none.some => cases this
  case some.none => cases this
  case some.some => simpa using congrArg (Option.map Call.priority) this

/-- The state before a freed channel is handed on: CALL-DROP has gone out, and the call has no status at the site. -/
def channelFreed (s : State) (c n ch : Nat) : State :=
  clearStatus (if hasRoom s 1 && siteWorks s n then pushOut s (.callDrop n c ch) else s) c n

theorem dropGranted_granted (s : State) (c n ch y : Nat) :
    dropGranted c s (n, .granted ch y) = handOn (channelFreed s c n ch) n ch := rfl

theorem callFrame_channelFreed (s : State) (c n ch : Nat) : CallFrame s (channelFreed s c n ch) := by
  refine CallFrame.trans ?_ (callFrame_clearStatus _ c n)
  split
  · exact callFrame_pushOut s _
  · exact .refl s

section
variable {s : State} {c n ch : Nat}

theorem channelFreed_outbound (hroom : hasRoom s 1 = true) :
    (channelFreed s c n ch).outbound = s.outbound ++ if siteWorks s n then [.callDrop n c ch] else [] := by
  show (if hasRoom s 1 && siteWorks s n then pushOut s (.callDrop n c ch) else s).outbound = _
  rw [hroom, Bool.true_and]
  split
  · rfl
  · rw [List.append_nil]

theorem channelFreed_sites : (channelFreed s c n ch).sites = s.sites := by
  show (if hasRoom s 1 && siteWorks s n then pushOut s (.callDrop n c ch) else s).sites = _
  split <;> rfl

theorem channelFreed_others {k : Nat} (hk : k ≠ c) : tget (channelFreed s c n ch).calls k = tget s.calls k := by
  refine (tget_tmod_ne _ _ hk).trans ?_
  split <;> rfl

theorem channelFreed_queue (j : Nat) : channelQueue (channelFreed s c n ch) j = channelQueue s j :=
  channelQueue_congr (by rw [joinedQueue, channelFreed_sites]; rfl) (callFrame_channelFreed s c n ch).priority

/-- One freed channel, with room for its two directives, goes to the head of the queue (R140). -/
theorem handed_one {y : Nat} (hroom : s.outbound.length + 2 * movingCount s + 2 ≤ 512)
    (hq : ∀ z, tget s.sites n = some z → c ∉ z.queue) :
    Handed c [(n, .granted ch y)] s (dropGranted c s (n, .granted ch y)) := by
  have hroom1 : hasRoom s 1 = true := (hasRoom_iff s 1).2 (by omega)
  have hframe := callFrame_channelFreed s c n ch
  rw [dropGranted_granted, handOn, channelFreed_queue]
  cases hhead : channelQueue s n with
  | nil =>
    refine ⟨?_, fun j z hz => ?_, fun k y' j hk hy => ?_⟩
    · simp only [handOnTo, channelFreed_outbound hroom1, List.flatMap_cons, List.flatMap_nil, endDirectives, hhead, List.append_nil]
    · simp only [handOnTo, channelFreed_sites, hz, tget]
      split
      · rename_i hj
        subst hj
        simp only [queueHanded, hhead]
      · rfl
    · simp only [handOnTo, callStatus, channelFreed_others hk, hy, tget]
      split
      · rename_i hj
        subst hj
        simp [statusHanded, hhead]
      · rfl
  | cons k₁ queue =>
    have hmem : k₁ ∈ joinedQueue s n := (mem_channelQueue s n k₁).1 (hhead ▸ .head _)
    have hk₁ : k₁ ≠ c := by
      rintro rfl
      cases hz : tget s.sites n with
      | none => simp [joinedQueue, hz] at hmem
      | some z =>
        rw [joinedQueue_of_tget hz] at hmem
        exact hq z hz hmem
    have hlen : (leaveQueue (channelFreed s c n ch) n k₁).outbound.length ≤ s.outbound.length + 1 := by
      show (channelFreed s c n ch).outbound.length ≤ _
      rw [channelFreed_outbound hroom1, List.length_append]
      split <;> simp
    have hmoving : movingCount (leaveQueue (channelFreed s c n ch) n k₁) = movingCount s := by
      show movingCount (channelFreed s c n ch) = _
      rw [movingCount, hframe.radios]
      rfl
    have hroom2 : hasRoom (leaveQueue (channelFreed s c n ch) n k₁) 1 = true := by
      rw [hasRoom_iff, hmoving]
      omega
    have htime : (channelFreed s c n ch).partTime = s.partTime := congrArg Outer.partTime hframe.outer
    have hstep : handOnTo (channelFreed s c n ch) n ch (k₁ :: queue) =
        grantChannel (leaveQueue (channelFreed s c n ch) n k₁) k₁ n ch := by
      simp only [handOnTo, hroom2, if_true]
    have hgroup : (match tget (channelFreed s c n ch).calls k₁ with
        | some x => x.group
        | none => 0) = ((tget s.calls k₁).map Call.group).getD 0 := by
      rw [channelFreed_others hk₁]
      cases tget s.calls k₁ <;> rfl
    rw [hstep]
    refine ⟨?_, fun j z hz => ?_, fun k y' j hk hy => ?_⟩
    · have hpush : (grantChannel (leaveQueue (channelFreed s c n ch) n k₁) k₁ n ch).outbound =
          (channelFreed s c n ch).outbound ++ [.callGrant n k₁ (match tget (channelFreed s c n ch).calls k₁ with
            | some x => x.group
            | none => 0) ch] := rfl
      rw [hpush, hgroup, channelFreed_outbound hroom1]
      simp only [List.flatMap_cons, List.flatMap_nil, endDirectives, hhead, List.append_nil, List.append_assoc]
    · show tget (tmod (channelFreed s c n ch).sites n _) j = _
      rw [channelFreed_sites, tget_tmod, hz]
      simp only [tget]
      split
      · rename_i hj
        subst hj
        simp only [Option.map_some, queueHanded, hhead]
      · rfl
    · have hstatus : callStatus (grantChannel (leaveQueue (channelFreed s c n ch) n k₁) k₁ n ch) k j =
          if k = k₁ ∧ j = n then some (.granted ch s.partTime) else tget y'.map j := by
        have hcalls : tget (grantChannel (leaveQueue (channelFreed s c n ch) n k₁) k₁ n ch).calls k =
            if k = k₁ then some { y' with map := tput y'.map n (.granted ch (channelFreed s c n ch).partTime) } else some y' := by
          show tget (tmod (channelFreed s c n ch).calls k₁ _) k = _
          rw [tget_tmod, channelFreed_others hk, hy]
          rfl
        unfold callStatus
        rw [hcalls, htime]
        by_cases h1 : k = k₁
        · by_cases h2 : j = n
          · subst h2
            simp [h1]
          · simp [h1, h2, tget_tput_ne _ _ h2]
        · simp [h1]
      rw [hstatus]
      simp only [tget]
      by_cases hj : j = n
      · subst hj
        simp only [statusHanded, hhead, List.head?_cons, Option.some.injEq, and_true, if_true, eq_comm]
      · simp [hj, statusHanded]

/-- A place that is no channel hands nothing on. -/
theorem handed_none {st : CallStatus} (h : ∀ ch y, st ≠ .granted ch y) :
    Handed c [(n, st)] s (dropGranted c s (n, st)) := by
  have hq : ∀ j q, queueHanded s j (tget [(n, st)] j) q = q := fun j q => by
    simp only [tget]
    split
    · cases st <;> simp_all [queueHanded]
    · rfl
  have hst : ∀ j k own, statusHanded s j k (tget [(n, st)] j) own = own := fun j k own => by
    simp only [tget]
    split
    · cases st <;> simp_all [statusHanded]
    · rfl
  rw [dropGranted_of_other h]
  refine ⟨?_, fun j z hz => ?_, fun k y j hk hy => ?_⟩
  · cases st <;> simp_all [endDirectives]
  · rw [hq, hz]
  · rw [hst, callStatus_of_tget hy]

/-- The site of another place is as it was. -/
theorem Handed.site_elsewhere {p : Nat × CallStatus} {t : State} (h : Handed c [p] s t) (hf : CallFrame s t) {j : Nat}
    (hj : j ≠ p.1) : tget t.sites j = tget s.sites j := by
  have hsame := hf.sites j
  cases hz : tget s.sites j with
  | none =>
    rw [hz] at hsame
    exact Option.map_eq_none_iff.1 hsame
  | some z =>
    rw [h.sites j z hz]
    obtain ⟨m, st⟩ := p
    simp only [tget, if_neg hj, queueHanded]

theorem endDirectives_length (s : State) (c : Nat) (p : Nat × CallStatus) : (endDirectives s c p).length ≤ 2 := by
  unfold endDirectives
  split
  · rw [List.length_append]
    refine Nat.add_le_add (b := 1) (d := 1) ?_ ?_ <;> split <;> simp
  · exact Nat.zero_le _

/-- The channels of a call that leave one after the other, with room for all their directives. -/
theorem handed_all (c : Nat) (l : Table CallStatus) (hl : (tkeys l).Nodup) {s : State}
    (hroom : s.outbound.length + 2 * movingCount s + 2 * l.length ≤ 512)
    (hq : ∀ n ch since z, (n, CallStatus.granted ch since) ∈ l → tget s.sites n = some z → c ∉ z.queue) :
    Handed c l s (l.foldl (dropGranted c) s) := by
  induction l generalizing s with
  | nil =>
    refine ⟨(List.append_nil _).symm, fun j z hz => hz, fun k y j hk hy => callStatus_of_tget hy j⟩
  | cons p l ih =>
    obtain ⟨hfresh, hl⟩ := List.nodup_cons.1 hl
    rw [List.length_cons] at hroom
    have h1 : Handed c [p] s (dropGranted c s p) := by
      obtain ⟨n, st⟩ := p
      cases st with
      | granted ch y => exact handed_one (by omega) fun z hz => hq n ch y z (.head _) hz
      | queued y h => exact handed_none (by simp)
      | busyOut => exact handed_none (by simp)
    have hframe := callFrame_dropGranted c s p
    have hmoving : movingCount (dropGranted c s p) = movingCount s := movingCount_of_radios hframe.radios
    have hlen := endDirectives_length s c p
    have h1out : (dropGranted c s p).outbound = s.outbound ++ endDirectives s c p := by
      rw [h1.outbound, List.flatMap_cons, List.flatMap_nil, List.append_nil]
    have hne : ∀ {j st}, (j, st) ∈ l → j ≠ p.1 := fun {j st} hj e => hfresh (e ▸ List.mem_map_of_mem hj)
    have h2 := ih (s := dropGranted c s p) hl
      (by rw [hmoving, h1out, List.length_append]; omega)
      fun n ch since z hp hz => hq n ch since z (.tail _ hp) (by rw [← h1.site_elsewhere hframe (hne hp)]; exact hz)
    have hqueue : ∀ j, j ≠ p.1 → channelQueue (dropGranted c s p) j = channelQueue s j := fun j hj =>
      channelQueue_congr (by simp only [joinedQueue, h1.site_elsewhere hframe hj]) hframe.priority
    have hgroups : ∀ k, (tget (dropGranted c s p).calls k).map Call.group = (tget s.calls k).map Call.group := hframe.callGroups
    have hkeys : ∀ j st, tget l j = some st → j ≠ p.1 := fun j st h => hne (mem_of_tget h)
    rw [List.foldl_cons]
    refine ⟨?_, fun j z hz => ?_, fun k y j hk hy => ?_⟩
    · rw [h2.outbound, h1out, List.flatMap_cons, List.append_assoc]
      congr 2
      refine List.flatMap_congr fun q hq' => ?_
      simp only [endDirectives, hqueue q.1 (hne hq'), hframe.works, hgroups]
    · have h2s := h2.sites j _ (h1.sites j z hz)
      rw [h2s]
      obtain ⟨n, st⟩ := p
      by_cases hj : j = n
      · subst hj
        simp only [tget_none_of_not_mem hfresh, tget, if_true, queueHanded]
      · simp only [tget, if_neg hj, queueHanded, hqueue j hj]
    · have h1s := h1.statuses k y j hk hy
      obtain ⟨y1, hy1, -⟩ := hframe.has_call hy
      rw [h2.statuses k y1 j hk hy1, ← callStatus_of_tget hy1, h1s]
      obtain ⟨n, st⟩ := p
      have htime : (dropGranted c s (n, st)).partTime = s.partTime := congrArg Outer.partTime hframe.outer
      by_cases hj : j = n
      · subst hj
        simp only [tget_none_of_not_mem hfresh, tget, if_true, statusHanded]
      · simp only [tget, if_neg hj, statusHanded, hqueue j hj, htime]

end

/-- The directives, queues and statuses that the end of call c with map m leaves, while the outbound queue has room. -/
structure PlacesEnded (c : Nat) (m : Table CallStatus) (s t : State) : Prop where
  outbound : t.outbound = s.outbound ++ m.flatMap (endDirectives s c)
  sites : ∀ j z, tget s.sites j = some z → tget t.sites j = some { z with
    queue := queueHanded s j (tget m j) (queueLeft c (tget m j) z.queue) }
  statuses : ∀ k y j, k ≠ c → tget s.calls k = some y → callStatus t k j = statusHanded s j k (tget m j) (tget y.map j)

theorem endCall_places {s : State} {c : Nat} {x : Call} (hx : tget s.calls c = some x) (hm : Ascending x.map)
    (hq : ∀ n ch since z, tget x.map n = some (.granted ch since) → tget s.sites n = some z → c ∉ z.queue)
    (hroom : s.outbound.length + 2 * movingCount s + 2 * x.map.length ≤ 512) : PlacesEnded c x.map s (endCall s c) := by
  have hl : (tkeys x.map).Nodup := hm.nodup
  have h1 := placesLeft_all c x.map hl s
  have hframe := callFrame_foldl _ (callFrame_dropQueued c) x.map s
  have hsame : ∀ j ch y, tget x.map j = some (.granted ch y) →
      tget (x.map.foldl (dropQueued c) s).sites j = tget s.sites j := by
    intro j ch y hj
    rw [h1.sites, hj]
    cases tget s.sites j <;> rfl
  have hqueue : ∀ j ch y, tget x.map j = some (.granted ch y) →
      channelQueue (x.map.foldl (dropQueued c) s) j = channelQueue s j := fun j ch y hj =>
    channelQueue_congr (by simp only [joinedQueue, hsame j ch y hj]) hframe.priority
  have h2 := handed_all c x.map hl (s := x.map.foldl (dropQueued c) s)
    (by rw [movingCount_of_radios h1.radios, h1.outbound]; exact hroom)
    fun n ch since z hp hz => hq n ch since z (tget_of_mem hm hp) (by rw [← hsame n ch since (tget_of_mem hm hp)]; exact hz)
  rw [endCall_eq hx]
  refine ⟨?_, fun j z hz => ?_, fun k y j hk hy => ?_⟩
  · refine h2.outbound.trans ?_
    rw [h1.outbound]
    congr 1
    refine List.flatMap_congr fun p hp => ?_
    obtain ⟨n, st⟩ := p
    cases st with
    | granted ch y =>
      have hgroups : ∀ k, (tget (x.map.foldl (dropQueued c) s).calls k).map Call.group = (tget s.calls k).map Call.group :=
        hframe.callGroups
      simp only [endDirectives, hqueue n ch y (tget_of_mem hm hp), hframe.works, hgroups]
    | queued y h => rfl
    | busyOut => rfl
  · have h3 := h2.sites j { z with queue := queueLeft c (tget x.map j) z.queue } (by rw [h1.sites, hz]; rfl)
    refine h3.trans ?_
    cases hst : tget x.map j with
    | none => rfl
    | some st =>
      cases st with
      | granted ch y => simp only [queueHanded, hqueue j ch y hst]
      | queued y h => rfl
      | busyOut => rfl
  · have h3 := h2.statuses k y j hk ((h1.others k hk).trans hy)
    have hdel : callStatus { modGroup (placesDropped s c x.map) x.group (fun g => { g with activeCall := none }) with
        calls := tdel (placesDropped s c x.map).calls c } k j = callStatus (placesDropped s c x.map) k j := by
      simp only [callStatus, tget_tdel_ne _ hk]
    refine hdel.trans (h3.trans ?_)
    cases hst : tget x.map j with
    | none => rfl
    | some st =>
      cases st with
      | granted ch y' => simp only [statusHanded, hqueue j ch y' hst, h1.partTime]
      | queued y h => rfl
      | busyOut => rfl

/-! ### The obligation -/

/-- The answers a state is left with. -/
def withAnswers (t : State) (answers : List Answer) : State := { t with answers := answers }

/-- The frames that wait and the requests that wait. -/
def withInput (s : State) (frames : List SiteMsg) (requests : List RequestEntry) : State :=
  { s with siteIn := frames, requests := requests }

/-- Each way to end a call ends it in the state that the frame or request has left, whose answer then stands. -/
theorem exec_endsCall {s : State} {c : Nat} {x : Call} {i : Instr} {u : State} (hx : tget s.calls c = some x) (h : endsCall s c x i u) :
    ∃ frames requests answers, exec i s = .next (withAnswers (endCall (withInput s frames requests) c) answers) ∧
      outer (withAnswers (endCall (withInput s frames requests) c) answers) = outer u := by
  rcases h with ⟨rfl, ⟨d, hst, hd⟩, hu⟩ | ⟨e, rest, rfl, hp, hwf, hr, hu⟩ | ⟨n, rest, rfl, hin, hadm, hwf, hst, ho, hhang, hu⟩ <;> rw [hu]
  · refine ⟨s.siteIn, s.requests, (endCall s c).answers, ?_, (steady_endCall s c).outer⟩
    show execHangExpiry c s = _
    simp only [execHangExpiry, hx, Option.map_some, hst, hd, if_true]
    rfl
  · have hserved : doForceEnd c { s with requests := rest } = (endCall { s with requests := rest } c, .done, .none) := by
      have hf : findCall { s with requests := rest } c = some x := (if_pos hwf).trans hx
      simp only [doForceEnd, hf]
    refine ⟨s.siteIn, rest, (finished e (endCall { s with requests := rest } c, .done, .none)).answers, ?_,
      outer_finished (steady_endCall { s with requests := rest } c).outer .done .none⟩
    rw [exec_forceEnd_ready hr hp, hserved]
    rfl
  · refine ⟨rest, s.requests, (endCall { s with siteIn := rest } c).answers, ?_, (steady_endCall { s with siteIn := rest } c).outer⟩
    have hf : findCall { s with siteIn := rest } c = some x := (if_pos hwf).trans hx
    have ha : admits { s with siteIn := rest } n = true := admits_of_admitted hadm
    have hacts : callEndActs x n = true := by simp [callEndActs, hst, ho]
    show execCallEnd s = _
    simp only [execCallEnd, hin, takeCallEnd, ha, hf, hacts, hhang, if_true]
    rfl

/-- Settles O41: the hang time starts, or the call leaves its queues, hands its channels on and is gone. -/
theorem callsHangAndEnd : Obligations.CallsHangAndEnd := by
  refine ⟨fun s c x hx ha => ⟨fun n rest hin hadm hwf hst ho hhang => ?_, fun i u h => ?_⟩, fun s c x i u hx ha hm h hq hroom => ?_⟩
  · have hf : findCall { s with siteIn := rest } c = some x := (if_pos hwf).trans hx
    have hadm' : admits { s with siteIn := rest } n = true := admits_of_admitted hadm
    have hacts : callEndActs x n = true := by simp [callEndActs, hst, ho]
    show execCallEnd s = _
    simp only [execCallEnd, hin, takeCallEnd, hadm', hf, hacts, if_true, if_neg hhang, modCall, tmod_of_some _ _ hx, tenths]
  · obtain ⟨frames, requests, answers, he, houter⟩ := exec_endsCall hx h
    obtain ⟨hend, -⟩ := endCall_leaves (s := withInput s frames requests) hx ha
    exact ⟨_, he, hend.gone, hend.others, hend.active, hend.radios, hend.tag, hend.notices, hend.engine, houter⟩
  · obtain ⟨frames, requests, answers, he, -⟩ := exec_endsCall hx h
    have hend := endCall_places (s := withInput s frames requests) hx hm hq hroom
    refine ⟨_, he, hend.outbound, fun j z hz => (hend.sites j z hz).trans ?_, fun k y j hk hy => (hend.statuses k y j hk hy).trans ?_⟩
    · cases hst : tget x.map j with
      | none => rfl
      | some st =>
        cases st with
        | granted ch y =>
          refine congrArg (fun q => some { z with queue := q }) ?_
          show (match channelQueue s j with
            | k :: _ => z.queue.erase k
            | [] => z.queue) = _
          cases channelQueue s j <;> rfl
        | queued y h => rfl
        | busyOut => rfl
    · cases hst : tget x.map j with
      | none => rfl
      | some st => cases st <;> rfl

end Sys2Proof.Machine

/-! CALL-REQUEST (R128 to R133): the call it creates, the call it joins, and the call it ends at a full Call Table. -/

namespace Sys2Proof.Machine

/-! ### The request and its answer -/

section
variable {s : State} {n g u : Nat} {x : Group} {rest : List SiteMsg}

/-- The frame that holds the place of a CALL-REQUEST's answer. -/
def callHolding (n : Nat) : SiteOut := .callAnswer n .notReady 0 0

theorem exec_callRequest (hin : s.siteIn = .callRequest n g u :: rest) (hroom : roomForOne s) (hadm : admitted s n)
    (hwf : wfGroup g = true) (hg : tget s.groups g = some x) {t : State} {code : CallCode} {c granted : Nat}
    (h : dealCallRequest (placed s rest (callHolding n)) n g u = (t, code, c, granted)) :
    exec .callRequest s = .next (setOut t s.outbound.length (.callAnswer n code c granted)) := by
  obtain ⟨hp, hn, z, hz, hw⟩ := id hadm
  obtain ⟨hn1, hn2⟩ := (wfSite_iff n).1 hn
  obtain ⟨hg1, hg2⟩ := (wfGroup_iff g).1 hwf
  have h1 : (placed s rest (callHolding n)).phase = .service := hp
  have h2 : siteConfigured (placed s rest (callHolding n)) n = true := siteConfigured_of_tget hn1 hn2 (by exact hz)
  have h3 : siteWorks (placed s rest (callHolding n)) n = true := works_of_admitted (s := s) hadm
  have h4 : groupConfigured (placed s rest (callHolding n)) g = true := groupConfigured_of_tget hg1 hg2 (by exact hg)
  have hact : takeCallRequest { s with siteIn := rest } n g u = setOut t s.outbound.length (.callAnswer n code c granted) := by
    have hpush : pushOut { s with siteIn := rest } (.callAnswer n .notReady 0 0) = placed s rest (callHolding n) := rfl
    unfold takeCallRequest withAnswer
    simp only [hpush, h1, h2, h3, h4, h, reduceCtorEq, Bool.true_eq_false, if_false]
  show execCallRequest s = _
  simp only [execCallRequest, hin, hasRoom_of_room hroom, if_true, hact]

theorem unitInEmergency_eq (s : State) (u : Nat) : unitInEmergency s u = ((tget s.radios u).bind Radio.emergency).isSome := by
  unfold unitInEmergency
  cases tget s.radios u <;> rfl

theorem requestPriority_eq (hg : tget s.groups g = some x) (u : Nat) : requestPriority s g u =
    if ((tget s.radios u).bind Radio.emergency).isSome then .emergency else x.priority := by
  unfold requestPriority
  rw [unitInEmergency_eq, hg]

theorem grantedCount_of_tget {c : Nat} {y : Call} (hy : tget s.calls c = some y) : grantedCount s c = grantsOf y.map := by
  simp only [grantedCount, hy]
  rfl

/-- A call but for its map, as the arbiter leaves it. -/
theorem CallFrame.call_of_map {s t : State} (h : CallFrame s t) {c : Nat} {y : Call} (hy : tget s.calls c = some y) :
    ∃ y', tget t.calls c = some y' ∧ y' = { y with map := y'.map } := by
  have := h.calls c
  rw [hy, Option.map_some] at this
  obtain ⟨y', hy', e⟩ := Option.map_eq_some_iff.1 this
  refine ⟨y', hy', ?_⟩
  have := congrArg (fun z : Call => { z with map := y'.map }) e
  exact this

/-! ### The creation of a call (R129, R131) -/

theorem told_foldl_arbitrate (s : State) (c : Nat) (l : List Nat) : Told s (l.foldl (fun s n => arbitrate s c n) s) :=
  told_foldl (fun s n => told_arbitrate s c n) l s

/-- What the creation of a call leaves. -/
structure Created (s t : State) (c origin g u : Nat) (y : Call) : Prop where
  call : tget t.calls c = some y
  entered : y = { newCall s origin g u with map := y.map }
  active : (tget t.groups g).map Group.activeCall = (tget s.groups g).map fun _ => some c
  others : ∀ k, k ≠ g → tget t.groups k = tget s.groups k
  outbound : ∃ more, t.outbound = s.outbound ++ more
  notices : Told s t
  radios : t.radios = s.radios
  tag : t.tagCounter = s.tagCounter
  engine : engine t = engine s
  outer : outer t = outer s

theorem createCall_leaves (s : State) (origin g u : Nat) :
    ∃ y, Created s (createCall s origin g u).1 (lowestFreeCall s) origin g u y := by
  let s1 : State := callEntered s (lowestFreeCall s) g (newCall s origin g u)
  have hframe := callFrame_foldl_arbitrate s1 (lowestFreeCall s) (carryWithOrigin s g origin)
  obtain ⟨y, hy, hye⟩ := hframe.call_of_map (c := lowestFreeCall s) (y := newCall s origin g u) (tget_tput_self ..)
  rw [createCall_fst]
  refine ⟨y, hy, hye, ?_, fun k hk => ?_, hframe.outbound, (Told.of_eq (s := s) (t := s1) rfl).trans (told_foldl_arbitrate _ _ _),
    hframe.radios, hframe.tag, hframe.engine, hframe.outer⟩
  · rw [hframe.groups]
    show (tget (tmod s.groups g _) g).map Group.activeCall = _
    rw [tget_tmod_self, Option.map_map]
    rfl
  · rw [hframe.groups]
    exact tget_tmod_ne _ _ hk

/-! ### Joining a call (R132) -/

/-- Arbitration gives the call a status at the site. -/
theorem arbitrate_status {c : Nat} {y : Call} (hy : tget s.calls c = some y) (n : Nat) : callStatus (arbitrate s c n) c n ≠ none := by
  have hset : ∀ (t : State) st, CallFrame s t → callStatus (setStatus t c n st) c n ≠ none := by
    intro t st hf
    obtain ⟨y', hy', -⟩ := hf.has_call hy
    have h := congrFun (statuses_setStatus_self hy' n st) c
    rw [Function.update_self] at h
    rw [show callStatus (setStatus t c n st) c n = some st from h]
    simp
  have hgrant : ∀ (t : State) ch, CallFrame s t → callStatus (grantChannel t c n ch) c n ≠ none := fun t ch hf => hset t _ hf
  have hqueue : callStatus (queueCall s c n) c n ≠ none := by
    unfold queueCall
    simp only []
    split
    · exact hset _ _ (callFrame_joinQueue s n c)
    · split
      · split
        · exact hset _ _ ((callFrame_leaveQueue s n _).trans ((callFrame_setStatus _ _ n _).trans (callFrame_joinQueue _ n c)))
        · exact hset s _ (.refl s)
      · exact hset s _ (.refl s)
  unfold arbitrate
  split
  · split
    · exact hgrant s _ (.refl s)
    · exact hset s _ (.refl s)
  · split
    · unfold preempt
      split
      · rename_i v _
        split
        · have h := hgrant _ v.channel ((callFrame_setStatus s v.call n .busyOut).trans
            (callFrame_pushOut _ (.callDrop n v.call v.channel)))
          unfold callStatus at h ⊢
          rw [raise_calls]
          exact h
        · exact hset s _ (.refl s)
      · exact hqueue
    · exact hqueue

theorem mem_filterMap_tput {α β : Type} (f : Nat × α → Option β) {t : Table α} {k : Nat} {v w : α} (hv : tget t k = some v)
    (hf : f (k, w) = f (k, v)) (b : β) : b ∈ (tput t k w).filterMap f ↔ b ∈ t.filterMap f := by
  induction t with
  | nil => cases hv
  | cons p t ih =>
    obtain ⟨j, z⟩ := p
    unfold tput
    split
    · rw [List.mem_filterMap, List.mem_filterMap]
      constructor
      · rintro ⟨q, hq, hb⟩
        rcases List.mem_cons.1 hq with rfl | hq
        · exact ⟨(k, v), mem_of_tget hv, hf.symm.trans hb⟩
        · exact ⟨q, hq, hb⟩
      · rintro ⟨q, hq, hb⟩
        exact ⟨q, .tail _ hq, hb⟩
    · split
      · rename_i hjk
        subst hjk
        simp only [tget, if_true, Option.some.injEq] at hv
        subst hv
        simp only [List.filterMap_cons, hf]
      · rename_i hjk
        have hv' : tget t k = some v := by
          rw [tget, if_neg hjk] at hv
          exact hv
        have h := ih hv'
        simp only [List.mem_filterMap, List.mem_cons, exists_eq_or_imp] at h ⊢
        rw [h]

/-- The call that a request of unit u from site n joins (R132). -/
def joined (s : State) (y : Call) (n u : Nat) : Call := { y with
  talker := u, origin := n, state := .active
  priority := if ((tget s.radios u).bind Radio.emergency).isSome then .emergency else y.priority }

theorem dealCallRequest_joins (hg : tget s.groups g = some x) {c : Nat} (hc : x.activeCall = some c) {y : Call}
    (hy : tget s.calls c = some y) (n u : Nat) :
    dealCallRequest s n g u = (lateEntry { s with calls := tput s.calls c (joined s y n u) } c n, .accepted, c,
      grantedCount (lateEntry { s with calls := tput s.calls c (joined s y n u) } c n) c) := by
  have hjoin : joinCall s c n u = lateEntry { s with calls := tput s.calls c (joined s y n u) } c n := by
    simp only [joinCall, modCall, tmod_of_some _ _ hy, unitInEmergency_eq]
    rfl
  simp only [dealCallRequest, hg, Option.bind_some, hc, hjoin]

theorem dealCallRequest_creates (hg : tget s.groups g = some x) (hc : x.activeCall = none) (hl : s.calls.length < 32) (n u : Nat) :
    dealCallRequest s n g u = ((createCall s n g u).1, .accepted, (createCall s n g u).2,
      grantedCount (createCall s n g u).1 (createCall s n g u).2) := by
  simp only [dealCallRequest, hg, Option.bind_some, hc, Config.maxCalls, hl, if_true]

theorem channelsHeld_joined {c : Nat} {y : Call} (hy : tget s.calls c = some y) (n u j ch : Nat) :
    ch ∈ channelsHeld { s with calls := tput s.calls c (joined s y n u) } j ↔ ch ∈ channelsHeld s j :=
  mem_filterMap_tput (w := joined s y n u) (fun p : Nat × Call => heldChannel (tget p.2.map j)) hy rfl ch

/-- The call joined at a site where it has no status: it is arbitrated there, and nowhere else. -/
theorem arbitrate_joined {c : Nat} {y : Call} (hy : tget s.calls c = some y) (n : Nat) :
    ∃ y', tget (arbitrate s c n).calls c = some y' ∧ y' = { y with map := y'.map } ∧ tget y'.map n ≠ none ∧
      ∀ j, j ≠ n → tget y'.map j = tget y.map j := by
  obtain ⟨y', hy', e⟩ := (callFrame_arbitrate s c n).call_of_map hy
  refine ⟨y', hy', e, ?_, fun j hj => ?_⟩
  · rw [← callStatus_of_tget hy']
    exact arbitrate_status hy n
  · have h := congrFun ((onlyAt_arbitrate s c n).statuses j hj) c
    exact (statuses_of_call hy' j).symm.trans (h.trans (statuses_of_call hy j))

/-! ### Table exhaustion (R133) -/

theorem endables_of_none (h : ∀ p ∈ s.calls, p.2.priority = .emergency) : endables s = [] := by
  refine List.filterMap_eq_nil_iff.2 fun p hp => ?_
  rw [if_pos (h p hp)]

/-- The call of R133 is the one that table exhaustion finds. -/
theorem bestOf_endables (ha : Ascending s.calls) {e : Nat} {y : Call} (h : endedForRoom s e y) :
    bestOf endedBefore (endables s) = some { call := e, priority := y.priority, created := y.created } := by
  obtain ⟨he, hp, hbest⟩ := h
  refine bestOf_of_best ?_ fun w hw => ?_
  · refine List.mem_filterMap.2 ⟨(e, y), mem_of_tget he, ?_⟩
    rw [if_neg hp]
  · obtain ⟨k, p, since⟩ := w
    obtain ⟨y', hy', hp', rfl, rfl⟩ := mem_endables ha hw
    by_cases hk : k = e
    · left
      subst hk
      rw [he] at hy'
      cases hy'
      rfl
    · right
      have hlt := hbest k y' hk hy' hp'
      simp only [endedBefore]
      rcases hlt with hlt | ⟨heq, hlt⟩
      · have hne : y'.priority ≠ y.priority := fun e => by rw [e] at hlt; exact absurd hlt (Nat.lt_irrefl _)
        have hge : ¬priorityRank y'.priority < priorityRank y.priority := by omega
        simp [hlt, hge, hne]
      · rw [heq]
        rcases hlt with hlt | ⟨hcreated, hlt⟩
        · have hne : y'.created ≠ y.created := by omega
          have hge : ¬y'.created < y.created := by omega
          simp [hlt, hne, hge]
        · have hge : ¬k < e := by omega
          simp [hcreated, hlt, hge]

theorem lowestFreeCall_congr {s t : State} (h : t.calls = s.calls) : lowestFreeCall t = lowestFreeCall s := by
  simp only [lowestFreeCall, h]

/-- A full Call Table holds every identifier. -/
theorem full_table (ht : CallTable s) (hl : 32 ≤ s.calls.length) {k : Nat} (h1 : 1 ≤ k) (h2 : k ≤ 32) : tget s.calls k ≠ none := by
  have hsub : tkeys s.calls ⊆ (List.range 32).map (· + 1) := by
    intro c hc
    obtain ⟨y, hy⟩ := (mem_tkeys_iff ht.calls c).1 hc
    obtain ⟨hc1, hc2⟩ := ht.ident hy
    exact List.mem_map.2 ⟨c - 1, List.mem_range.2 (by omega), by omega⟩
  have hperm := (List.subperm_of_subset ht.calls.nodup hsub).perm_of_length_le (by simpa [tkeys] using hl)
  have hmem : k ∈ tkeys s.calls := hperm.mem_iff.2 (List.mem_map.2 ⟨k - 1, List.mem_range.2 (by omega), by omega⟩)
  obtain ⟨y, hy⟩ := (mem_tkeys_iff ht.calls k).1 hmem
  rw [hy]
  simp

/-- In a full table, the identifier of the call that ended is the one that is free. -/
theorem lowestFreeCall_ended (ht : CallTable s) (hl : 32 ≤ s.calls.length) {e : Nat} {y : Call} (he : tget s.calls e = some y)
    {t : State} (hend : CallEnded s t e y) : lowestFreeCall t = e := by
  obtain ⟨h1, h2⟩ := ht.ident he
  obtain ⟨l1, l2, hnone, -⟩ := lowestFreeCall_spec ⟨e, h1, h2, hend.gone⟩
  by_contra hne
  have hsame := hend.others _ hne
  rw [hnone] at hsame
  exact full_table ht hl l1 l2 (Option.map_eq_none_iff.1 hsame.symm)

theorem dealCallRequest_refused (hg : tget s.groups g = some x) (hc : x.activeCall = none) (hl : 32 ≤ s.calls.length) (n : Nat)
    {u : Nat} (h : requestPriority s g u ≠ .emergency ∨ ∀ p ∈ s.calls, p.2.priority = .emergency) :
    dealCallRequest s n g u = (s, .refusedFull, 0, 0) := by
  have hfull : ¬s.calls.length < 32 := by omega
  simp only [dealCallRequest, hg, Option.bind_some, hc, Config.maxCalls, hfull, if_false]
  rcases h with h | h
  · rw [if_neg h]
  · rw [endables_of_none h]
    split <;> rfl

/-- The state in which the call e has ended for want of room, with its notice. -/
def endedFor (s : State) (e : Nat) (y : Call) : State := raise (endCall s e) (.callPreempted e y.group 0 (lowestFreeCall (endCall s e)))

theorem dealCallRequest_preempts (ha : Ascending s.calls) (hg : tget s.groups g = some x) (hc : x.activeCall = none)
    (hl : 32 ≤ s.calls.length) {u : Nat} (hp : requestPriority s g u = .emergency) {e : Nat} {y : Call} (he : endedForRoom s e y) (n : Nat) :
    dealCallRequest s n g u = ((createCall (endedFor s e y) n g u).1, .accepted, (createCall (endedFor s e y) n g u).2,
      grantedCount (createCall (endedFor s e y) n g u).1 (createCall (endedFor s e y) n g u).2) := by
  have hfull : ¬s.calls.length < 32 := by omega
  obtain ⟨hy, -, -⟩ := id he
  simp only [dealCallRequest, hg, Option.bind_some, hc, Config.maxCalls, hfull, if_false, hp, if_true, bestOf_endables ha he, hy]
  rfl

/-! ### The obligation -/

/-- A CALL-REQUEST that is refused leaves its answer alone. -/
theorem exec_callRequest_refused (hin : s.siteIn = .callRequest n g u :: rest) (hroom : roomForOne s) (hadm : admitted s n)
    (hwf : wfGroup g = true) (hg : tget s.groups g = some x) (hc : x.activeCall = none) (hl : 32 ≤ s.calls.length)
    (h : requestPriority s g u ≠ .emergency ∨ ∀ p ∈ s.calls, p.2.priority = .emergency) :
    exec .callRequest s = .next { s with
      siteIn := rest, outbound := s.outbound ++ [.callAnswer n .refusedFull 0 0] } := by
  rw [exec_callRequest hin hroom hadm hwf hg
    (dealCallRequest_refused (s := placed s rest (callHolding n)) hg hc hl n h)]
  exact congrArg _ (setOut_of_outbound (t := placed s rest (callHolding n)) rfl)

/-- A CALL-REQUEST that creates a call, in the state s1 that is left for it. -/
theorem exec_callRequest_creates (hin : s.siteIn = .callRequest n g u :: rest) (hroom : roomForOne s) (hadm : admitted s n)
    (hwf : wfGroup g = true) (hg : tget s.groups g = some x) {s1 : State} {more : List SiteOut}
    (hout : s1.outbound = s.outbound ++ callHolding n :: more)
    (hdeal : dealCallRequest (placed s rest (callHolding n)) n g u = ((createCall s1 n g u).1, .accepted, (createCall s1 n g u).2,
      grantedCount (createCall s1 n g u).1 (createCall s1 n g u).2)) :
    ∃ t t1 y more', exec .callRequest s = .next t ∧ Created s1 t1 (lowestFreeCall s1) n g u y ∧
      t = { t1 with outbound := s.outbound ++ .callAnswer n .accepted (lowestFreeCall s1) (grantsOf y.map) :: more' } := by
  obtain ⟨y, hcreated⟩ := createCall_leaves s1 n g u
  obtain ⟨more', hmore⟩ := hcreated.outbound
  refine ⟨_, _, y, more ++ more', exec_callRequest hin hroom hadm hwf hg hdeal, hcreated, ?_⟩
  rw [show (createCall s1 n g u).2 = lowestFreeCall s1 from rfl, grantedCount_of_tget hcreated.call]
  exact setOut_of_outbound (by rw [hmore, hout, List.append_assoc]; rfl)

end

/-- The state in which the call c has been joined, and the answer's place taken. -/
def joining (s : State) (rest : List SiteMsg) (c : Nat) (y : Call) (n u : Nat) : State :=
  { placed s rest (callHolding n) with calls := tput s.calls c (joined s y n u) }

theorem joining_call (s : State) (rest : List SiteMsg) (c : Nat) (y : Call) (n u : Nat) :
    tget (joining s rest c y n u).calls c = some (joined s y n u) := tget_tput_self ..

theorem exec_callRequest_joins {s : State} {n g u c : Nat} {x : Group} {y : Call} {rest : List SiteMsg}
    (hin : s.siteIn = .callRequest n g u :: rest) (hroom : roomForOne s) (hadm : admitted s n)
    (hwf : wfGroup g = true) (hg : tget s.groups g = some x) (hc : x.activeCall = some c) (hy : tget s.calls c = some y) :
    exec .callRequest s = .next (setOut (lateEntry (joining s rest c y n u) c n) s.outbound.length
      (.callAnswer n .accepted c (grantedCount (lateEntry (joining s rest c y n u) c n) c))) :=
  exec_callRequest hin hroom hadm hwf hg (dealCallRequest_joins (s := placed s rest (callHolding n)) hg hc hy n u)

/-- Settles O40: the request creates a call, joins one, or ends one for its room. -/
theorem callRequestCreatesACall : Obligations.CallRequestCreatesACall := by
  refine ⟨fun s n g u x rest hin hroom hadm hwf hg hc hl => ?_, fun s n g u x rest hin hroom hadm hwf hg =>
    ⟨fun c y hc hy => ⟨fun hst => ?_, fun hst => ?_⟩, fun hc hl => ⟨fun h => ?_, fun e y hp ht he hnotices => ?_⟩⟩⟩
  · obtain ⟨t, t1, y, more, hexec, hcreated, ht⟩ := exec_callRequest_creates (more := []) hin hroom hadm hwf hg rfl
      (dealCallRequest_creates (s := placed s rest (callHolding n)) hg hc hl n u)
    obtain ⟨h1, h2, h3, h4⟩ := lowestFreeCall_spec (s := placed s rest (callHolding n)) (exists_free_call (s := s) hl)
    subst ht
    have hactive : (tget t1.groups g).map Group.activeCall = some (some (lowestFreeCall (placed s rest (callHolding n)))) := by
      rw [hcreated.active, show tget (placed s rest (callHolding n)).groups g = some x from hg]
      rfl
    exact ⟨_, _, y, more, hexec, h1, h2, h3, h4, hcreated.call, congrArg Call.group hcreated.entered,
      congrArg Call.state hcreated.entered, congrArg Call.origin hcreated.entered, congrArg Call.talker hcreated.entered,
      congrArg Call.created hcreated.entered, (congrArg Call.priority hcreated.entered).trans (requestPriority_eq (by exact hg) u),
      hactive, rfl, hcreated.radios, hcreated.tag, hcreated.engine, hcreated.outer⟩
  · have hstatus : callStatus (joining s rest c y n u) c n = tget y.map n := callStatus_of_tget (joining_call s rest c y n u) n
    have hentry : lateEntry (joining s rest c y n u) c n = joining s rest c y n u := by
      rw [lateEntry, hstatus, Option.isNone_eq_false_iff.2 (Option.isSome_iff_ne_none.2 hst), Bool.and_false,
        if_neg (by decide)]
    have hout : (joining s rest c y n u).outbound = s.outbound ++ callHolding n :: [] := rfl
    rw [exec_callRequest_joins hin hroom hadm hwf hg hc hy, hentry, grantedCount_of_tget (joining_call s rest c y n u)]
    exact congrArg _ (setOut_of_outbound hout)
  · have hcall := joining_call s rest c y n u
    have hstatus : callStatus (joining s rest c y n u) c n = none := (callStatus_of_tget hcall n).trans hst
    have hworks : siteWorks (joining s rest c y n u) n = true := works_of_admitted (s := s) hadm
    have hentry : lateEntry (joining s rest c y n u) c n = arbitrate (joining s rest c y n u) c n := by
      rw [lateEntry, hstatus, hworks]
      rfl
    obtain ⟨y', hy', hye, hyn, hyj⟩ := arbitrate_joined hcall n
    have hframe := callFrame_arbitrate (joining s rest c y n u) c n
    obtain ⟨more, hmore⟩ := hframe.outbound
    have hexec := exec_callRequest_joins hin hroom hadm hwf hg hc hy
    rw [hentry, grantedCount_of_tget hy', setOut_of_outbound (s := s) (f := callHolding n) (more := more)
      (by rw [hmore]; simp [joining, placed])] at hexec
    refine ⟨_, y', more, hexec, hy', hye, hyn, hyj, rfl, hframe.radios, hframe.groups, hframe.tag, hframe.engine, hframe.outer,
      fun ch z hz h1 h2 hfree hlow hr => ?_⟩
    have hheld : ∀ k, k ∈ channelsHeld (joining s rest c y n u) n ↔ k ∈ channelsHeld s n := channelsHeld_joined hy n u n
    have hroom1 : hasRoom (joining s rest c y n u) 1 = true := by
      rw [hasRoom_iff]
      show (s.outbound ++ [_]).length + 2 * movingCount s + 1 ≤ 512
      simp only [List.length_append, List.length_singleton]
      omega
    have hgrant : arbitrate (joining s rest c y n u) c n = grantChannel (joining s rest c y n u) c n ch := by
      rw [arbitrate_of_free (freeChannel_of_lowest (s := joining s rest c y n u) hz h1 h2 (by rw [hheld]; exact hfree)
        fun k hk1 hk2 => (hheld k).2 (hlow k hk1 hk2)), hroom1, if_pos rfl]
    rw [hgrant, grantChannel_of_tget hcall] at hy' hmore
    refine ⟨?_, List.append_cancel_left hmore.symm⟩
    have := (tget_tput_self ..).symm.trans hy'
    rw [← Option.some.inj this]
    rfl
  · refine exec_callRequest_refused hin hroom hadm hwf hg hc hl (h.imp_left fun h => ?_)
    rw [requestPriority_eq hg]
    exact h
  · obtain ⟨hct, -⟩ := (callTableOk_iff s).1 ht
    obtain ⟨hy, -, -⟩ := id he
    let s0 : State := placed s rest (callHolding n)
    have hct0 : CallTable s0 := ⟨hct.calls, hct.groups, hct.ident, hct.active, hct.call⟩
    obtain ⟨hend, hendout⟩ := endCall_leaves (s := s0) hy hct.calls
    have hfree : lowestFreeCall (endCall s0 e) = e := lowestFreeCall_ended hct0 hl hy hend
    have hfree1 : lowestFreeCall (endedFor s0 e y) = e := (lowestFreeCall_congr (raise_calls _ _)).trans hfree
    have hprio : requestPriority s0 g u = .emergency := (requestPriority_eq (s := s0) hg u).trans hp
    have hne : y.group ≠ g := by
      intro hyg
      obtain ⟨x', hx', hactive⟩ := hct.active hy
      rw [hyg, hg] at hx'
      cases hx'
      rw [hc] at hactive
      cases hactive
    obtain ⟨xe, hxe, -⟩ := hct.active hy
    obtain ⟨t0, hframe, -, hform⟩ := endCall_of_some (s := s0) hy
    obtain ⟨more, hmore⟩ := hframe.outbound
    have hout : (endedFor s0 e y).outbound = s.outbound ++ callHolding n :: more := by
      rw [endedFor, raise_outbound, hform]
      exact hmore.trans (List.append_assoc ..)
    have hnotice : (endedFor s0 e y).notices = s.notices ++ [{ time := s.partTime, body := .callPreempted e y.group 0 e }] := by
      have hn0 : (endCall s0 e).notices = s.notices := hend.notices
      have ht0 : (endCall s0 e).partTime = s.partTime := congrArg Outer.partTime hendout
      rw [endedFor, raise_of_room (by rw [hn0]; exact hnotices), hfree]
      simp only [hn0, ht0]
    obtain ⟨t, t1, z, more', hexec, hcreated, ht⟩ := exec_callRequest_creates hin hroom hadm hwf hg hout
      (dealCallRequest_preempts (s := s0) hct.calls hg hc hl hprio he n)
    rw [hfree1] at hcreated ht
    subst ht
    have hgroup : ∃ x1, tget (endedFor s0 e y).groups g = some x1 ∧ x1.priority = x.priority := by
      have hv := (steady_endCall s0 e).groupValues g
      rw [show tget s0.groups g = some x from hg, Option.map_some] at hv
      obtain ⟨x1, hx1, hval⟩ := Option.map_eq_some_iff.1 hv
      exact ⟨x1, by rw [endedFor, raise_groups, hx1], congrArg Prod.fst hval⟩
    obtain ⟨x1, hx1, hpx⟩ := hgroup
    have hradios : (endedFor s0 e y).radios = s.radios := (raise_radios _ _).trans hend.radios
    have hentered : z.priority = .emergency := by
      refine (congrArg Call.priority hcreated.entered).trans ((requestPriority_eq hx1 u).trans ?_)
      rw [hradios, hpx]
      exact hp
    have htime : (endedFor s0 e y).partTime = s.partTime := (raise_partTime _ _).trans (congrArg Outer.partTime hendout)
    obtain ⟨told, htold⟩ := hcreated.notices
    refine ⟨_, z, more', told, hexec, hcreated.call, congrArg Call.group hcreated.entered, hentered,
      congrArg Call.state hcreated.entered, congrArg Call.origin hcreated.entered, congrArg Call.talker hcreated.entered,
      (congrArg Call.created hcreated.entered).trans htime, ?_, ?_, rfl, ?_, hcreated.radios.trans hradios,
      hcreated.tag.trans ((raise_tagCounter _ _).trans hend.tag), hcreated.engine.trans ((engine_raise _ _).trans hend.engine),
      hcreated.outer.trans ((outer_raise _ _).trans hendout)⟩
    · exact hcreated.active.trans (by rw [hx1]; rfl)
    · show (tget t1.groups y.group).map Group.activeCall = _
      rw [hcreated.others y.group hne, endedFor, raise_groups, hend.active, show tget s0.groups y.group = some xe from hxe]
      simp
    · show t1.notices = _
      rw [htold, hnotice, List.append_assoc]
      rfl

end Sys2Proof.Machine

/-! The Bulk Engine as the manual's words have it: how an operation starts, ends and hands the engine on (R166, R171), what a bulk
request meets (R166, R169, R170, R173 to R175), and the obligations on starts (O44) and on control (O46). -/

namespace Sys2Proof.Machine

/-! ### Starts and ends -/

theorem begun_eq (s : State) (op : BulkOp) : startBulk s op = begun s op := by
  cases op with
  | roster f start limit => rfl
  | recallGroup g =>
    show modGroup { s with bulk := some (freshRun _) } g _ = _
    cases h : tget s.groups g with
    | none => simp only [begun, modGroup, h, tmod_of_none _ _ h]; rfl
    | some x => simp only [begun, modGroup, h, tmod_of_some _ _ h]; rfl
  | cancelRecall g =>
    show modGroup { s with bulk := some (freshRun _) } g _ = _
    cases h : tget s.groups g with
    | none => simp only [begun, modGroup, h, tmod_of_none _ _ h]; rfl
    | some x => simp only [begun, modGroup, h, tmod_of_some _ _ h]; rfl
  | evacuate n =>
    show modSite { s with bulk := some (freshRun _) } n _ = _
    cases h : tget s.sites n with
    | none => simp only [begun, modSite, h, tmod_of_none _ _ h]; rfl
    | some x => simp only [begun, modSite, h, tmod_of_some _ _ h]; rfl
  | resync n => rfl
  | purge => rfl

theorem begunWaiting_eq (s : State) : startWaiting s = begunWaiting s := by
  unfold startWaiting begunWaiting
  cases s.bulkWaiting with
  | none => rfl
  | some op => exact begun_eq _ op

/-- After its completion work, where it has any, an operation ends with its account and BULK-DONE (R171). -/
theorem endBulk_ended {s t : State} {b : BulkRun} {completed : Bool} (hwork : (if completed then completionWork s b else s) = t)
    (hroom : t.notices.length < 64) :
    endBulk s b completed = begunWaiting (endedWith t b completed [] (rosterResult b completed)) := by
  rw [endBulk_eq, begunWaiting_eq, bulkEnded, hwork, raise_of_room hroom]
  refine congrArg begunWaiting ?_
  simp only [endedWith, List.map_nil, List.append_nil]
  rfl

theorem rosterResult_eq (b : BulkRun) (completed : Bool) : rosterResult b completed = rosterOf b (completed && b.more) := by
  unfold rosterResult rosterOf
  cases b.op <;> rfl

/-- An answer placed before the engine starts stands as one placed after it. -/
theorem begun_finished (e : RequestEntry) (s : State) (op : BulkOp) (code : Code) (c : Content) :
    finished e (begun s op, code, c) = begun (finished e (s, code, c)) op := by
  cases op with
  | roster f start limit => rfl
  | recallGroup g =>
    show finished e (begun s (.recallGroup g), code, c) = match tget s.groups g with | some x => _ | none => _
    cases h : tget s.groups g <;> simp only [begun, h] <;> rfl
  | cancelRecall g =>
    show finished e (begun s (.cancelRecall g), code, c) = match tget s.groups g with | some x => _ | none => _
    cases h : tget s.groups g <;> simp only [begun, h] <;> rfl
  | evacuate n =>
    show finished e (begun s (.evacuate n), code, c) = match tget s.sites n with | some x => _ | none => _
    cases h : tget s.sites n <;> simp only [begun, h] <;> rfl
  | resync n => rfl
  | purge => rfl

theorem begunWaiting_finished (e : RequestEntry) (s : State) (code : Code) (c : Content) :
    finished e (begunWaiting s, code, c) = begunWaiting (finished e (s, code, c)) := by
  have hwait : (finished e (s, code, c)).bulkWaiting = s.bulkWaiting := rfl
  unfold begunWaiting
  rw [hwait]
  cases s.bulkWaiting with
  | none => rfl
  | some op => exact begun_finished e _ op code c

/-! ### Requests and the parameters they name -/

theorem classOf_eq_some_iff (v : Nat) (c : RosterClass) : classOf v = some c ↔ (v, c) ∈ rosterClasses := by
  constructor
  · intro h
    unfold classOf at h
    split at h <;> cases h <;> simp [rosterClasses]
  · intro h
    simp only [rosterClasses, List.mem_cons, Prod.mk.injEq, List.not_mem_nil, or_false] at h
    rcases h with ⟨rfl, rfl⟩ | ⟨rfl, rfl⟩ | ⟨rfl, rfl⟩ | ⟨rfl, rfl⟩ | ⟨rfl, rfl⟩ | ⟨rfl, rfl⟩ | ⟨rfl, rfl⟩ | ⟨rfl, rfl⟩ |
      ⟨rfl, rfl⟩ <;> rfl

/-- The filters of a ROSTER are those its form and value name (R173). -/
theorem filterOf_eq_some_iff (s : State) (form value : Nat) (f : RosterFilter) :
    filterOf s form value = some f ↔ namesFilter s form value f := by
  unfold filterOf namesFilter
  split
  · rw [Option.ite_none_right_eq_some, siteConfigured_iff, Option.some_inj, eq_comm (b := f)]
    simp [and_comm]
  · rw [Option.ite_none_right_eq_some, groupConfigured_iff, Option.some_inj, eq_comm (b := f)]
    simp [and_comm]
  · simp only [Option.map_eq_some_iff, classOf_eq_some_iff, eq_comm (b := f)]
    simp [and_comm]
  · rename_i h1 h2 h3
    exact ⟨fun h => (nomatch h), fun h => (h.elim (fun h => h1 h.1) fun h => h.elim (fun h => h2 h.1) fun h => h3 h.1).elim⟩

theorem filterOf_eq_none {s : State} {form value : Nat} (h : ∀ f, ¬namesFilter s form value f) : filterOf s form value = none :=
  Option.eq_none_iff_forall_ne_some.2 fun f e => h f ((filterOf_eq_some_iff s form value f).1 e)

/-! ### What a bulk request meets (R166) -/

theorem admitBulk_idle {s : State} (hb : s.bulk = none) (op : BulkOp) (wait clamped : Bool) :
    admitBulk s op wait clamped = (begun s op, if clamped then .doneClamped else .done) := by
  simp only [admitBulk, hb, begun_eq]

theorem admitBulk_waits {s : State} (hb : s.bulk ≠ none) (hw : s.bulkWaiting = none) (op : BulkOp) (clamped : Bool) :
    admitBulk s op true clamped = ({ s with bulkWaiting := some op }, .doneWaiting) := by
  obtain ⟨b, hb⟩ := Option.ne_none_iff_exists'.1 hb
  simp [admitBulk, hb, hw]

theorem admitBulk_busy {s : State} {wait : Bool} (hb : s.bulk ≠ none) (hw : wait = false ∨ s.bulkWaiting ≠ none) (op : BulkOp)
    (clamped : Bool) : admitBulk s op wait clamped = (s, .busy) := by
  obtain ⟨b, hb⟩ := Option.ne_none_iff_exists'.1 hb
  have hno : (wait && s.bulkWaiting.isNone) = false := by
    rcases hw with rfl | hw
    · rfl
    · rw [Option.isNone_eq_false_iff.2 (Option.isSome_iff_ne_none.2 hw), Bool.and_false]
  simp [admitBulk, hb, hno]

/-- Whether a bulk request's answer says that its limit was clamped (R173). -/
def clampedBy : Request → Bool
  | .roster _ _ _ _ limit => decide (32 < limit)
  | _ => false

section
variable {s : State} {e : RequestEntry} {rest : List RequestEntry} {q : Request} {wait : Bool} {op : BulkOp}

/-- A bulk request whose parameters exist meets the engine (R166). -/
theorem exec_asks (hp : s.phase = .service) (hr : requestReady s e rest q) (h : asksFor s q wait op) :
    exec (takenBy q) s = .next (finished e (bulkServed (admitBulk { s with requests := rest } op wait (clampedBy q)))) := by
  rcases h with ⟨form, value, start, limit, f, rfl, hf, rfl⟩ | ⟨g, rfl, rfl, hg⟩ | ⟨g, rfl, rfl, hg⟩ | ⟨n, rfl, rfl, hn⟩ |
    ⟨n, rfl, rfl, hn⟩ | ⟨rfl, rfl⟩
  · refine (exec_roster_ready hr hp).trans ?_
    rw [doRoster, (filterOf_eq_some_iff _ form value f).2 (by exact hf)]
    rfl
  · refine (exec_recallGroup_ready hr hp).trans ?_
    rw [doRecall, if_pos ((groupConfigured_iff _ g).2 (by exact hg))]
    rfl
  · refine (exec_cancelRecall_ready hr hp).trans ?_
    rw [doCancelRecall, if_pos ((groupConfigured_iff _ g).2 (by exact hg))]
    rfl
  · refine (exec_evacuate_ready hr hp).trans ?_
    rw [doEvacuate, if_pos ((siteConfigured_iff _ n).2 (by exact hn))]
    rfl
  · refine (exec_resync_ready hr hp).trans ?_
    rw [doResync, if_pos ((siteConfigured_iff _ n).2 (by exact hn))]
    rfl
  · exact exec_purge_ready hr hp

/-- Taken while the engine is IDLE, it starts its operation. -/
theorem exec_asks_idle (hp : s.phase = .service) (hr : requestReady s e rest q) (h : asksFor s q wait op) (hb : s.bulk = none) :
    exec (takenBy q) s = .next (begun (answered s e rest (if clampedBy q then .doneClamped else .done) .none) op) := by
  rw [exec_asks hp hr h, admitBulk_idle (by exact hb)]
  exact congrArg _ (begun_finished e _ op _ _)

end

theorem groupConfigured_eq_false {s : State} {g : Nat} (h : wfGroup g = false ∨ tget s.groups g = none) : groupConfigured s g = false := by
  rw [Bool.eq_false_iff, Ne, groupConfigured_iff]
  rintro ⟨hw, hx⟩
  exact h.elim (by simp [hw]) hx

theorem siteConfigured_eq_false {s : State} {n : Nat} (h : wfSite n = false ∨ tget s.sites n = none) : siteConfigured s n = false := by
  rw [Bool.eq_false_iff, Ne, siteConfigured_iff]
  rintro ⟨hw, hx⟩
  exact h.elim (by simp [hw]) hx

theorem clampedBy_roster (wait : Bool) (form value start limit : Nat) :
    (if clampedBy (.roster wait form value start limit) then Code.doneClamped else .done) =
      if limit ≤ 32 then .done else .doneClamped := by
  by_cases h : limit ≤ 32
  · simp [clampedBy, h]
  · simp [clampedBy, h, Nat.lt_of_not_le h]

/-- Settles O44: a request whose parameters exist starts its operation, and one that names nothing is NO-SUCH. -/
theorem bulkRequestsStartWhenIdle : Obligations.BulkRequestsStartWhenIdle := by
  refine ⟨fun s e rest wait hp hb => ⟨fun start limit hr => ?_, fun g x hg hx => ⟨fun hr => ?_, fun hr => ?_⟩,
    fun n x hn hx => ⟨fun hr => ?_, fun hr => ?_⟩, fun hr => ?_⟩,
    fun s e rest wait hp => ⟨fun form value start limit hr => ⟨fun f hf hb => ?_, fun hno => ?_⟩,
      fun g hg => ⟨fun hr => ?_, fun hr => ?_⟩, fun n hn => ⟨fun hr => ?_, fun hr => ?_⟩⟩⟩
  · have hask : asksFor s (.roster wait 3 9 start limit) wait (.roster (.cls .all) start (min 32 limit)) :=
      .inl ⟨3, 9, start, limit, .cls .all, rfl, .inr (.inr ⟨rfl, .all, rfl, by decide⟩), rfl⟩
    have h := exec_asks_idle hp hr hask hb
    rw [clampedBy_roster] at h
    exact h
  · refine (exec_asks_idle hp hr (.inr (.inl ⟨g, rfl, rfl, hg, by simp [hx]⟩)) hb).trans ?_
    simp only [begun, show tget (answered s e rest _ _).groups g = some x from hx]
    rfl
  · refine (exec_asks_idle hp hr (.inr (.inr (.inl ⟨g, rfl, rfl, hg, by simp [hx]⟩))) hb).trans ?_
    simp only [begun, show tget (answered s e rest _ _).groups g = some x from hx]
    rfl
  · refine (exec_asks_idle hp hr (.inr (.inr (.inr (.inl ⟨n, rfl, rfl, hn, by simp [hx]⟩)))) hb).trans ?_
    simp only [begun, show tget (answered s e rest _ _).sites n = some x from hx]
    rfl
  · exact exec_asks_idle hp hr (.inr (.inr (.inr (.inr (.inl ⟨n, rfl, rfl, hn, by simp [hx]⟩))))) hb
  · exact exec_asks_idle hp hr (.inr (.inr (.inr (.inr (.inr ⟨rfl, rfl⟩))))) hb
  · have h := exec_asks_idle hp hr (.inl ⟨form, value, start, limit, f, rfl, hf, rfl⟩) hb
    rw [clampedBy_roster] at h
    exact h
  · refine (exec_roster_ready hr hp).trans ?_
    rw [doRoster, filterOf_eq_none (by exact hno)]
    rfl
  · refine (exec_recallGroup_ready hr hp).trans ?_
    rw [doRecall, groupConfigured_eq_false (by exact hg)]
    rfl
  · refine (exec_cancelRecall_ready hr hp).trans ?_
    rw [doCancelRecall, groupConfigured_eq_false (by exact hg)]
    rfl
  · refine (exec_evacuate_ready hr hp).trans ?_
    rw [doEvacuate, siteConfigured_eq_false (by exact hn)]
    rfl
  · refine (exec_resync_ready hr hp).trans ?_
    rw [doResync, siteConfigured_eq_false (by exact hn)]
    rfl

/-! ### Control of the engine (R169, R170) -/

section
variable {s : State} {e : RequestEntry} {rest : List RequestEntry}

theorem doBulkSuspend_running {b : BulkRun} (hb : s.bulk = some b) (hs : b.suspended = false) :
    doBulkSuspend s = ({ s with bulk := some { b with suspended := true } }, .done, .none) := by
  simp [doBulkSuspend, hb, hs, modBulk]

theorem doBulkSuspend_wrong (h : ∀ b, s.bulk = some b → b.suspended = true) : doBulkSuspend s = (s, .wrongState, .none) := by
  unfold doBulkSuspend
  split
  · rename_i b hb
    exact if_pos (h b hb)
  · rfl

theorem doBulkResume_suspended {b : BulkRun} (hb : s.bulk = some b) (hs : b.suspended = true) :
    doBulkResume s = ({ s with bulk := some { b with suspended := false } }, .done, .none) := by
  simp [doBulkResume, hb, hs, modBulk]

theorem doBulkResume_wrong (h : ∀ b, s.bulk = some b → b.suspended = false) : doBulkResume s = (s, .wrongState, .none) := by
  unfold doBulkResume
  split
  · rename_i b hb
    exact if_neg (by simp [h b hb])
  · rfl

theorem doBulkAbort_current {b : BulkRun} (hb : s.bulk = some b) :
    doBulkAbort 1 (bulkKind b.op) s = (endBulk s b false, .done, .none) := by
  simp [doBulkAbort, abortCurrent, hb]

theorem doBulkAbort_waiting {op : BulkOp} (hw : s.bulkWaiting = some op) :
    doBulkAbort 2 (bulkKind op) s = ({ s with bulkWaiting := none }, .done, .none) := by
  simp [doBulkAbort, abortWaiting, hw]

/-- BULK-ABORT of the current operation, with its kind, ends it as not completed. -/
theorem exec_bulkAbort_current {b : BulkRun} (hp : s.phase = .service) (hr : requestReady s e rest (.bulkAbort 1 (bulkKind b.op)))
    (hb : s.bulk = some b) (hroom : s.notices.length < 64) :
    exec .bulkAbort s = .next (begunWaiting (endedWith (answered s e rest .done .none) b false [] (rosterOf b false))) := by
  rw [exec_bulkAbort_ready hr hp, doBulkAbort_current (by exact hb), endBulk_ended rfl (by exact hroom), begunWaiting_finished, rosterResult_eq]
  rfl

/-- BULK-ABORT of anything else is WRONG-STATE. -/
theorem doBulkAbort_wrong {scope kind : Nat} (h : (scope = 1 ∧ ∀ b, s.bulk = some b → bulkKind b.op ≠ kind) ∨
    (scope = 2 ∧ ∀ op, s.bulkWaiting = some op → bulkKind op ≠ kind) ∨ (scope ≠ 1 ∧ scope ≠ 2)) :
    doBulkAbort scope kind s = (s, .wrongState, .none) := by
  rcases h with ⟨rfl, h⟩ | ⟨rfl, h⟩ | ⟨h1, h2⟩
  · cases hb : s.bulk with
    | none => simp only [doBulkAbort, abortCurrent, hb]
    | some b => simp only [doBulkAbort, abortCurrent, hb, if_neg (h b hb)]
  · cases hw : s.bulkWaiting with
    | none => simp only [doBulkAbort, abortWaiting, hw]
    | some op => simp only [doBulkAbort, abortWaiting, hw, if_neg (h op hw)]
  · unfold doBulkAbort
    split
    · exact absurd rfl h1
    · exact absurd rfl h2
    · rfl

/-- A bulk request met by an operation waits in the empty slot when it carries WAIT, and is BUSY otherwise. -/
theorem exec_asks_met {q : Request} {wait : Bool} {op : BulkOp} (hp : s.phase = .service) (hr : requestReady s e rest q)
    (h : asksFor s q wait op) (hb : s.bulk ≠ none) :
    (wait = true → s.bulkWaiting = none →
      exec (takenBy q) s = .next { answered s e rest .doneWaiting .none with bulkWaiting := some op }) ∧
    (wait = false ∨ s.bulkWaiting ≠ none → exec (takenBy q) s = .next (answered s e rest .busy .none)) := by
  rw [exec_asks hp hr h]
  refine ⟨?_, fun hw => ?_⟩
  · rintro rfl hw
    rw [admitBulk_waits (by exact hb) (by exact hw)]
    rfl
  · rw [admitBulk_busy (by exact hb) (by exact hw)]
    rfl

end

/-- Settles O46: suspend, resume, wait, BUSY and abort, by the operation in hand and the slot. -/
theorem bulkControlRequests : Obligations.BulkControlRequests := by
  refine ⟨?_, fun s e rest hp => ⟨fun hr => ⟨fun b hb hs => ?_, fun h => ?_⟩, fun hr => ⟨fun b hb hs => ?_, fun h => ?_⟩,
    fun wait b hr hb => ?_, fun scope kind hr => ⟨?_, ?_, fun h => ?_⟩⟩, fun s e rest q wait op hp hr h hb => exec_asks_met hp hr h hb⟩
  · rintro s e rest kind b hp hr hb rfl hroom
    exact exec_bulkAbort_current hp hr hb hroom
  · rw [exec_bulkSuspend_ready hr hp, doBulkSuspend_running (by exact hb) hs]
    rfl
  · rw [exec_bulkSuspend_ready hr hp, doBulkSuspend_wrong (by exact h)]
    rfl
  · rw [exec_bulkResume_ready hr hp, doBulkResume_suspended (by exact hb) hs]
    rfl
  · rw [exec_bulkResume_ready hr hp, doBulkResume_wrong (by exact h)]
    rfl
  · exact exec_asks_met hp hr (.inr (.inr (.inr (.inr (.inr ⟨rfl, rfl⟩))))) (by simp [hb])
  · rintro op rfl hw rfl
    rw [exec_bulkAbort_ready hr hp, doBulkAbort_waiting (by exact hw)]
    rfl
  · rintro b rfl hb hop rfl hw hroom
    have hkind : bulkKind b.op = 0x56 := by rw [hop]; rfl
    rw [← hkind] at hr
    rw [exec_bulkAbort_current hp hr hb hroom]
    simp only [begunWaiting, endedWith, answered, hw, rosterOf, hop, List.map_nil, List.append_nil]
  · rw [exec_bulkAbort_ready hr hp, doBulkAbort_wrong (by exact h)]
    rfl

end Sys2Proof.Machine

/-! The step of the Bulk Engine (R167): when it stands still, when it is held, what each kind does with the unit it visits (R173 to R177),
and how each kind completes (R171, R174, R176) — the obligation O45. -/

namespace Sys2Proof.Machine

theorem hasFlag_iff (l : List Membership) (g : Nat) (v : Bool) : hasFlag l g v = true ↔ { group := g, pending := v } ∈ l := by
  simp only [hasFlag, List.any_eq_true, Bool.and_eq_true, beq_iff_eq]
  exact ⟨fun ⟨⟨_, _⟩, hm, hg, hp⟩ => by subst hg hp; exact hm, fun h => ⟨_, h, rfl, rfl⟩⟩

theorem rosterMatch_iff (f : RosterFilter) (r : Radio) : rosterMatch f r = true ↔ matchesFilter r f := by
  cases f with
  | site n => simp [rosterMatch, matchesFilter]
  | group g => simp [rosterMatch, matchesFilter, groupNumbers]
  | cls c => cases c <;> simp [rosterMatch, matchesFilter, Option.isSome_iff_ne_none]

theorem mem_countedSites {st : RecordState} {n : Nat} : n ∈ countedSites st ↔ servingSite st = some n ∨ pendingSite st = some n := by
  simp [countedSites]

theorem recallVisits_iff (st : RecordState) : recallVisits st = true ↔ servingSite st ≠ none ∨ stateName st = .lost := by
  cases st <;> simp [recallVisits, servingSite, stateName]

/-! ### The course of a step -/

section
variable {s : State} {b : BulkRun} {u : Nat} {r : Radio}

theorem exec_bulkStep_idle (hb : s.bulk = none) : exec .bulkStep s = .next s :=
  congrArg Host.Outcome.next (by simp only [stepBulk, hb])

theorem exec_bulkStep_suspended (hb : s.bulk = some b) (hs : b.suspended = true) : exec .bulkStep s = .next s :=
  congrArg Host.Outcome.next (by simp only [stepBulk, hb, hs, if_true])

/-- A RESYNC's step is held while an ordinary directive has no room (R176). -/
theorem exec_bulkStep_held {n : Nat} (hb : s.bulk = some b) (hs : b.suspended = false) (hop : b.op = .resync n)
    (hroom : ¬(s.outbound.length + 1 ≤ 448 ∧ roomForOne s)) :
    exec .bulkStep s = .next { s with bulk := some { b with roomWait := true } } := by
  rw [← hasOrdinaryRoom_iff, Bool.not_eq_true] at hroom
  exact congrArg Host.Outcome.next (by simp [stepBulk, hb, hs, hop, isResync, hroom, modBulk])

/-- Operation b is RUNNING and its step is not held. -/
def steps (s : State) (b : BulkRun) : Prop :=
  s.bulk = some b ∧ b.suspended = false ∧ (isResync b.op = true → hasOrdinaryRoom s = true)

theorem exec_bulkStep_runs (h : steps s b) : exec .bulkStep s = .next (advance s b) := by
  obtain ⟨hb, hs, hroom⟩ := h
  have hno : (isResync b.op && !hasOrdinaryRoom s) = false := by
    cases hr : isResync b.op with
    | false => rfl
    | true => rw [hroom hr]; rfl
  exact congrArg Host.Outcome.next (by simp [stepBulk, hb, hs, hno])

/-- The cursor moves to the next unit, whose record is visited. -/
theorem exec_bulkStep_visits (h : steps s b) (hn : tnext s.radios b.cursor = some u) (hu : tget s.radios u = some r) :
    exec .bulkStep s = .next (visit { s with bulk := some (atUnit b u) } b.op u r) := by
  rw [exec_bulkStep_runs h]
  simp only [advance, hn, hu]
  rfl

/-- With no unit above the cursor the operation completes. -/
theorem exec_bulkStep_ends (h : steps s b) (hn : tnext s.radios b.cursor = none) :
    exec .bulkStep s = .next (endBulk { s with bulk := some { b with roomWait := false } } { b with roomWait := false } true) := by
  rw [exec_bulkStep_runs h]
  simp only [advance, hn]

end

/-! ### Visits -/

section
variable {s : State} {b : BulkRun} {u : Nat} {r : Radio}

theorem modBulk_of_some {f : BulkRun → BulkRun} (hb : s.bulk = some b) : modBulk s f = { s with bulk := some (f b) } := by
  rw [modBulk, hb]
  rfl

theorem visitRoster_passed {f : RosterFilter} (h : ¬matchesFilter r f) (limit : Nat) : visitRoster s f limit u r = s :=
  if_neg (mt (rosterMatch_iff f r).1 h)

theorem visitRoster_counted {f : RosterFilter} (h : matchesFilter r f) (hb : s.bulk = some b) :
    visitRoster s f 0 u r = { s with bulk := some (raised b 2) } := by
  rw [visitRoster, if_pos ((rosterMatch_iff f r).2 h), if_pos rfl, modBulk_of_some hb]
  rfl

theorem visitRoster_collected {f : RosterFilter} {limit : Nat} (h : matchesFilter r f) (hl : limit ≠ 0) (hb : s.bulk = some b)
    (hroom : b.page.length < limit) :
    visitRoster s f limit u r = { s with bulk := some { raised b 1 with page := b.page ++ [rosterEntry u r] } } := by
  rw [visitRoster, if_pos ((rosterMatch_iff f r).2 h), if_neg hl, modBulk_of_some hb]
  simp only [hb, if_pos hroom]
  rfl

/-- A match beyond the page completes the ROSTER with its more flag set (R173). -/
theorem visitRoster_more {f : RosterFilter} {start limit : Nat} (h : matchesFilter r f) (hl : limit ≠ 0) (hb : s.bulk = some b)
    (hop : b.op = .roster f start limit) (hfull : limit ≤ b.page.length) (hroom : s.notices.length < 64) :
    visitRoster s f limit u r =
      begunWaiting (endedWith s b true [] (some (true, limit - b.page.length, b.page))) := by
  rw [visitRoster, if_pos ((rosterMatch_iff f r).2 h), if_neg hl]
  simp only [hb, if_neg (Nat.not_lt.2 hfull)]
  have hresult : rosterResult { b with more := true } true = some (true, limit - b.page.length, b.page) := by simp [rosterResult, hop]
  rw [endBulk_ended (by rw [if_pos rfl, completionWork, hop]) (by exact hroom), hresult]
  rfl

/-- A RECALL flags a member whose flag is clear (R123). -/
theorem visitRecall_flags {g : Nat} {x : Group} (hb : s.bulk = some b) (hu : tget s.radios u = some r)
    (hst : servingSite r.state ≠ none ∨ stateName r.state = .lost) (hm : { group := g, pending := false } ∈ r.groups)
    (hx : tget s.groups g = some x) :
    visitRecall s g u r = { s with
      radios := tput s.radios u { r with groups := setFlag r.groups g true }
      groups := tput s.groups g { x with unreached := x.unreached + 1 }
      bulk := some (raised b 1) } := by
  rw [visitRecall, if_pos (by rw [(recallVisits_iff _).2 hst, (hasFlag_iff _ _ _).2 hm]; rfl), modBulk_of_some (by exact hb)]
  simp only [raiseUnreached, modGroup, modRadio, tmod_of_some _ _ hu, tmod_of_some _ _ hx]
  rfl

theorem visitRecall_passed {g : Nat} (h : r.state = .joining ∨ stateName r.state = .retired ∨ { group := g, pending := false } ∉ r.groups) :
    visitRecall s g u r = s := by
  refine if_neg fun hv => ?_
  rw [Bool.and_eq_true, recallVisits_iff, hasFlag_iff] at hv
  obtain ⟨hst, hm⟩ := hv
  rcases h with h | h | h
  · simp [h, servingSite, stateName] at hst
  · cases e : r.state <;> simp [e, servingSite, stateName] at h hst
  · exact h hm

/-- A count lowered while its recall is not ACTIVE raises no notice. -/
theorem lowerUnreached_inactive {g : Nat} {x : Group} (hx : tget s.groups g = some x) (hstate : x.recallState ≠ .active) :
    lowerUnreached s g = { s with groups := tput s.groups g { x with unreached := x.unreached - 1 } } := by
  rw [lowerUnreached, hx]
  simp only [hstate, false_and, and_false, if_false, modGroup, tmod_of_some _ _ hx]

/-- A CANCEL-RECALL clears a flag, and no RECALL-COMPLETE follows while its recall is not ACTIVE (R125). -/
theorem visitCancel_clears {g : Nat} {x : Group} (hb : s.bulk = some b) (hu : tget s.radios u = some r)
    (hm : { group := g, pending := true } ∈ r.groups) (hx : tget s.groups g = some x) (hstate : x.recallState ≠ .active) :
    visitCancel s g u r = { s with
      radios := tput s.radios u { r with groups := setFlag r.groups g false }
      groups := tput s.groups g { x with unreached := x.unreached - 1 }
      bulk := some (raised b 1) } := by
  rw [visitCancel, if_pos ((hasFlag_iff _ _ _).2 hm), lowerUnreached_inactive (by exact hx) hstate, modBulk_of_some (by exact hb)]
  simp only [modRadio, tmod_of_some _ _ hu]
  rfl

theorem visitCancel_passed {g : Nat} (h : { group := g, pending := true } ∉ r.groups) : visitCancel s g u r = s :=
  if_neg (mt (hasFlag_iff _ _ _).1 h)

theorem visitEvacuate_stranded {n l : Nat} (hb : s.bulk = some b) (hst : r.state = .registered n l)
    (hc : evacuationChoice s n r.hearing = none) : visitEvacuate s n u r = { s with bulk := some (raised b 3) } := by
  simp only [visitEvacuate, hst, if_true, hc, modBulk_of_some hb]
  rfl

theorem visitEvacuate_deferred {n l p : Nat} (hb : s.bulk = some b) (hst : r.state = .registered n l)
    (hc : evacuationChoice s n r.hearing = some p) (hroom : ¬(s.outbound.length + 2 * movingCount s + 4 ≤ 512)) :
    visitEvacuate s n u r = { s with bulk := some (raised b 2) } := by
  rw [← hasRoom_iff] at hroom
  simp only [visitEvacuate, hst, if_true, hc, if_neg hroom, modBulk_of_some hb]
  rfl

theorem visitEvacuate_starts {n l p : Nat} (hst : r.state = .registered n l) (hc : evacuationChoice s n r.hearing = some p)
    (hroom : s.outbound.length + 2 * movingCount s + 4 ≤ 512) :
    visitEvacuate s n u r = modBulk (startHandover s u n l p s.partTime) count1 := by
  rw [← hasRoom_iff] at hroom
  simp only [visitEvacuate, hst, if_true, hc, hroom]

theorem visitEvacuate_moving {n a p l : Nat} {k : Handover} (hb : s.bulk = some b) (hst : r.state = .moving a p l k) (hn : n = a ∨ n = p) :
    visitEvacuate s n u r = { s with bulk := some (raised b 4) } := by
  simp only [visitEvacuate, hst]
  rw [if_pos (hn.imp Eq.symm Eq.symm), modBulk_of_some hb]
  rfl

theorem visitEvacuate_passed {n : Nat} (h : n ∉ countedSites r.state ∨ stateName r.state = .presumed) : visitEvacuate s n u r = s := by
  rw [mem_countedSites] at h
  cases hst : r.state with
  | registered a l =>
    have hne : a ≠ n := by simpa [hst, servingSite, pendingSite, stateName] using h
    simp only [visitEvacuate, hst, if_neg hne]
  | moving a p l k =>
    have hne : ¬(a = n ∨ p = n) := by simpa [hst, servingSite, pendingSite, stateName] using h
    simp only [visitEvacuate, hst, if_neg hne]
  | joining | presumed | lost | retired => simp only [visitEvacuate, hst]

theorem visitResync_registered {n : Nat} (h : (∃ l, r.state = .registered n l) ∨ (∃ y k, r.state = .presumed n y k)) :
    visitResync s n u r = resyncAdopt s n u r := by
  rcases h with ⟨l, h⟩ | ⟨y, k, h⟩ <;> simp only [visitResync, h, if_true]

theorem resyncAdopt_works {n : Nat} (hb : s.bulk = some b) (hw : siteWorks s n = true) :
    resyncAdopt s n u r = { s with bulk := some (raised b 1), outbound := s.outbound ++ [.adopt n u (groupNumbers r.groups)] } := by
  rw [resyncAdopt, if_pos hw, modBulk_of_some (by exact hb)]
  rfl

theorem resyncAdopt_missed {n : Nat} (hb : s.bulk = some b) (hw : siteWorks s n = false) :
    resyncAdopt s n u r = { s with bulk := some { raised b 2 with gap := true } } := by
  rw [resyncAdopt, if_neg (by simp [hw]), modBulk_of_some hb]
  rfl

theorem visitResync_moving {n a p l : Nat} {k : Handover} (hb : s.bulk = some b) (hst : r.state = .moving a p l k) (hn : n = a ∨ n = p) :
    visitResync s n u r = { s with bulk := some (raised b 3) } := by
  simp only [visitResync, hst]
  rw [if_pos (hn.imp Eq.symm Eq.symm), modBulk_of_some hb]
  rfl

theorem visitResync_passed {n : Nat} (h : n ∉ countedSites r.state) : visitResync s n u r = s := by
  rw [mem_countedSites] at h
  cases hst : r.state with
  | registered a l | presumed a y k =>
    have hne : a ≠ n := by simpa [hst, servingSite, pendingSite] using h
    simp only [visitResync, hst, if_neg hne]
  | moving a p l k =>
    have hne : ¬(a = n ∨ p = n) := by simpa [hst, servingSite, pendingSite] using h
    simp only [visitResync, hst, if_neg hne]
  | joining | lost | retired => simp only [visitResync, hst]

theorem visitPurge_frees (ha : Ascending s.radios) (hb : s.bulk = some b) (hu : tget s.radios u = some r)
    (hst : stateName r.state = .retired) (hclear : ∀ m ∈ r.groups, m.pending = false) :
    visitPurge s u r = { s with radios := tdel s.radios u, bulk := some (raised b 1) } := by
  cases e : r.state <;> simp only [e, stateName, reduceCtorEq] at hst
  simp only [visitPurge, e, freeRecord_of_clear ha hu hclear]
  rw [modBulk_of_some (by exact hb)]
  rfl

theorem visitPurge_passed (hst : stateName r.state ≠ .retired) : visitPurge s u r = s := by
  cases e : r.state <;> simp only [visitPurge, e]
  simp [e, stateName] at hst

end

/-! ### An EVACUATE's handover (R175) -/

theorem evacuationChoice_works {s : State} {a p : Nat} {l : List Hearing} (h : evacuationChoice s a l = some p) :
    siteWorks s p = true := by
  obtain ⟨b, hb, rfl⟩ := Option.map_eq_some_iff.1 h
  obtain ⟨_, _, y, _, hy, ⟨_, hw, _⟩, _⟩ := mem_eligibleTargets.1 (bestOf_mem hb)
  rw [siteWorks_of_tget hy, hw]

/-- What the handover that an EVACUATE starts leaves. -/
theorem visitEvacuate_moves {s : State} {b : BulkRun} {u n l p : Nat} {r : Radio} (hb : s.bulk = some b) (hu : tget s.radios u = some r)
    (hst : r.state = .registered n l) (hc : evacuationChoice s n r.hearing = some p)
    (hroom : s.outbound.length + 2 * movingCount s + 4 ≤ 512) :
    (visitEvacuate s n u r).radios = tput s.radios u { r with
      state := .moving n p l {
        tag := s.tagCounter, readySeen := false, quiescedSeen := false, deadline := s.partTime + s.params.handoverTimeout * 10 } } ∧
    (visitEvacuate s n u r).tagCounter = (s.tagCounter + 1) % 65536 ∧
    (∃ more, (visitEvacuate s n u r).outbound = s.outbound ++ .prepare p u s.tagCounter (groupNumbers r.groups) ::
      ((if siteWorks s n then [.quiesce n u s.tagCounter] else []) ++ more)) ∧
    (∀ j, (tget (visitEvacuate s n u r).sites j).map Site.count = (tget s.sites j).map fun x => if j = p then x.count + 1 else x.count) ∧
    engine (visitEvacuate s n u r) = engine { s with bulk := some (raised b 1) } ∧ outer (visitEvacuate s n u r) = outer s := by
  obtain ⟨htag, ⟨more, hout⟩, hcounts, hengine, houter⟩ :=
    startHandover_facts s u n l p s.partTime (evacuationChoice_works hc)
  rw [groupsOf_of_some hu] at hout
  have hbulk : (startHandover s u n l p s.partTime).bulk = some b := (congrArg Prod.fst hengine).trans hb
  have hrest : (startHandover s u n l p s.partTime).bulkWaiting = s.bulkWaiting ∧
      (startHandover s u n l p s.partTime).bulkLast = s.bulkLast := Prod.mk.inj (congrArg Prod.snd hengine)
  rw [visitEvacuate_starts hst hc hroom, modBulk_of_some hbulk]
  refine ⟨startHandover_radios hu n l p s.partTime, htag, ⟨more, hout⟩, hcounts, ?_, houter⟩
  simp only [engine, hrest]
  rfl

/-! ### Completions (R171, R173, R174, R176) -/

section
variable {s : State} {b : BulkRun}

/-- What an operation without completion work leaves as it completes. -/
theorem endBulk_workless (hwork : completionWork s b = s) (hroom : s.notices.length < 64) :
    endBulk s b true = begunWaiting (endedWith s b true [] (rosterResult b true)) :=
  endBulk_ended ((if_pos rfl).trans hwork) hroom

/-- A RECALL completes with RECALL-COMPLETE where none is unreached (R124, R174). -/
theorem endBulk_recall {g : Nat} {x : Group} (hop : b.op = .recallGroup g) (hx : tget s.groups g = some x)
    (hroom : s.notices.length + 2 ≤ 64) :
    endBulk s b true = begunWaiting (endedWith s b true (if x.unreached = 0 then [.recallComplete g] else []) none) := by
  have hwork : completionWork s b = if x.unreached = 0 then raise s (.recallComplete g) else s := by simp only [completionWork, hop, hx]
  have hresult : rosterResult b true = none := by simp only [rosterResult, hop]
  rw [← hresult]
  split
  · rename_i h0
    rw [if_pos h0, raise_of_room (by omega)] at hwork
    rw [endBulk_ended ((if_pos rfl).trans hwork) (by simp only [List.length_append, List.length_singleton]; omega)]
    simp only [endedWith, List.map_nil, List.append_nil, List.map_cons]
  · rename_i h0
    rw [if_neg h0] at hwork
    exact endBulk_workless hwork (by omega)

theorem endBulk_cancel {g : Nat} {x : Group} (hop : b.op = .cancelRecall g) (hx : tget s.groups g = some x)
    (hroom : s.notices.length + 2 ≤ 64) :
    endBulk s b true =
      begunWaiting { endedWith s b true [] none with groups := tput s.groups g { x with recallState := .off } } := by
  have hwork : completionWork s b = { s with groups := tput s.groups g { x with recallState := .off } } := by
    simp only [completionWork, hop, modGroup, tmod_of_some _ _ hx]
  have hresult : rosterResult b true = none := by simp only [rosterResult, hop]
  rw [endBulk_ended ((if_pos rfl).trans hwork) (by exact (by omega : s.notices.length < 64)), hresult]
  rfl

theorem endBulk_resync {n : Nat} {x : Site} (hop : b.op = .resync n) (hx : tget s.sites n = some x)
    (hroom : s.notices.length + 2 ≤ 64) :
    endBulk s b true = begunWaiting { endedWith s b true [] none with
      sites := if b.gap then s.sites else tput s.sites n { x with syncLost := false } } := by
  have hwork : completionWork s b = { s with sites := if b.gap then s.sites else tput s.sites n { x with syncLost := false } } := by
    simp only [completionWork, hop, modSite, tmod_of_some _ _ hx]
    split <;> rfl
  have hresult : rosterResult b true = none := by simp only [rosterResult, hop]
  rw [endBulk_ended ((if_pos rfl).trans hwork) (by exact (by omega : s.notices.length < 64)), hresult]
  rfl

/-- The request in the waiting slot starts as a PURGE completes, whether or not BULK-DONE has room (R171). -/
theorem endBulk_hands_on {op : BulkOp} (hop : b.op = .purge) (hw : s.bulkWaiting = some op) :
    ∃ t : State, endBulk s b true = begun t op ∧ t.bulkWaiting = none ∧ t.groups = s.groups ∧ t.sites = s.sites ∧
      t.bulkLast = some ({ op := .purge, completed := true, visited := b.visited, counters := b.counters }, s.partTime) := by
  have hended : bulkEnded s b true = { raise s (.bulkDone (accountOf b true) (rosterResult b true)) with
      bulkLast := some (accountOf b true, s.partTime), bulk := none } := by
    simp only [bulkEnded, if_true, completionWork, hop, raise_partTime]
  refine ⟨{ bulkEnded s b true with bulkWaiting := none }, ?_, rfl, ?_, ?_, ?_⟩
  · rw [endBulk_eq, begunWaiting_eq, begunWaiting, show (bulkEnded s b true).bulkWaiting = some op from by rw [hended]; simpa using hw]
  · rw [hended]; exact raise_groups s _
  · rw [hended]; exact raise_sites s _
  · rw [hended, ← hop]; rfl

end

theorem begun_facts (s : State) (op : BulkOp) :
    (begun s op).bulkWaiting = s.bulkWaiting ∧ (begun s op).bulkLast = s.bulkLast ∧
      (begun s op).bulk = some (startedAt op (match op with | .roster _ start _ => start | _ => 0)) := by
  cases op with
  | roster f start limit => exact ⟨rfl, rfl, rfl⟩
  | recallGroup g => simp only [begun]; cases tget s.groups g <;> exact ⟨rfl, rfl, rfl⟩
  | cancelRecall g => simp only [begun]; cases tget s.groups g <;> exact ⟨rfl, rfl, rfl⟩
  | evacuate n => simp only [begun]; cases tget s.sites n <;> exact ⟨rfl, rfl, rfl⟩
  | resync n => exact ⟨rfl, rfl, rfl⟩
  | purge => exact ⟨rfl, rfl, rfl⟩

end Sys2Proof.Machine

/-! The steps of the Bulk Engine assembled: the obligation O45, for the unit that a step visits and for the end of the sweep, kind by
kind (R167, R171, R173 to R177). -/

namespace Sys2Proof.Machine

/-- The state in which operation b visits unit u. -/
def visiting (s : State) (b : BulkRun) (u : Nat) : State := { s with bulk := some (atUnit b u) }

section
variable {s : State} {b : BulkRun} {u : Nat} {r : Radio} {op : BulkOp}

/-- A step of an operation that is no RESYNC is never held. -/
theorem steps_of_op (hb : s.bulk = some b) (hs : b.suspended = false) (hop : b.op = op) (hr : isResync op = false) : steps s b :=
  ⟨hb, hs, fun h => by rw [hop, hr] at h; cases h⟩

/-- The visit of an operation whose kind is known. -/
theorem exec_bulkStep_visit (h : steps s b) (hop : b.op = op) (hn : tnext s.radios b.cursor = some u)
    (hu : tget s.radios u = some r) : exec .bulkStep s = .next (visit (visiting s b u) op u r) := by
  rw [exec_bulkStep_visits h hn hu, hop]
  rfl

theorem begunWaiting_empty (hw : s.bulkWaiting = none) : begunWaiting s = s := by
  rw [begunWaiting, hw]

/-- The completion of an operation whose only completion work is its account. -/
theorem exec_bulkStep_workless (h : steps s b) (hn : tnext s.radios b.cursor = none)
    (hwork : ∀ t c, completionWork t { b with roomWait := c } = t) (hroom : s.notices.length < 64) :
    exec .bulkStep s = .next (begunWaiting (endedWith s { b with roomWait := false } true [] (rosterOf b b.more))) := by
  rw [exec_bulkStep_ends h hn, endBulk_workless (hwork _ _) (by exact hroom), rosterResult_eq]
  rfl

/-- The completion of a PURGE with an empty slot leaves the engine IDLE. -/
theorem exec_bulkStep_purged (h : steps s b) (hop : b.op = .purge) (hn : tnext s.radios b.cursor = none) (hw : s.bulkWaiting = none)
    (hroom : s.notices.length < 64) :
    exec .bulkStep s = .next (endedWith s { b with roomWait := false } true [] none) := by
  rw [exec_bulkStep_workless h hn (fun t c => by simp only [completionWork, hop]) hroom, rosterOf, hop]
  exact congrArg _ (begunWaiting_empty hw)

end

/-- Settles O45: the step stands still, is held, visits the next unit by its kind, or completes. -/
theorem bulkStepVisitsOrCompletes : Obligations.BulkStepVisitsOrCompletes := by
  refine ⟨fun s ha => ⟨exec_bulkStep_idle, fun b hb => ⟨exec_bulkStep_suspended hb, fun n hs hop => exec_bulkStep_held hb hs hop,
    fun u r g x hs hop hn hu hst hm hx => ?_, fun u r hs hop hn hu hst hclear => ?_, fun hs hop hn hw hroom => ?_⟩⟩,
    fun s b ha hb hs => ⟨fun u r hn hu => ?_, fun hn => ⟨fun hroom => ?_, fun op hw hop => ?_⟩⟩⟩
  · exact (exec_bulkStep_visit (steps_of_op hb hs hop rfl) hop hn hu).trans
      (congrArg _ (visitRecall_flags (s := visiting s b u) rfl hu hst hm hx))
  · exact (exec_bulkStep_visit (steps_of_op hb hs hop rfl) hop hn hu).trans
      (congrArg _ (visitPurge_frees (s := visiting s b u) ha rfl hu hst hclear))
  · rw [exec_bulkStep_purged (steps_of_op hb hs hop rfl) hop hn hw hroom]
    simp only [endedWith, hop, List.map_nil, List.append_nil]
  · have visits : ∀ {op : BulkOp}, b.op = op → isResync op = false →
        exec .bulkStep s = .next (visit (visiting s b u) op u r) :=
      fun hop hr => exec_bulkStep_visit (steps_of_op hb hs hop hr) hop hn hu
    refine ⟨fun f start limit hop => ?_, fun g hop h => ?_, fun g hop => ⟨fun h => ?_, fun x hm hx hstate => ?_⟩, fun n hop => ?_,
      fun n hop h448 hroom => ?_, fun hop hst => ?_⟩
    · rw [visits hop rfl]
      refine ⟨fun hf => ?_, ?_, fun hf hl hroom => ?_, fun hf hl hfull hroom => ?_⟩
      · exact congrArg _ (visitRoster_passed (s := visiting s b u) hf limit)
      · rintro hf rfl
        exact congrArg _ (visitRoster_counted (s := visiting s b u) hf rfl)
      · exact congrArg _ (visitRoster_collected (s := visiting s b u) hf hl rfl hroom)
      · exact congrArg _ (visitRoster_more (s := visiting s b u) hf hl rfl hop hfull hroom)
    · exact (visits hop rfl).trans (congrArg _ (visitRecall_passed (s := visiting s b u) h))
    · exact (visits hop rfl).trans (congrArg _ (visitCancel_passed (s := visiting s b u) h))
    · exact (visits hop rfl).trans (congrArg _ (visitCancel_clears (s := visiting s b u) rfl hu hm hx hstate))
    · rw [visits hop rfl]
      refine ⟨fun l hst hc => ?_, fun l p hst hc hroom => ?_, fun l p hst hc hroom => ?_, fun a p l k hst hn => ?_, fun h => ?_⟩
      · exact congrArg _ (visitEvacuate_stranded (s := visiting s b u) rfl hst hc)
      · exact congrArg _ (visitEvacuate_deferred (s := visiting s b u) rfl hst hc hroom)
      · obtain ⟨hradios, htag, ⟨more, hout⟩, hcounts, hengine, houter⟩ :=
          visitEvacuate_moves (s := visiting s b u) rfl hu hst hc hroom
        refine ⟨_, more, rfl, ?_, fun v hv => ?_, htag, hout, hcounts, hengine, houter⟩
        · exact (congrArg (tget · u) hradios).trans (tget_tput_self ..)
        · exact (congrArg (tget · v) hradios).trans (tget_tput_ne _ _ hv)
      · exact congrArg _ (visitEvacuate_moving (s := visiting s b u) rfl hst hn)
      · exact congrArg _ (visitEvacuate_passed (s := visiting s b u) h)
    · rw [exec_bulkStep_visit ⟨hb, hs, fun _ => (hasOrdinaryRoom_iff s).2 ⟨h448, hroom⟩⟩ hop hn hu]
      refine ⟨fun hst => ⟨fun hw => ?_, fun hw => ?_⟩, fun a p l k hst hn => ?_, fun h => ?_⟩
      · exact congrArg _ ((visitResync_registered (s := visiting s b u) hst).trans (resyncAdopt_works rfl hw))
      · exact congrArg _ ((visitResync_registered (s := visiting s b u) hst).trans (resyncAdopt_missed rfl hw))
      · exact congrArg _ (visitResync_moving (s := visiting s b u) rfl hst hn)
      · exact congrArg _ (visitResync_passed (s := visiting s b u) h)
    · exact (visits hop rfl).trans (congrArg _ (visitPurge_passed (s := visiting s b u) hst))
  · have ends : ∀ {op : BulkOp}, b.op = op → isResync op = false →
        exec .bulkStep s = .next (endBulk { s with bulk := some { b with roomWait := false } } { b with roomWait := false } true) :=
      fun hop hr => exec_bulkStep_ends (steps_of_op hb hs hop hr) hn
    refine ⟨fun f start limit hop => ?_, fun g x hop hx => ?_, fun g x hop hx => ?_, fun n hop => ?_, fun hop => ?_,
      fun n x hop hx h448 hone => ?_⟩
    · rw [exec_bulkStep_workless (steps_of_op hb hs hop rfl) hn (fun t c => by simp only [completionWork, hop]) (by omega), rosterOf, hop]
    · exact (ends hop rfl).trans (congrArg _ (endBulk_recall hop hx hroom))
    · exact (ends hop rfl).trans (congrArg _ (endBulk_cancel hop hx hroom))
    · rw [exec_bulkStep_workless (steps_of_op hb hs hop rfl) hn (fun t c => by simp only [completionWork, hop]) (by omega), rosterOf, hop]
    · rw [exec_bulkStep_workless (steps_of_op hb hs hop rfl) hn (fun t c => by simp only [completionWork, hop]) (by omega), rosterOf, hop]
    · exact (exec_bulkStep_ends ⟨hb, hs, fun _ => (hasOrdinaryRoom_iff s).2 ⟨h448, hone⟩⟩ hn).trans
        (congrArg _ (endBulk_resync hop hx hroom))
  · obtain ⟨t, ht, hslot, hgroups, hsites, hlast⟩ :=
      endBulk_hands_on (s := { s with bulk := some { b with roomWait := false } }) (b := { b with roomWait := false }) hop hw
    obtain ⟨hwaiting, hlast', hbulk⟩ := begun_facts t op
    refine ⟨begun t op, (exec_bulkStep_ends (steps_of_op hb hs hop rfl) hn).trans (congrArg _ ht), hwaiting.trans hslot, hbulk,
      hlast'.trans hlast, ?_, ?_, ?_⟩
    · rintro g x rfl hx
      simp only [begun, hgroups, hx]
    · rintro g x rfl hx
      simp only [begun, hgroups, hx]
    · rintro n x rfl hx
      simp only [begun, hsites, hx]

end Sys2Proof.Machine
